-- ==== Sys2Proof/Word.lean ====
section
/-! DEFINITION. Bytes, 32-bit counts, the hub's index types, and the fixed table type that holds a fixed number of like things. -/

namespace Sys2Proof

/-- One byte of a frame, of a clip or of the DRAM. -/
abbrev Byte := BitVec 8

/-- A 32-bit count that wraps: the time base (R181), a stamp, the sequence counter (R4). -/
abbrev Count32 := BitVec 32

/-- Port 0, 1 or 2 (00_scope.md section 3). -/
abbrev Port := Fin 3

/-- Programme 0 (the PA) to 12. -/
abbrev Prog := Fin 13

/-- A DRAM page (R1). -/
abbrev Page := Fin 4096

/-- A word of a page (R1). -/
abbrev WordNo := Fin 512

/-- A clip map entry (R4). -/
abbrev EntryNo := Fin 192

/-- A stop index (R39). -/
abbrev StopNo := Fin 64

/-- A segment index (R49). -/
abbrev SegNo := Fin 256

/-- A seat index (R119). -/
abbrev SeatNo := Fin 80

/-- A layer L0 to L3 (R136). -/
abbrev LayerNo := Fin 4

/-- A cue player P0 to P2 (R145). -/
abbrev PlayerNo := Fin 3

/-- A lamp zone (R135). -/
abbrev ZoneNo := Fin 48

/-- A fixed number `n` of like things: a register table, as plain data. -/
structure Tab (α : Type) (n : Nat) where
  list : List α
  len  : list.length = n
deriving DecidableEq, Repr

variable {α β : Type} {n : Nat}

/-- The thing at index `i`. -/
def Tab.get (t : Tab α n) (i : Fin n) : α :=
  t.list.get (i.cast t.len.symm)

/-- The table with the thing at index `i` replaced. -/
def Tab.set (t : Tab α n) (i : Fin n) (v : α) : Tab α n :=
  ⟨t.list.set i.val v, by rw [List.length_set, t.len]⟩

/-- The table with every thing replaced by its image. -/
def Tab.map (f : α → β) (t : Tab α n) : Tab β n :=
  ⟨t.list.map f, by rw [List.length_map, t.len]⟩

/-- The table of `n` copies of one thing. -/
def Tab.fill (n : Nat) (v : α) : Tab α n :=
  ⟨List.replicate n v, List.length_replicate⟩

/-- The table whose thing at index `i` is `f i`. -/
def Tab.ofFn (f : Fin n → α) : Tab α n :=
  ⟨List.ofFn f, List.length_ofFn⟩

/-- The thing at index `i` replaced by its image. -/
def Tab.modify (t : Tab α n) (i : Fin n) (f : α → α) : Tab α n :=
  t.set i (f (t.get i))

/-- Every index of a table of `n`, ascending. -/
def indices (n : Nat) : List (Fin n) := List.ofFn (fun i => i)

/-- A number as an index below `n`, where it is one. -/
def toIndex (n k : Nat) : Option (Fin n) :=
  if h : k < n then some ⟨k, h⟩ else none

end Sys2Proof
end

