-- ==== Sys2Proof/Config.lean ====
section
/-! DEFINITION. The hub's fixed capacities (00_scope.md section 2) and the values the manual leaves open. -/

namespace Sys2Proof.Config

/-- Lines of the write buffer (R15). -/
def bufferLines : Nat := 4
/-- Requests of the scrub queue (R26). -/
def scrubDepth : Nat := 8
/-- Pages that pinned clips may hold (R8). -/
def pinLimit : Nat := 3072
/-- Records of an event queue (R182). -/
def eventDepth : Nat := 16
/-- Items of a commentary queue (R56). -/
def commentaryDepth : Nat := 4
/-- Items of the announcement queue (R77). -/
def announceDepth : Nat := 8
/-- Blocks of the mirror buffer (R114). -/
def mirrorDepth : Nat := 2
/-- Output samples of a mixer block (00_scope.md section 3). -/
def blockSamples : Nat := 192
/-- Largest distance along the route (R31). -/
def maxDistance : Nat := 262143
/-- Largest speed (R31). -/
def maxSpeed : Nat := 120
/-- Largest clip length in bytes (R12). -/
def maxClipLength : Nat := 4194304
/-- Milliseconds after which a live channel times out (R94). -/
def liveLimit : Nat := 90000
/-- Largest command payload (R179). -/
def maxPayload : Nat := 400

/-- FREE VALUE (log 6). The manual does not say what the hub clocks out behind the last byte of a response.
Byte `k` so clocked out since power-on is `trailingByte k`. -/
opaque trailingByte : Nat → Byte

/-- FREE VALUE (log 5). The 8 check bits of a DRAM word (R1): the manual does not give their code. -/
opaque checkBits : List Byte → Byte

end Sys2Proof.Config
end

