-- ==== Sys2Proof/Syntax.lean ====
section
/-! DEFINITION. The events of the hub: one constructor for each row of spec/opcode_table.json, with its operands.

A command row carries the port on which the owning block takes the command in hand (R180); the command's arguments are the
payload that the port's frame brought (sections 11.3 and 11.4), which the port's response slot holds until then (log 1). -/

namespace Sys2Proof

/-- The live channels and their microphones (R92): 0 DRIVER, 1 GUIDE. -/
inductive Channel where
  | driver
  | guide
deriving DecidableEq, Repr

/-- How many bits of a DRAM word and its check bits are wrong (section 1.6). -/
inductive WordError where
  | single
  | double
deriving DecidableEq, Repr

/-- A stored bit that goes wrong of its own accord: an operand of the time base tick (log 5).
`link` and `map` upset a value of an internal table under parity (R28), `word` a DRAM word (R24, R25). -/
inductive Upset where
  | link (p : Page)
  | map (e : EntryNo)
  | word (p : Page) (w : WordNo) (err : WordError)
deriving DecidableEq, Repr

/-- The commands of section 11.2, in code order. -/
inductive Command where
  | identify | eventRead | eventMask | reserve | reservationRead | park | unpark | restart
  | loadOpen | loadData | loadClose | loadAbort | clipDelete | clipPin | clipUnpin | clipQuery
  | storeStatus | position | jump | routeClear | cursorRead | stopWrite | stopRemove | stopSkip
  | stopRequest | stopRead | segmentWrite | segmentRemove | segmentRead | commentaryRead | announce | announceCancel
  | announceRead | liveOn | liveOff | programmeWrite | programmeRead | mixCountClear | duckWrite | duckRead
  | loudnessWrite | loudnessRead | seatConfig | seatRead | seatSummary | layerWrite | layerRead | lightSet
  | lightStatus | cueStart | cueStop | faultRead | faultClear | faultEnable | faultResume
deriving DecidableEq, Repr

/-- The operations and events of opcode_table.json. -/
inductive Instr where
  /-- TRANSACTION (R178): a chip-select period on a port, with the bytes clocked in. -/
  | transaction (p : Port) (bytes : List Byte)
  /-- CONDITIONAL_TEST (R161): the Reservation Unit tests the port's conditional write in hand. -/
  | conditionalTest (p : Port)
  | identify (p : Port)
  | eventRead (p : Port)
  | eventMask (p : Port)
  | reserve (p : Port)
  | reservationRead (p : Port)
  | park (p : Port)
  | unpark (p : Port)
  | restart (p : Port)
  | loadOpen (p : Port)
  | loadData (p : Port)
  | loadClose (p : Port)
  | loadAbort (p : Port)
  | clipDelete (p : Port)
  | clipPin (p : Port)
  | clipUnpin (p : Port)
  | clipQuery (p : Port)
  | storeStatus (p : Port)
  | position (p : Port)
  | jump (p : Port)
  | routeClear (p : Port)
  | cursorRead (p : Port)
  | stopWrite (p : Port)
  | stopRemove (p : Port)
  | stopSkip (p : Port)
  | stopRequest (p : Port)
  | stopRead (p : Port)
  | segmentWrite (p : Port)
  | segmentRemove (p : Port)
  | segmentRead (p : Port)
  | commentaryRead (p : Port)
  | announce (p : Port)
  | announceCancel (p : Port)
  | announceRead (p : Port)
  | liveOn (p : Port)
  | liveOff (p : Port)
  | programmeWrite (p : Port)
  | programmeRead (p : Port)
  | mixCountClear (p : Port)
  | duckWrite (p : Port)
  | duckRead (p : Port)
  | loudnessWrite (p : Port)
  | loudnessRead (p : Port)
  | seatConfig (p : Port)
  | seatRead (p : Port)
  | seatSummary (p : Port)
  | layerWrite (p : Port)
  | layerRead (p : Port)
  | lightSet (p : Port)
  | lightStatus (p : Port)
  | cueStart (p : Port)
  | cueStop (p : Port)
  | faultRead (p : Port)
  | faultClear (p : Port)
  | faultEnable (p : Port)
  | faultResume (p : Port)
  /-- POWER_ON_RESET (R189): the reset input is released. -/
  | powerOnReset
  | parkLineActive
  | parkLineInactive
  /-- TIME_BASE_TICK (R181), with the stored bits that went wrong in that millisecond. -/
  | timeBaseTick (upsets : List Upset)
  | liveTimeout (c : Channel)
  | holdoffExpiry (p : Prog)
  /-- MIC_PERIOD_END (R96): the channel's frame of 192 samples, or none when it is missing. -/
  | micPeriodEnd (c : Channel) (frame : Option (List (BitVec 16)))
  | pollBegin
  /-- SEAT_REPLY (R122, R192): the bytes a node answered. -/
  | seatReply (bytes : List Byte)
  | replyWindowClose
  | blockStart (p : Prog)
  | blockDeadline (p : Prog)
  | dramGrant
  /-- BURST_COMPLETION (R22), with the words of the burst (0 to 7 along its line) that were read wrongly this once. -/
  | burstCompletion (noise : List (Fin 8 × WordError))
  | lightFrame
  /-- LAMP_LINK_ANSWER (R144): acknowledged, or refused. -/
  | lampLinkAnswer (ack : Bool)
deriving DecidableEq, Repr

end Sys2Proof
end

