-- ==== Sys2Proof/Decode.lean ====
section
/-! DEFINITION. From words and bytes to commands: the table's words, the numbers, CRC and command codes of a frame, and the
checks that decide what an arriving frame is (R179, R190). -/

namespace Sys2Proof

/-- No row of spec/opcode_table.json gives bits, so no word spells a row. -/
def decodeTableWord (_nbits _w : Nat) : Option Instr := none

/-- The low byte of a number. -/
def byteOf (v : Nat) : Byte := BitVec.ofNat 8 v

/-- A number in `k` bytes, low byte first (chapter 11). -/
def bytesLE : Nat → Nat → List Byte
  | 0, _ => []
  | k + 1, v => byteOf v :: bytesLE k (v / 256)

/-- The number that bytes carry, low byte first (chapter 11). -/
def natLE : List Byte → Nat
  | [] => 0
  | b :: bs => b.toNat + 256 * natLE bs

/-- One bit of the CRC-16 of R179: polynomial x^16 + x^12 + x^5 + 1, most significant bit first. -/
def crcShift (c : BitVec 16) : BitVec 16 :=
  if c.msb then (c <<< 1) ^^^ 0x1021#16 else c <<< 1

/-- One byte of the CRC-16 of R179. -/
def crcByte (c : BitVec 16) (b : Byte) : BitVec 16 :=
  Nat.repeat crcShift 8 (c ^^^ (b.setWidth 16 <<< 8))

/-- The CRC-16 of R179: initial value all ones, no final inversion, not reflected. -/
def crc16 (bs : List Byte) : BitVec 16 := bs.foldl crcByte 0xFFFF#16

/-- The CRC field: low byte first (R190). -/
def crcField (bs : List Byte) : List Byte := bytesLE 2 (crc16 bs).toNat

/-- The command code of section 11.2. -/
def Command.code : Command → Nat
  | .identify => 0x01
  | .eventRead => 0x02
  | .eventMask => 0x03
  | .reserve => 0x04
  | .reservationRead => 0x05
  | .park => 0x06
  | .unpark => 0x07
  | .restart => 0x08
  | .loadOpen => 0x10
  | .loadData => 0x11
  | .loadClose => 0x12
  | .loadAbort => 0x13
  | .clipDelete => 0x14
  | .clipPin => 0x15
  | .clipUnpin => 0x16
  | .clipQuery => 0x17
  | .storeStatus => 0x18
  | .position => 0x20
  | .jump => 0x21
  | .routeClear => 0x22
  | .cursorRead => 0x23
  | .stopWrite => 0x24
  | .stopRemove => 0x25
  | .stopSkip => 0x26
  | .stopRequest => 0x27
  | .stopRead => 0x28
  | .segmentWrite => 0x29
  | .segmentRemove => 0x2A
  | .segmentRead => 0x2B
  | .commentaryRead => 0x30
  | .announce => 0x31
  | .announceCancel => 0x32
  | .announceRead => 0x33
  | .liveOn => 0x34
  | .liveOff => 0x35
  | .programmeWrite => 0x40
  | .programmeRead => 0x41
  | .mixCountClear => 0x42
  | .duckWrite => 0x43
  | .duckRead => 0x44
  | .loudnessWrite => 0x45
  | .loudnessRead => 0x46
  | .seatConfig => 0x50
  | .seatRead => 0x51
  | .seatSummary => 0x52
  | .layerWrite => 0x60
  | .layerRead => 0x61
  | .lightSet => 0x62
  | .lightStatus => 0x63
  | .cueStart => 0x64
  | .cueStop => 0x65
  | .faultRead => 0x70
  | .faultClear => 0x71
  | .faultEnable => 0x72
  | .faultResume => 0x73

/-- Every command, in code order. -/
def Command.all : List Command :=
  [.identify, .eventRead, .eventMask, .reserve, .reservationRead, .park, .unpark, .restart,
   .loadOpen, .loadData, .loadClose, .loadAbort, .clipDelete, .clipPin, .clipUnpin, .clipQuery,
   .storeStatus, .position, .jump, .routeClear, .cursorRead, .stopWrite, .stopRemove, .stopSkip,
   .stopRequest, .stopRead, .segmentWrite, .segmentRemove, .segmentRead, .commentaryRead, .announce, .announceCancel,
   .announceRead, .liveOn, .liveOff, .programmeWrite, .programmeRead, .mixCountClear, .duckWrite, .duckRead,
   .loudnessWrite, .loudnessRead, .seatConfig, .seatRead, .seatSummary, .layerWrite, .layerRead, .lightSet,
   .lightStatus, .cueStart, .cueStop, .faultRead, .faultClear, .faultEnable, .faultResume]

/-- The command of a code (section 11.2). -/
def commandOfCode (k : Nat) : Option Command := Command.all.find? (fun c => c.code == k)

/-- What a command is for the Reservation Unit (R160). -/
inductive CommandKind where
  | read
  | reserve
  | write
deriving DecidableEq, Repr

/-- R160's table; RESERVE is neither a read nor a write (R159). -/
def Command.kind : Command → CommandKind
  | .reserve => .reserve
  | .cursorRead | .stopRead | .segmentRead | .commentaryRead | .announceRead | .programmeRead | .duckRead | .loudnessRead
  | .layerRead | .lightStatus | .seatRead | .seatSummary | .clipQuery | .storeStatus | .faultRead | .eventRead
  | .reservationRead | .identify => .read
  | .position | .jump | .routeClear | .stopWrite | .stopRemove | .stopSkip | .stopRequest | .segmentWrite | .segmentRemove
  | .programmeWrite | .duckWrite | .loudnessWrite | .layerWrite | .seatConfig
  | .loadOpen | .loadData | .loadClose | .loadAbort | .clipDelete | .clipPin | .clipUnpin | .announce | .announceCancel
  | .liveOn | .liveOff | .mixCountClear | .lightSet | .cueStart | .cueStop | .faultClear | .faultEnable | .faultResume
  | .eventMask | .park | .unpark | .restart => .write

/-- The error of a BAD-FRAME (R167, R179): 0 sync, 1 length, 2 CRC. -/
inductive FrameError where
  | sync
  | length
  | crc
deriving DecidableEq, Repr

/-- Detail 2 of BAD-FRAME (R167). -/
def FrameError.code : FrameError → Nat
  | .sync => 0
  | .length => 1
  | .crc => 2

/-- What the checks of R179 find in the bytes clocked in. -/
inductive FrameCheck where
  /-- Idle fill, or no byte at all (log 11): no frame. -/
  | poll
  /-- Check 1, 2 or 3 fails: BAD-FRAME, with the tag R190 gives. -/
  | bad (e : FrameError) (tag : Byte)
  /-- Check 4 fails. -/
  | unknown (tag : Byte)
  /-- Check 5 fails. -/
  | badFlag (tag : Byte)
  /-- Every check passes. -/
  | taken (tag : Byte) (c : Command) (conditional : Bool) (payload : List Byte)
deriving DecidableEq, Repr

/-- Checks 4 and 5 of R179, on the code byte. -/
def checkCode (tag code : Byte) (payload : List Byte) : FrameCheck :=
  match commandOfCode (code.toNat % 128) with
  | none => .unknown tag
  | some c =>
    if code.msb && c.kind != .write then .badFlag tag else .taken tag c code.msb payload

/-- Checks 2 to 5 of R179, on the bytes behind a frame's sync. -/
def checkBody : List Byte → FrameCheck
  | tag :: code :: lo :: hi :: rest =>
    let n := natLE [lo, hi]
    if n > 400 ∨ rest.length < n + 2 then .bad .length tag
    else if (rest.drop n).take 2 ≠ crcField (tag :: code :: lo :: hi :: rest.take n) then .bad .crc tag
    else checkCode tag code (rest.take n)
  | tag :: _ => .bad .length tag
  | [] => .bad .length 0

/-- R179 and R190: what the bytes clocked in on a port are. -/
def checkFrame : List Byte → FrameCheck
  | [] => .poll
  | b :: rest =>
    if b = 0xFF#8 then .poll
    else if b = 0xA5#8 then checkBody rest
    else .bad .sync (rest.headD 0)

/-- A command frame as section 11.1 lays it out. -/
def encodeFrame (tag : Byte) (c : Command) (conditional : Bool) (payload : List Byte) : List Byte :=
  let code := byteOf (c.code + if conditional then 128 else 0)
  let body := tag :: code :: (bytesLE 2 payload.length ++ payload)
  0xA5#8 :: (body ++ crcField body)

end Sys2Proof
end

