-- ==== Sys2Proof/Machine/State.lean ====
section
/-! DEFINITION. The hub's state as plain data, block by block (00_scope.md section 1.3), and the hub right after power-on reset. -/

namespace Sys2Proof.Machine

/-- No step of the hub stops with a fault: the manual names no condition that halts the hub. The hub's own faults (R166) are state.
Nobody raises one; there is nothing unsafe to say of it. -/
inductive Fault where
deriving DecidableEq, Repr

/-- Why the model gives an event no meaning. -/
inductive Refusal where
  /-- Raised by `exec` alone, for a row that has no meaning yet. Safe. No row is left so. -/
  | notModelled (mnemonic : String)
deriving DecidableEq, Repr

/-! ## Clip Store (01_clip_store.md) -/

/-- Clip kinds (R4, section 11.3). -/
inductive ClipKind where
  | speech12
  | audio24
  | audio48
  | cue
deriving DecidableEq, Repr

/-- States of an occupied clip map entry (R5). -/
inductive EntryState where
  | loading
  | ready
  | damaged
  | retiring
deriving DecidableEq, Repr

/-- An occupied clip map entry (R4). Fields absent in LOADING, or present there only, are options. -/
structure Entry where
  clip      : Nat
  kind      : ClipKind
  lang      : Nat
  state     : EntryState
  pinned    : Bool
  firstPage : Option Page
  pageCount : Option Nat
  byteLen   : Nat
  useCount  : Nat
  lastUse   : Option Count32
  loader    : Option Port
deriving DecidableEq, Repr

/-- A value of the page link table (R2): FREE, END (`last`) or the next page. -/
inductive Link where
  | free
  | last
  | next (p : Page)
deriving DecidableEq, Repr

/-- A load slot's chain (R11). -/
structure Chain where
  first : Page
  last  : Page
  count : Nat
deriving DecidableEq, Repr

/-- What a load slot holds outside CLOSED (R11). -/
structure Load where
  entry    : EntryNo
  clip     : Nat
  kind     : ClipKind
  len      : Nat
  pin      : Bool
  received : Nat
  chain    : Option Chain
deriving DecidableEq, Repr

/-- A load slot (R11). -/
inductive LoadSlot where
  | closed
  | opened (l : Load)
  | closing (l : Load)
deriving DecidableEq, Repr

/-- A pending line of the write buffer (R15). `slot` is none for a line whose load was aborted while its burst was in progress
(R19); `data` holds 64 bytes, those behind the filled ones being 0. -/
structure WriteLine where
  slot   : Option Port
  page   : Page
  line   : Fin 64
  data   : List Byte
  filled : Nat
deriving DecidableEq, Repr

/-- The four voices of a programme (R105). -/
inductive Voice where
  | commentary
  | announce
  | live
  | bed
deriving DecidableEq, Repr

/-- What a lookup gives a consumer (R6), and what a voice is bound to (R105). -/
structure Binding where
  entry : EntryNo
  clip  : Nat
  kind  : ClipKind
  len   : Nat
  first : Page
deriving DecidableEq, Repr

/-- One line of a clip, to be read for a fetch (R23): its number in the clip and where it lies. -/
structure LineReq where
  clipLine : Nat
  page     : Page
  line     : Fin 64
deriving DecidableEq, Repr

/-- The jobs of a DRAM burst (R22). -/
inductive Job where
  | fetch (p : Prog) (v : Voice) (b : Binding) (r : LineReq)
  | cue (k : PlayerNo) (b : Binding) (r : LineReq)
  | scrub (page : Page) (word : WordNo) (entry : EntryNo) (clip : Nat)
  | drain (l : WriteLine)
deriving DecidableEq, Repr

/-- The burst in progress. `wanted` is no when its data are discarded (R23) or, for a drain, when a RESTART emptied the buffer. -/
structure Burst where
  job    : Job
  wanted : Bool
deriving DecidableEq, Repr

/-- A place under parity (R28). -/
inductive ParityPlace where
  | link (p : Page)
  | map (e : EntryNo)
deriving DecidableEq, Repr

/-- The Clip Store. -/
structure Store where
  map      : Tab (Option Entry) 192
  links    : List (Nat × Link)
  freeList : List Page
  pinTotal : Nat
  seq      : Count32
  slots    : Tab LoadSlot 3
  /-- Pending lines that are not eligible (R15). -/
  filling  : List WriteLine
  /-- The eligible lines, oldest first (R15). -/
  eligible : List WriteLine
  scrub    : List (Page × WordNo)
  burst    : Option Burst
  dram     : List Host.Cell
  /-- The DRAM words with wrong stored bits: (page * 512 + word, none for a sound word). -/
  dramErr  : List (Nat × Option WordError)
  badLinks : List Page
  badMap   : List EntryNo
  /-- MODEL'S OWN (log 7): parity failures met in the event under way, filed at its end. -/
  noted    : List ParityPlace
deriving DecidableEq, Repr

/-! ## Route Unit (02_route_position_and_triggers.md) -/

/-- The route cursor (R31). -/
structure Cursor where
  set       : Bool
  distance  : Nat
  speed     : Nat
  nextStop  : Option StopNo
  lastMover : Option Port
deriving DecidableEq, Repr

/-- States of a non-empty stop (R39). -/
inductive StopState where
  | ahead
  | approaching
  | called
  | passed
  | skipped
deriving DecidableEq, Repr

/-- A non-empty stop record (R39), less its index. -/
structure Stop where
  a           : Nat
  b           : Nat
  requestOnly : Bool
  arrivalCall : Bool
  langs       : List (Nat × Nat)
  dflt        : Option Nat
  pa          : List Nat
  chime       : Option Nat
  cue         : Option Nat
  request     : Bool
  state       : StopState
deriving DecidableEq, Repr

/-- States of a non-empty segment (R49). -/
inductive SegState where
  | armed
  | triggered
  | finished
  | missed
deriving DecidableEq, Repr

/-- A non-empty segment record (R49), less its index. -/
structure Segment where
  t           : Nat
  late        : Nat
  priority    : Nat
  hold        : Bool
  langs       : List (Nat × Nat)
  cue         : Option Nat
  state       : SegState
  outstanding : Nat
  played      : Nat
deriving DecidableEq, Repr

/-- The Route Unit. An EMPTY record is none. -/
structure Route where
  cursor   : Cursor
  stops    : Tab (Option Stop) 64
  segments : Tab (Option Segment) 256
deriving DecidableEq, Repr

/-! ## Commentary Player (03_commentary_playback.md) -/

/-- A commentary item (R56). `bind` holds its clip ID, its entry and what the lookup gave with them. `pos` is the play position as
it stood at the programme's last block start (R75); the position itself is the voice's. -/
structure Item where
  segment  : SegNo
  bind     : Binding
  trig     : Nat
  late     : Nat
  priority : Nat
  hold     : Bool
  playing  : Bool
  paused   : Bool
  pos      : Nat
  orphaned : Bool
deriving DecidableEq, Repr

/-- The Commentary Player. Programme 0 has no queue: index 0 is not used. -/
structure Commentary where
  queues : Tab (List Item) 13
  marks  : Tab Bool 256
  /-- The announcement window (R69): yes is OPEN. -/
  window : Bool
deriving DecidableEq, Repr

/-! ## Announcement Controller (04_stop_announcements_and_live_speech.md) -/

/-- Announcement kinds (R77). -/
inductive AnnKind where
  | approach
  | arrival
  | cab
  | safety
deriving DecidableEq, Repr

/-- An announcement item (R77). `origin` none is ROUTE. -/
structure AnnItem where
  number : Nat
  kind   : AnnKind
  stop   : Option StopNo
  b      : Option Nat
  langs  : List (Nat × Nat)
  dflt   : Option Nat
  pa     : List Nat
  chime  : Option Nat
  cue    : Option Nat
  origin : Option Port
deriving DecidableEq, Repr

/-- Phases of the current announcement (R84). -/
inductive Phase where
  | leadIn
  | speaking
  | tail
deriving DecidableEq, Repr

/-- How an announcement ends (R88). -/
inductive AnnEnd where
  | complete
  | cancelled
  | cut
deriving DecidableEq, Repr

/-- What the current announcement holds for one programme (R84). A clip in `chime` or `speech` holds a use; the head of `speech` is
the one bound next or playing (programme 0 has its PA sequence there). `stopping` is R90's stop at the next block start. -/
structure AnnVoice where
  chime     : Option Binding
  speech    : List Binding
  chimeId   : Nat
  speechIds : List Nat
  finished  : Bool
  stopping  : Bool
deriving DecidableEq, Repr

/-- The current announcement record (R84). `reported` says which programmes have made a block-end report in this LEAD-IN (log 12). -/
structure Current where
  item     : AnnItem
  phase    : Phase
  voices   : Tab AnnVoice 13
  paPos    : Nat
  ending   : AnnEnd
  reported : Tab Bool 13
deriving DecidableEq, Repr

/-- A live channel in ON (R92). -/
structure LiveOn where
  owner : Port
  start : Count32
deriving DecidableEq, Repr

/-- One thing for each live channel. -/
structure Pair (α : Type) where
  driver : α
  guide  : α
deriving DecidableEq, Repr

/-- The Announcement Controller. -/
structure Announcer where
  queue      : List AnnItem
  current    : Option Current
  nextNumber : Nat
  /-- The ANNOUNCE ducker (R85). -/
  ducker     : Bool
  settled    : Tab Bool 13
  /-- A block start was taken after the ducker last changed (R85). -/
  fresh      : Tab Bool 13
  /-- The programme takes part in the settled test (R89). -/
  joined     : Tab Bool 13
  live       : Pair (Option LiveOn)
  /-- The latest microphone frame (R96). -/
  frames     : Pair (Option (List Int))
  lost       : Pair Bool
deriving DecidableEq, Repr

/-! ## Programme Mixer (05_programme_mixing.md) -/

/-- One thing for each voice. -/
structure Quad (α : Type) where
  commentary : α
  announce   : α
  live       : α
  bed        : α
deriving DecidableEq, Repr

/-- A programme record (R99). -/
structure ProgRec where
  on     : Bool
  lang   : Nat
  gains  : Quad Nat
  master : Nat
  guide  : Bool
  bed    : Option Nat
  mirror : Nat
deriving DecidableEq, Repr

/-- The targets of one ducker (R103); none where the table holds no field. -/
abbrev DuckRow := Quad (Option Nat)

/-- The duck table (R103). -/
structure DuckTable where
  announce   : DuckRow
  liveDriver : DuckRow
  liveGuide  : DuckRow
  r          : Nat
deriving DecidableEq, Repr

/-- One group of the loudness record (R104). -/
structure LoudGroup where
  k    : Nat
  v0   : Nat
  lmax : Nat
deriving DecidableEq, Repr

/-- The loudness record (R104). -/
structure Loudness where
  headset : LoudGroup
  pa      : LoudGroup
deriving DecidableEq, Repr

/-- The play state of a voice (R105). `started` is no for a clip bound since the last block start. -/
structure VoiceState where
  bind    : Option Binding
  started : Bool
  pos     : Nat
  paused  : Bool
  d       : Nat
  target  : Nat
  held    : Int
deriving DecidableEq, Repr

/-- What the operating state lets a programme output (R117). -/
inductive OutMode where
  | full
  | annLive
  | zero
deriving DecidableEq, Repr

/-- What a voice plays in a block: its clip and its position at the block start. -/
structure BlockSource where
  bind : Binding
  pos  : Nat
deriving DecidableEq, Repr

/-- A line delivered to a fetch (R23): eight words, none for a word marked uncorrectable (R25). -/
structure GotLine where
  voice    : Voice
  clipLine : Nat
  words    : List (Option (List Byte))
deriving DecidableEq, Repr

/-- A block in progress: what its start fixed (R106), its fetch's lines not yet granted and those delivered (R115). `cut` is set when
the programme is switched OFF in the block. -/
structure Block where
  on     : Bool
  awake  : Bool
  mode   : OutMode
  src    : Quad (Option BlockSource)
  live   : List Int
  mirror : Option (List Int)
  gains  : Quad Nat
  master : Nat
  loud   : Nat
  r      : Nat
  target : Quad Nat
  want   : List (Voice × LineReq)
  got    : List GotLine
  cut    : Bool
deriving DecidableEq, Repr

/-- The Programme Mixer. -/
structure Mixer where
  progs   : Tab ProgRec 13
  duck    : DuckTable
  loud    : Loudness
  voices  : Tab (Quad VoiceState) 13
  clamped : Tab Nat 13
  streak  : Tab Nat 13
  /-- The activity the mixer uses (R99, R130): yes is AWAKE. -/
  awake   : Tab Bool 13
  /-- R99: the programme has stopped being the mirror source, and its next block start has not come yet. -/
  leaving : Tab Bool 13
  block   : Tab (Option Block) 13
  mirror  : List (List Int)
  /-- The last block handed to the PA (programme 0) or the seat link (R106, R131). -/
  out     : Tab (List Int) 13
deriving DecidableEq, Repr

/-! ## Seat Link (06_seat_link_and_headset_programmes.md) -/

/-- Seat states (R119). -/
inductive SeatState where
  | unknown
  | active
  | idle
  | offline
  | disabled
deriving DecidableEq, Repr

/-- A seat record (R119). -/
structure Seat where
  state      : SeatState
  selection  : Nat
  misses     : Nat
  nodeFault  : Bool
  lastChange : Count32
deriving DecidableEq, Repr

/-- An activity or a decision on it (R128). -/
inductive Activity where
  | awake
  | dormant
deriving DecidableEq, Repr

/-- A poll in progress (R121); `dead` when its outcome is to be discarded. -/
structure Poll where
  seat : SeatNo
  dead : Bool
deriving DecidableEq, Repr

/-- The Seat Link. Programme 0 has no occupancy and no decision: index 0 is not used. -/
structure SeatLink where
  seats   : Tab Seat 80
  count   : Nat
  holdoff : Nat
  pointer : Nat
  poll    : Option Poll
  occ     : Tab Nat 13
  act     : Tab (Option Activity) 13
  hold    : Tab (Option Count32) 13
deriving DecidableEq, Repr

/-! ## Deck Light Engine (07_deck_lighting.md) -/

/-- A colour (r, g, b), each channel 0 to 255. -/
structure Colour where
  r : Nat
  g : Nat
  b : Nat
deriving DecidableEq, Repr

/-- A cell or a sample: an opaque colour, or none for TRANSPARENT (R136). -/
abbrev Cell := Option Colour

/-- How zones map onto cells (R138). -/
inductive Scale where
  | normal
  | zoom2
  | shrink2
deriving DecidableEq, Repr

/-- Combine functions (R140). -/
inductive Combine where
  | replace
  | max
  | min
  | add
  | subtract
  | average
  | scale
deriving DecidableEq, Repr

/-- A layer (R136). -/
structure Layer where
  enabled : Bool
  cells   : List Cell
  scale   : Scale
  offset  : Nat
  combine : Combine
  invert  : Bool
  fillC   : Colour
deriving DecidableEq, Repr

/-- A keyframe as decoded (section 11.6). -/
structure Keyframe where
  time  : Nat
  fade  : Nat
  cells : List Cell
deriving DecidableEq, Repr

/-- Next keyframe data (R145). -/
inductive NextData where
  | absent
  | fetching
  | present (k : Keyframe)
deriving DecidableEq, Repr

/-- A line delivered to a cue player's fetch. -/
structure CueLine where
  clipLine : Nat
  words    : List (Option (List Byte))
deriving DecidableEq, Repr

/-- The keyframe whose fade is running or complete (R145): its number, time, fade, the two patterns, and whether the fade is complete. -/
structure Applied where
  number : Nat
  time   : Nat
  fade   : Nat
  froms  : List Colour
  tos    : List Cell
  done   : Bool
deriving DecidableEq, Repr

/-- A cue player in PLAYING (R145). `header` is the keyframe count and the loop flag once read. `nextByte` is where the next keyframe
begins (R149), `lastTime` the previous keyframe's time in this pass (R150). -/
structure Player where
  bind     : Binding
  header   : Option (Nat × Bool)
  elapsed  : Nat
  next     : Option Nat
  data     : NextData
  applied  : Option Applied
  nextByte : Nat
  lastTime : Option Nat
  want     : List LineReq
  got      : List CueLine
deriving DecidableEq, Repr

/-- The Deck Light Engine. A STOPPED player is none. -/
structure Light where
  layers   : Tab Layer 4
  dim      : Nat
  floorC   : Colour
  fallback : Colour
  players  : Tab (Option Player) 3
  zones    : Tab Colour 48
  acked    : Bool
  awaiting : Bool
deriving DecidableEq, Repr

/-! ## Fault Recorder (09_fault_recording_and_fallback.md) -/

/-- The fault banks (R166). -/
inductive Bank where
  | store
  | mix
  | route
  | seat
  | light
  | port
deriving DecidableEq, Repr

/-- The fault kinds (R167), bank by bank. -/
inductive FaultKind where
  | eccCorrected
  | eccUncorrected
  | scrubOverflow
  | linkParity
  | mapParity
  | overload
  | underrun
  | underrunStreak
  | liveInputLost
  | backstep
  | overspeed
  | triggerAbsent
  | nodeSilent
  | nodeFault
  | linkBreak
  | cueFormat
  | lampLink
  | badFrame
  | eventOverrun
deriving DecidableEq, Repr

/-- A captured fault record (R166). -/
structure FaultRecord where
  overrun     : Bool
  uncorrected : Bool
  enabled     : Bool
  critical    : Bool
  kind        : FaultKind
  detail1     : Nat
  detail2     : Nat
  stamp       : Count32
deriving DecidableEq, Repr

/-- A fault bank (R166). An empty record is none, and has overrun no. -/
structure FaultBank where
  mask   : BitVec 8
  record : Option FaultRecord
deriving DecidableEq, Repr

/-- The Fault Recorder. -/
structure FaultRecorder where
  banks   : Tab FaultBank 6
  pending : Bool
deriving DecidableEq, Repr

/-! ## Reservations, ports and operating control (08_, 10_, 11_) -/

/-- Reservable classes (R157). -/
inductive RecClass where
  | cursor
  | stop
  | segment
  | programme
  | duck
  | layer
  | loudness
  | seatConfig
deriving DecidableEq, Repr

/-- The name of a reservable record (R157). -/
structure RecName where
  cls : RecClass
  idx : Nat
deriving DecidableEq, Repr

/-- Event kinds (section 11.4). -/
inductive EventKind where
  | loadDone
  | clipEvicted
  | clipDamaged
  | segmentStarted
  | segmentFinished
  | segmentMissed
  | stopState
  | stopRequested
  | announceStarted
  | announceFinished
  | announceDropped
  | liveTimeout
  | seatChanged
  | programmeActivity
  | cueEnded
  | cueAbsent
  | fault
  | faultCritical
  | stateChanged
deriving DecidableEq, Repr

/-- An event record (R182). -/
structure Event where
  kind  : EventKind
  n1    : Nat
  n2    : Nat
  n3    : Nat
  stamp : Count32
deriving DecidableEq, Repr

/-- Response statuses (R180). -/
inductive Status where
  | ok
  | accepted
  | badFrame
  | unknownCommand
  | badArgument
  | refusedState
  | full
  | wait
  | notFound
  | inUse
  | notOwner
  | notActive
  | notPending
  | outOfOrder
  | short
  | tooLate
  | order
  | reservationLost
  | inHand
deriving DecidableEq, Repr

/-- A response (R180), less its sync, length and CRC. -/
structure Response where
  tag     : Byte
  status  : Status
  payload : List Byte
deriving DecidableEq, Repr

/-- A command taken in and not yet taken by its owning block (R178, R179). `tested` when its conditional test has passed (R161). -/
structure InHand where
  tag         : Byte
  command     : Command
  conditional : Bool
  tested      : Bool
  payload     : List Byte
deriving DecidableEq, Repr

/-- A port's response slot (R178). -/
inductive RespSlot where
  | empty
  | inHand (h : InHand)
  | ready (r : Response)
deriving DecidableEq, Repr

/-- A port: front end, event queue, mask, overrun flag, reservation and data-out pin. -/
structure PortState where
  slot    : RespSlot
  queue   : List Event
  mask    : BitVec 24
  overrun : Bool
  resv    : Option RecName
  dout    : List Byte
deriving DecidableEq, Repr

/-- Operating states (R185). -/
inductive OpState where
  | run
  | parkPending
  | standby
  | fallback
deriving DecidableEq, Repr

/-- What holds the hub parked (R185). -/
inductive ParkHold where
  | command
  | line
deriving DecidableEq, Repr

/-- Operating Control. -/
structure Control where
  op       : OpState
  hold     : Option ParkHold
  parkLine : Bool
  time     : Count32
deriving DecidableEq, Repr

/-- The state of the hub, with the queue of events that wait. -/
structure State where
  store   : Store
  route   : Route
  com     : Commentary
  ann     : Announcer
  mix     : Mixer
  seat    : SeatLink
  light   : Light
  faults  : FaultRecorder
  ports   : Tab PortState 3
  ctl     : Control
  /-- MODEL'S OWN (log 6): how many free bytes have been clocked out. -/
  fillSeq : Nat
  /-- The events waiting, first in, first out. -/
  pending : List Instr
deriving DecidableEq, Repr

/-! ## Values after power-on reset -/

/-- Every page, ascending (R3). -/
def allPages : List Page := (List.range' 0 4096).filterMap (toIndex 4096)

/-- R29. -/
def Store.reset : Store where
  map      := Tab.fill 192 none
  links    := []
  freeList := allPages
  pinTotal := 0
  seq      := 0
  slots    := Tab.fill 3 .closed
  filling  := []
  eligible := []
  scrub    := []
  burst    := none
  dram     := []
  dramErr  := []
  badLinks := []
  badMap   := []
  noted    := []

/-- The cursor of R54 and R37. -/
def Cursor.unset : Cursor where
  set       := false
  distance  := 0
  speed     := 0
  nextStop  := none
  lastMover := none

/-- R54. -/
def Route.reset : Route where
  cursor   := Cursor.unset
  stops    := Tab.fill 64 none
  segments := Tab.fill 256 none

/-- R76. -/
def Commentary.reset : Commentary where
  queues := Tab.fill 13 []
  marks  := Tab.fill 256 false
  window := false

/-- R98. -/
def Announcer.reset : Announcer where
  queue      := []
  current    := none
  nextNumber := 1
  ducker     := false
  settled    := Tab.fill 13 false
  fresh      := Tab.fill 13 false
  joined     := Tab.fill 13 true
  live       := ⟨none, none⟩
  frames     := ⟨none, none⟩
  lost       := ⟨false, false⟩

/-- R118: a programme record; programme 0 is ON with language 0, the others OFF with their own number as language. -/
def ProgRec.reset (p : Prog) : ProgRec where
  on     := p == 0
  lang   := p.val
  gains  := ⟨4096, 4096, 4096, 4096⟩
  master := 4096
  guide  := false
  bed    := none
  mirror := 0

/-- R103's power-on values. -/
def DuckTable.reset : DuckTable where
  announce   := ⟨some 1024, none, some 1024, some 512⟩
  liveDriver := ⟨some 512, some 1024, none, some 256⟩
  liveGuide  := ⟨some 0, some 4096, none, some 512⟩
  r          := 16

/-- R104's power-on values. -/
def Loudness.reset : Loudness where
  headset := ⟨0, 20, 6144⟩
  pa      := ⟨0, 20, 6144⟩

/-- R118: a voice unbound at position 0, its duck gain 4096; the target at 4096 is a DESIGN CHOICE (log 8). -/
def VoiceState.reset : VoiceState where
  bind    := none
  started := false
  pos     := 0
  paused  := false
  d       := 4096
  target  := 4096
  held    := 0

/-- R118. -/
def Mixer.reset : Mixer where
  progs   := Tab.ofFn ProgRec.reset
  duck    := DuckTable.reset
  loud    := Loudness.reset
  voices  := Tab.fill 13 ⟨VoiceState.reset, VoiceState.reset, VoiceState.reset, VoiceState.reset⟩
  clamped := Tab.fill 13 0
  streak  := Tab.fill 13 0
  awake   := Tab.fill 13 true
  leaving := Tab.fill 13 false
  block   := Tab.fill 13 none
  mirror  := []
  out     := Tab.fill 13 []

/-- R134, at the time base of the reset. -/
def SeatLink.reset (time : Count32) : SeatLink where
  seats   := Tab.fill 80 ⟨.unknown, 0, 0, false, time⟩
  count   := 80
  holdoff := 10000
  pointer := 0
  poll    := none
  occ     := Tab.fill 13 0
  act     := Tab.fill 13 none
  hold    := Tab.fill 13 none

/-- Black. -/
def Colour.black : Colour := ⟨0, 0, 0⟩

/-- R156: a layer. -/
def Layer.reset : Layer where
  enabled := false
  cells   := []
  scale   := .normal
  offset  := 0
  combine := .replace
  invert  := false
  fillC   := Colour.black

/-- R156. -/
def Light.reset : Light where
  layers   := Tab.fill 4 Layer.reset
  dim      := 255
  floorC   := ⟨60, 60, 60⟩
  fallback := ⟨80, 80, 80⟩
  players  := Tab.fill 3 none
  zones    := Tab.fill 48 Colour.black
  acked    := false
  awaiting := false

/-- R177: every kind of every bank enabled (5, 4, 3, 3, 2 and 2 kinds), every record empty. -/
def FaultRecorder.reset : FaultRecorder where
  banks   := ⟨[⟨0x1F#8, none⟩, ⟨0x0F#8, none⟩, ⟨0x07#8, none⟩, ⟨0x07#8, none⟩, ⟨0x03#8, none⟩, ⟨0x03#8, none⟩], rfl⟩
  pending := false

/-- The mask that selects every kind, 1 to 18 (R189). -/
def allEvents : BitVec 24 := 0x07FFFE#24

/-- R189: a port, its queue holding the STATE-CHANGED (RUN, RUN, POWER-ON) that the reset posts at time base 0. -/
def PortState.reset : PortState where
  slot    := .empty
  queue   := [⟨.stateChanged, 0, 0, 7, 0⟩]
  mask    := allEvents
  overrun := false
  resv    := none
  dout    := []

/-- R189, with the PARK line inactive (DESIGN CHOICE, log 8). -/
def Control.reset : Control where
  op       := .run
  hold     := none
  parkLine := false
  time     := 0

/-- The hub right after power-on reset (R29, R54, R76, R98, R118, R134, R156, R165, R177, R189). -/
def State.reset : State where
  store   := Store.reset
  route   := Route.reset
  com     := Commentary.reset
  ann     := Announcer.reset
  mix     := Mixer.reset
  seat    := SeatLink.reset 0
  light   := Light.reset
  faults  := FaultRecorder.reset
  ports   := Tab.fill 3 PortState.reset
  ctl     := Control.reset
  fillSeq := 0
  pending := []

end Sys2Proof.Machine
end

