-- ==== Sys2Proof/Machine/Flags.lean ====
section
/-! DEFINITION. The codes and flags of chapter 11: enumerations, status codes, event masks, and the classes and flag bytes of faults. -/

namespace Sys2Proof.Machine

/-- Yes or no, set or clear (section 11.3). -/
def flagCode (b : Bool) : Nat := if b then 1 else 0

/-- Section 11.3, channel. -/
def channelCode : Channel → Nat
  | .driver => 0
  | .guide => 1

/-- Section 11.3, channel. -/
def channelOf : Nat → Option Channel
  | 0 => some .driver
  | 1 => some .guide
  | _ => none

/-- Section 11.3, clip kind. -/
def clipKindCode : ClipKind → Nat
  | .speech12 => 0
  | .audio24 => 1
  | .audio48 => 2
  | .cue => 3

/-- Section 11.3, clip kind. -/
def clipKindOf : Nat → Option ClipKind
  | 0 => some .speech12
  | 1 => some .audio24
  | 2 => some .audio48
  | 3 => some .cue
  | _ => none

/-- Section 11.3, clip entry state. -/
def entryStateCode : EntryState → Nat
  | .loading => 0
  | .ready => 1
  | .damaged => 2
  | .retiring => 3

/-- Section 11.3, reservable class. -/
def recClassCode : RecClass → Nat
  | .cursor => 0
  | .stop => 1
  | .segment => 2
  | .programme => 3
  | .duck => 4
  | .layer => 5
  | .loudness => 6
  | .seatConfig => 7

/-- Section 11.3, reservable class. -/
def recClassOf : Nat → Option RecClass
  | 0 => some .cursor
  | 1 => some .stop
  | 2 => some .segment
  | 3 => some .programme
  | 4 => some .duck
  | 5 => some .layer
  | 6 => some .loudness
  | 7 => some .seatConfig
  | _ => none

/-- How many records a class has (R157). -/
def recClassSize : RecClass → Nat
  | .stop => 64
  | .segment => 256
  | .programme => 13
  | .layer => 4
  | _ => 1

/-- Section 11.3, announcement kind. -/
def annKindCode : AnnKind → Nat
  | .approach => 0
  | .arrival => 1
  | .cab => 2
  | .safety => 3

/-- Section 11.3, announcement kind. -/
def annKindOf : Nat → Option AnnKind
  | 0 => some .approach
  | 1 => some .arrival
  | 2 => some .cab
  | 3 => some .safety
  | _ => none

/-- Section 11.3, announcement origin: a port, or 3 ROUTE. -/
def originCode : Option Port → Nat
  | some p => p.val
  | none => 3

/-- Section 11.3, announcement phase. -/
def phaseCode : Phase → Nat
  | .leadIn => 0
  | .speaking => 1
  | .tail => 2

/-- Section 11.4, the end of an announcement. -/
def annEndCode : AnnEnd → Nat
  | .complete => 0
  | .cancelled => 1
  | .cut => 2

/-- Section 11.3, stop state; EMPTY is 5. -/
def stopStateCode : StopState → Nat
  | .ahead => 0
  | .approaching => 1
  | .called => 2
  | .passed => 3
  | .skipped => 4

/-- Section 11.3, segment state; EMPTY is 4. -/
def segStateCode : SegState → Nat
  | .armed => 0
  | .triggered => 1
  | .finished => 2
  | .missed => 3

/-- Section 11.3, activity. -/
def activityCode : Activity → Nat
  | .awake => 0
  | .dormant => 1

/-- Section 11.3, seat state. -/
def seatStateCode : SeatState → Nat
  | .unknown => 0
  | .active => 1
  | .idle => 2
  | .offline => 3
  | .disabled => 4

/-- Section 11.3, scale. -/
def scaleCode : Scale → Nat
  | .normal => 0
  | .zoom2 => 1
  | .shrink2 => 2

/-- Section 11.3, scale. -/
def scaleOf : Nat → Option Scale
  | 0 => some .normal
  | 1 => some .zoom2
  | 2 => some .shrink2
  | _ => none

/-- Section 11.3, combine function. -/
def combineCode : Combine → Nat
  | .replace => 0
  | .max => 1
  | .min => 2
  | .add => 3
  | .subtract => 4
  | .average => 5
  | .scale => 6

/-- Section 11.3, combine function. -/
def combineOf : Nat → Option Combine
  | 0 => some .replace
  | 1 => some .max
  | 2 => some .min
  | 3 => some .add
  | 4 => some .subtract
  | 5 => some .average
  | 6 => some .scale
  | _ => none

/-- Section 11.3, operating state. -/
def opStateCode : OpState → Nat
  | .run => 0
  | .parkPending => 1
  | .standby => 2
  | .fallback => 3

/-- Section 11.2: status codes 0 to 18 in the order of R180's table. -/
def statusCode : Status → Nat
  | .ok => 0
  | .accepted => 1
  | .badFrame => 2
  | .unknownCommand => 3
  | .badArgument => 4
  | .refusedState => 5
  | .full => 6
  | .wait => 7
  | .notFound => 8
  | .inUse => 9
  | .notOwner => 10
  | .notActive => 11
  | .notPending => 12
  | .outOfOrder => 13
  | .short => 14
  | .tooLate => 15
  | .order => 16
  | .reservationLost => 17
  | .inHand => 18

/-- Section 11.4: event kind codes. -/
def eventKindCode : EventKind → Nat
  | .loadDone => 0
  | .clipEvicted => 1
  | .clipDamaged => 2
  | .segmentStarted => 3
  | .segmentFinished => 4
  | .segmentMissed => 5
  | .stopState => 6
  | .stopRequested => 7
  | .announceStarted => 8
  | .announceFinished => 9
  | .announceDropped => 10
  | .liveTimeout => 11
  | .seatChanged => 12
  | .programmeActivity => 13
  | .cueEnded => 14
  | .cueAbsent => 15
  | .fault => 16
  | .faultCritical => 17
  | .stateChanged => 18

/-- Whether an event mask selects a kind: bit k selects kind k (section 11.3). -/
def maskSelects (mask : BitVec 24) (k : EventKind) : Bool := mask.getLsbD (eventKindCode k)

/-- The cause carried by STATE-CHANGED (R185, section 11.4). -/
inductive StateCause where
  | parkCommand
  | parkLine
  | unpark
  | lineRelease
  | quiet
  | fault
  | restart
  | powerOn
deriving DecidableEq, Repr

/-- Section 11.4, causes of STATE-CHANGED. -/
def causeCode : StateCause → Nat
  | .parkCommand => 0
  | .parkLine => 1
  | .unpark => 2
  | .lineRelease => 3
  | .quiet => 4
  | .fault => 5
  | .restart => 6
  | .powerOn => 7

/-- The reason carried by ANNOUNCE-DROPPED (R82, section 11.4). -/
inductive DropReason where
  | displaced
  | full
  | stale
  | route
  | cancelled
  | state
deriving DecidableEq, Repr

/-- Section 11.4, reasons of ANNOUNCE-DROPPED. -/
def dropCode : DropReason → Nat
  | .displaced => 0
  | .full => 1
  | .stale => 2
  | .route => 3
  | .cancelled => 4
  | .state => 5

/-- The reason of an ABSENT answer (R6). -/
inductive AbsentReason where
  | none
  | damaged
  | kind
deriving DecidableEq, Repr

/-- Section 11.4, reasons of CUE-ABSENT. -/
def absentCode : AbsentReason → Nat
  | .none => 0
  | .damaged => 1
  | .kind => 2

/-! ## Faults (R167) -/

/-- The number of a bank (R173). -/
def bankIndex : Bank → Fin 6
  | .store => 0
  | .mix => 1
  | .route => 2
  | .seat => 3
  | .light => 4
  | .port => 5

/-- How many kinds a bank holds (R167). -/
def bankSize (b : Fin 6) : Nat := [5, 4, 3, 3, 2, 2].getD b.val 0

/-- The bank of a kind (R167). -/
def faultBank : FaultKind → Bank
  | .eccCorrected | .eccUncorrected | .scrubOverflow | .linkParity | .mapParity => .store
  | .overload | .underrun | .underrunStreak | .liveInputLost => .mix
  | .backstep | .overspeed | .triggerAbsent => .route
  | .nodeSilent | .nodeFault | .linkBreak => .seat
  | .cueFormat | .lampLink => .light
  | .badFrame | .eventOverrun => .port

/-- The number of a kind within its bank, from 0 in the order of R167's table (section 11.4). -/
def faultNumber : FaultKind → Nat
  | .eccCorrected => 0
  | .eccUncorrected => 1
  | .scrubOverflow => 2
  | .linkParity => 3
  | .mapParity => 4
  | .overload => 0
  | .underrun => 1
  | .underrunStreak => 2
  | .liveInputLost => 3
  | .backstep => 0
  | .overspeed => 1
  | .triggerAbsent => 2
  | .nodeSilent => 0
  | .nodeFault => 1
  | .linkBreak => 2
  | .cueFormat => 0
  | .lampLink => 1
  | .badFrame => 0
  | .eventOverrun => 1

/-- Class U or U-crit (R167). -/
def faultUncorrected : FaultKind → Bool
  | .eccUncorrected | .linkParity | .mapParity | .underrunStreak | .linkBreak | .cueFormat => true
  | _ => false

/-- Class U-crit (R167). -/
def faultCritical : FaultKind → Bool
  | .linkParity | .mapParity | .underrunStreak => true
  | _ => false

/-- The flag byte of a fault record (section 11.4): bit 0 captured, 1 overrun, 2 uncorrected, 3 enabled-at-capture, 4 critical. -/
def faultFlags : Option FaultRecord → Nat
  | none => 0
  | some r => 1 + 2 * flagCode r.overrun + 4 * flagCode r.uncorrected + 8 * flagCode r.enabled + 16 * flagCode r.critical

end Sys2Proof.Machine
end

