-- ==== Sys2Proof/Machine/Memory.lean ====
section
/-! DEFINITION. Sparse tables in one canonical form, and the DRAM over them (R1).

A sparse table lists (key, value) with keys strictly rising and no value equal to the default, which is what an unlisted key reads
as. The DRAM is one with default byte 0 (log 4); so are the page link table (default FREE, R29) and the marks of wrong stored bits. -/

namespace Sys2Proof.Machine

variable {α : Type}

/-- What key `a` reads as, `d` being the default. -/
def sparseGet (d : α) : List (Nat × α) → Nat → α
  | [], _ => d
  | (k, v) :: m, a => if a = k then v else sparseGet d m a

/-- The table with `v` at key `a`, in canonical form again. -/
def sparseSet [DecidableEq α] (d : α) : List (Nat × α) → Nat → α → List (Nat × α)
  | [], a, v => if v = d then [] else [(a, v)]
  | (k, w) :: m, a, v =>
    if a < k then (if v = d then (k, w) :: m else (a, v) :: (k, w) :: m)
    else if a = k then (if v = d then m else (a, v) :: m)
    else (k, w) :: sparseSet d m a v

/-- Every key is above `a`. -/
def keysAbove (a : Nat) (m : List (Nat × α)) : Bool := m.all (fun e => decide (a < e.1))

/-- The canonical form: keys strictly rising, no value equal to the default. -/
def sparseWf [DecidableEq α] (d : α) : List (Nat × α) → Bool
  | [] => true
  | (k, v) :: m => decide (v ≠ d) && keysAbove k m && sparseWf d m

/-- What a byte of DRAM that nothing has written reads as: DESIGN CHOICE (log 4), unsafe. -/
def Memory.blank : Byte := 0

/-- The DRAM byte at an address. -/
def Memory.read (m : List Host.Cell) (a : Nat) : Byte := sparseGet Memory.blank m a

/-- The DRAM with a byte written. -/
def Memory.write (m : List Host.Cell) (a : Nat) (b : Byte) : List Host.Cell := sparseSet Memory.blank m a b

/-- The DRAM's canonical form. -/
def Memory.wf (m : List Host.Cell) : Bool := sparseWf Memory.blank m

/-- Bytes written from an address upward. -/
def Memory.writeAll (m : List Host.Cell) (a : Nat) : List Byte → List Host.Cell
  | [] => m
  | b :: bs => Memory.writeAll (Memory.write m a b) (a + 1) bs

/-- `n` bytes from an address upward. -/
def Memory.readMany (m : List Host.Cell) (a : Nat) : Nat → List Byte
  | 0 => []
  | n + 1 => Memory.read m a :: Memory.readMany m (a + 1) n

/-- The DRAM address of a line of a page (R1). -/
def lineAddress (p : Page) (line : Fin 64) : Nat := p.val * 4096 + line.val * 64

/-- The number of a word among all words of the DRAM (R1). -/
def wordKey (p : Page) (w : Nat) : Nat := p.val * 512 + w

/-- The page link table's value for a page (R2). -/
def linkOf (links : List (Nat × Link)) (p : Page) : Link := sparseGet Link.free links p.val

/-- The page link table with a page's value set (R2). -/
def setLink (links : List (Nat × Link)) (p : Page) (v : Link) : List (Nat × Link) := sparseSet Link.free links p.val v

/-- The wrong stored bits of a DRAM word. -/
def errorOf (errs : List (Nat × Option WordError)) (p : Page) (w : Nat) : Option WordError :=
  sparseGet none errs (wordKey p w)

/-- The wrong stored bits of a DRAM word, set; none when the word is written afresh. -/
def setError (errs : List (Nat × Option WordError)) (p : Page) (w : Nat) (e : Option WordError) :
    List (Nat × Option WordError) :=
  sparseSet none errs (wordKey p w) e

end Sys2Proof.Machine
end

