-- ==== Sys2Proof/Machine/Ops.lean ====
section
/-! DEFINITION. The named operations that every block shares: views, reading and changing a part of the state, posting events
(R182), clearing reservations (R160 to R163), and taking a command and answering it (R180). -/

namespace Sys2Proof.Machine

/-! ## Index lists, in the ascending order the rules take them -/

/-- Programmes 0 to 12. -/
def allProgs : List Prog := [0, 1, 2, 3, 4, 5, 6, 7, 8, 9, 10, 11, 12]

/-- The language programmes 1 to 12. -/
def langProgs : List Prog := [1, 2, 3, 4, 5, 6, 7, 8, 9, 10, 11, 12]

/-! ## Changing one part of the state -/

/-- The state with its Clip Store changed. -/
def State.onStore (s : State) (f : Store → Store) : State := { s with store := f s.store }
/-- The state with its Route Unit changed. -/
def State.onRoute (s : State) (f : Route → Route) : State := { s with route := f s.route }
/-- The state with its Commentary Player changed. -/
def State.onCom (s : State) (f : Commentary → Commentary) : State := { s with com := f s.com }
/-- The state with its Announcement Controller changed. -/
def State.onAnn (s : State) (f : Announcer → Announcer) : State := { s with ann := f s.ann }
/-- The state with its Programme Mixer changed. -/
def State.onMix (s : State) (f : Mixer → Mixer) : State := { s with mix := f s.mix }
/-- The state with its Seat Link changed. -/
def State.onSeat (s : State) (f : SeatLink → SeatLink) : State := { s with seat := f s.seat }
/-- The state with its Deck Light Engine changed. -/
def State.onLight (s : State) (f : Light → Light) : State := { s with light := f s.light }
/-- The state with its Fault Recorder changed. -/
def State.onFaults (s : State) (f : FaultRecorder → FaultRecorder) : State := { s with faults := f s.faults }
/-- The state with Operating Control changed. -/
def State.onCtl (s : State) (f : Control → Control) : State := { s with ctl := f s.ctl }
/-- The state with every port changed alike. -/
def State.onPorts (s : State) (f : PortState → PortState) : State := { s with ports := s.ports.map f }
/-- The state with one port changed. -/
def State.onPort (s : State) (p : Port) (f : PortState → PortState) : State := { s with ports := s.ports.modify p f }

/-! ## One thing per voice, one thing per channel -/

/-- The thing of a voice. -/
def Quad.get {α : Type} (q : Quad α) : Voice → α
  | .commentary => q.commentary
  | .announce => q.announce
  | .live => q.live
  | .bed => q.bed

/-- The thing of a voice replaced. -/
def Quad.set {α : Type} (q : Quad α) (v : Voice) (x : α) : Quad α :=
  match v with
  | .commentary => { q with commentary := x }
  | .announce => { q with announce := x }
  | .live => { q with live := x }
  | .bed => { q with bed := x }

/-- Each thing replaced by its image. -/
def Quad.map {α β : Type} (f : α → β) (q : Quad α) : Quad β :=
  ⟨f q.commentary, f q.announce, f q.live, f q.bed⟩

/-- The things in the order COMMENTARY, ANNOUNCE, LIVE, BED. -/
def Quad.toList {α : Type} (q : Quad α) : List α := [q.commentary, q.announce, q.live, q.bed]

/-- The thing of a channel. -/
def Pair.get {α : Type} (q : Pair α) : Channel → α
  | .driver => q.driver
  | .guide => q.guide

/-- The thing of a channel replaced. -/
def Pair.set {α : Type} (q : Pair α) (c : Channel) (x : α) : Pair α :=
  match c with
  | .driver => { q with driver := x }
  | .guide => { q with guide := x }

/-! ## Voices -/

/-- A voice of a programme. -/
def State.voice (s : State) (p : Prog) (v : Voice) : VoiceState := (s.mix.voices.get p).get v

/-- A voice of a programme changed. -/
def State.onVoice (s : State) (p : Prog) (v : Voice) (f : VoiceState → VoiceState) : State :=
  s.onMix fun m => { m with voices := m.voices.modify p fun q => q.set v (f (q.get v)) }

/-- A voice unbound, at position 0. It is so, and is read so, at once; the block under way goes on with what it has fixed (R105, log 26). -/
def VoiceState.unbind (v : VoiceState) : VoiceState :=
  { v with bind := none, started := false, pos := 0, paused := false }

/-- A voice bound to a clip that it starts at the next block start, or, with `started`, in the block that starts now (R105). -/
def VoiceState.bindTo (b : Binding) (started : Bool) (v : VoiceState) : VoiceState :=
  { v with bind := some b, started := started, pos := 0, paused := false, held := 0 }

/-! ## Views -/

/-- Whether programme `p` is ON. -/
def State.progOn (s : State) (p : Prog) : Bool := (s.mix.progs.get p).on

/-- Whether `p` is named as the mirror source of programme 0 (R99). -/
def State.isMirror (s : State) (p : Prog) : Bool := p != 0 && (s.mix.progs.get 0).mirror == p.val

/-- Whether the Seat Link's decision with R99's two exceptions makes `p` AWAKE. -/
def State.awakeNow (s : State) (p : Prog) : Bool :=
  p == 0 || s.isMirror p || s.seat.act.get p == some .awake

/-- The activity that the Clip Store uses (R99, R130): the Seat Link's decision as it stands, with R99's two exceptions; a programme that
has stopped being the mirror source stays AWAKE until its next block start. -/
def State.storeAwake (s : State) (p : Prog) : Bool := s.awakeNow p || s.mix.leaving.get p

/-- The engine mode of the Deck Light Engine (R135, section 11.3): 0 RUN, 1 FALLBACK, 2 STANDBY. -/
def State.engineMode (s : State) : Nat :=
  match s.ctl.op with
  | .run | .parkPending => 0
  | .fallback => 1
  | .standby => 2

/-- The ATN line of a port (R184). -/
def State.atn (s : State) (p : Port) : Bool :=
  !(s.ports.get p).queue.isEmpty || (s.ports.get p).overrun

/-- Whether polling runs (R121). -/
def State.polling (s : State) : Bool := s.ctl.op != .standby

/-- The 8 data bytes of a DRAM word (R1). -/
def State.wordBytes (s : State) (p : Page) (w : WordNo) : List Byte :=
  Memory.readMany s.store.dram (p.val * 4096 + w.val * 8) 8

/-- The check bits of a DRAM word (R1): written with the word, so a function of its bytes (log 5). -/
def State.checkBits (s : State) (p : Page) (w : WordNo) : Byte := Config.checkBits (s.wordBytes p w)

/-- How far the time base has run since `start`, modulo 2^32 (R94, R128). -/
def State.since (s : State) (start : Count32) : Nat := (s.ctl.time - start).toNat

/-! ## Events (R182) -/

/-- A port receives an event: it joins the queue, or is dropped with the overrun flag set. -/
def PortState.receive (e : Event) (ps : PortState) : PortState :=
  if ps.queue.length < Config.eventDepth then { ps with queue := ps.queue ++ [e] } else { ps with overrun := true }

/-- An event, stamped with the time base. -/
def State.event (s : State) (k : EventKind) (n1 n2 n3 : Nat) : Event := ⟨k, n1, n2, n3, s.ctl.time⟩

/-- An event of a kind other than LOAD-DONE goes to every port whose mask selects it. -/
def State.post (k : EventKind) (n1 n2 n3 : Nat) (s : State) : State :=
  s.onPorts fun ps => if maskSelects ps.mask k then ps.receive (s.event k n1 n2 n3) else ps

/-- LOAD-DONE goes to the loading port, whatever its mask (R18). -/
def State.postTo (p : Port) (k : EventKind) (n1 n2 n3 : Nat) (s : State) : State :=
  s.onPort p (PortState.receive (s.event k n1 n2 n3))

/-! ## Reservations (R158 to R163) -/

/-- A write of a record, from a port or by the hub: every reservation on it is cleared. -/
def State.touch (r : RecName) (s : State) : State :=
  s.onPorts fun ps => if ps.resv = some r then { ps with resv := none } else ps

/-- The issuing port's own reservation is cleared (R160). -/
def State.dropResv (p : Port) (s : State) : State := s.onPort p fun ps => { ps with resv := none }

def cursorRec : RecName := ⟨.cursor, 0⟩
def stopRec (i : StopNo) : RecName := ⟨.stop, i.val⟩
def segmentRec (i : SegNo) : RecName := ⟨.segment, i.val⟩
def programmeRec (p : Prog) : RecName := ⟨.programme, p.val⟩
def duckRec : RecName := ⟨.duck, 0⟩
def layerRec (l : LayerNo) : RecName := ⟨.layer, l.val⟩
def loudnessRec : RecName := ⟨.loudness, 0⟩
def seatConfigRec : RecName := ⟨.seatConfig, 0⟩

/-- The hub's own change of the cursor: a device update where it changes a field (R163). -/
def State.setCursor (c : Cursor) (s : State) : State :=
  if c = s.route.cursor then s else (s.onRoute fun r => { r with cursor := c }).touch cursorRec

/-- The hub's own change of a stop record (R163). -/
def State.setStop (i : StopNo) (x : Option Stop) (s : State) : State :=
  if x = s.route.stops.get i then s
  else (s.onRoute fun r => { r with stops := r.stops.set i x }).touch (stopRec i)

/-- The hub's own change of a segment record (R163). -/
def State.setSegment (i : SegNo) (x : Option Segment) (s : State) : State :=
  if x = s.route.segments.get i then s
  else (s.onRoute fun r => { r with segments := r.segments.set i x }).touch (segmentRec i)

/-- The hub's own change of a layer (R136, R163). -/
def State.setLayer (l : LayerNo) (x : Layer) (s : State) : State :=
  if x = s.light.layers.get l then s
  else (s.onLight fun g => { g with layers := g.layers.set l x }).touch (layerRec l)

/-! ## The record that a write names, and the conditional test (R160, R161) -/

/-- The record of a class that the payload's first byte names. -/
def namedRec (c : RecClass) (bs : List Byte) : Option RecName :=
  match bs with
  | i :: _ => if i.toNat < recClassSize c then some ⟨c, i.toNat⟩ else none
  | [] => none

/-- R160, R191: the reservable record that a command writes. -/
def State.targetOf (s : State) (h : InHand) : Option RecName :=
  match h.command with
  | .position | .jump | .routeClear => some cursorRec
  | .stopWrite | .stopRemove | .stopSkip => namedRec .stop h.payload
  | .stopRequest => s.route.cursor.nextStop.map stopRec
  | .segmentWrite | .segmentRemove => namedRec .segment h.payload
  | .programmeWrite => namedRec .programme h.payload
  | .duckWrite => some duckRec
  | .loudnessWrite => some loudnessRec
  | .layerWrite => namedRec .layer h.payload
  | .seatConfig => some seatConfigRec
  | _ => none

/-- R161: whether the port's reservation stands on the record that its command writes. -/
def State.testPasses (s : State) (p : Port) (h : InHand) : Bool :=
  match s.targetOf h with
  | some r => (s.ports.get p).resv == some r
  | none => false

/-! ## Taking a command (R180) -/

/-- What an owning block answers: the state after, the status and the payload. -/
structure Answer where
  state   : State
  status  : Status
  payload : List Byte

/-- An answer with no payload. -/
def State.answer (s : State) (st : Status) : Answer := ⟨s, st, []⟩

/-- OK with a payload. -/
def State.ok (s : State) (payload : List Byte) : Answer := ⟨s, .ok, payload⟩

/-- The command in hand on a port that may be taken: a conditional write only once it has passed its test on to its owning block (R161,
R179). -/
def State.handOf (s : State) (p : Port) (c : Command) : Option InHand :=
  match (s.ports.get p).slot with
  | .inHand h => if h.command = c ∧ (h.conditional → h.tested) then some h else none
  | _ => none

/-- R161, R164: what is done with a command at the moment it is taken. A conditional write whose reservation no longer stands on the record
that it writes now is answered RESERVATION-LOST, and its owning block does not see it (log 25). -/
def State.gate (s : State) (p : Port) (h : InHand) (body : List Byte → State → Answer) : List Byte → State → Answer :=
  if h.conditional && !s.testPasses p h then fun _ t => t.answer .reservationLost else body

/-- The port's slot becomes READY with the response (R180): a status other than OK carries no payload. -/
def State.respond (p : Port) (tag : Byte) (a : Answer) : State :=
  a.state.onPort p fun ps =>
    { ps with slot := .ready ⟨tag, a.status, if a.status = .ok then a.payload else []⟩ }

/-- R180: the owning block takes command `c` in hand on port `p`, in one event. A write first clears the port's own reservation
(R160), on which a conditional one depends (R161). Where no such command is in hand the event does not take place (log 2). -/
def State.take (s : State) (p : Port) (c : Command) (body : List Byte → State → Answer) : State :=
  match s.handOf p c with
  | none => s
  | some h =>
    State.respond p h.tag (s.gate p h body h.payload (if c.kind = .write then s.dropResv p else s))

end Sys2Proof.Machine
end

