-- ==== Sys2Proof/Machine/Store.lean ====
section
/-! DEFINITION. The Clip Store's shared operations: chains, lookups and uses, freeing, eviction, the load slots' pages and lines,
load completion and scrub requests (01_clip_store.md, R1 to R21, R26). None of them files a fault: a parity failure met on the way
is noted, and filed at the end of the event (log 7). -/

namespace Sys2Proof.Machine

/-! ## Parity (R28) -/

/-- A search of the clip map reads every entry: the entries whose parity fails are noted. -/
def Store.searchMap (st : Store) : Store := { st with noted := st.noted ++ st.badMap.map .map }

/-- A read of one clip map entry. -/
def Store.readEntry (st : Store) (n : EntryNo) : Store :=
  if n ∈ st.badMap then { st with noted := st.noted ++ [.map n] } else st

/-- Reads of the link values of pages, in order. -/
def Store.readLinks (st : Store) (ps : List Page) : Store :=
  { st with noted := st.noted ++ (ps.filter (· ∈ st.badLinks)).map .link }

/-! ## Writing the tables: a value written carries good parity -/

/-- A clip map entry written. -/
def Store.putEntry (st : Store) (n : EntryNo) (e : Option Entry) : Store :=
  { st with map := st.map.set n e, badMap := st.badMap.filter (· ≠ n) }

/-- A page link value written (R2). -/
def Store.putLink (st : Store) (p : Page) (v : Link) : Store :=
  { st with links := setLink st.links p v, badLinks := st.badLinks.filter (· ≠ p) }

/-! ## Chains (R1 to R3) -/

/-- The pages of the chain that starts at `p`, in chain order, at most `fuel` of them (R2). -/
def chainPages (links : List (Nat × Link)) : Nat → Page → List Page
  | 0, _ => []
  | fuel + 1, p =>
    p :: match linkOf links p with
      | .next q => chainPages links fuel q
      | _ => []

/-- The pages of a chain: no chain is longer than a clip may be (R1). -/
def Store.chain (st : Store) (first : Page) : List Page := chainPages st.links 1024 first

/-- A page joins the tail of the free page list, its link value FREE (R2, R3). -/
def Store.freePage (st : Store) (p : Page) : Store :=
  { st.putLink p .free with freeList := st.freeList ++ [p] }

/-- A chain is freed: its pages join the free page list in chain order (R3). -/
def Store.freeChain (st : Store) (first : Option Page) : Store :=
  match first with
  | none => st
  | some p =>
    let ps := st.chain p
    ps.foldl Store.freePage (st.readLinks ps)

/-- An entry is freed: its chain joins the free page list and it becomes empty (R7). -/
def Store.freeEntry (st : Store) (n : EntryNo) : Store :=
  match st.map.get n with
  | none => st
  | some e => (st.freeChain e.firstPage).putEntry n none

/-- A pinned entry loses its pin, and its pages leave the pinned page total (R8). -/
def Store.unpinEntry (st : Store) (n : EntryNo) : Store :=
  match st.map.get n with
  | none => st
  | some e =>
    if e.pinned then
      { st.putEntry n (some { e with pinned := false }) with pinTotal := st.pinTotal - e.pageCount.getD 0 }
    else st

/-! ## Finding entries (R5) -/

/-- READY or DAMAGED. -/
def Entry.standing (e : Entry) : Bool := e.state == .ready || e.state == .damaged

/-- The lowest-numbered entry that passes a test, with its number. -/
def Store.findEntry (st : Store) (f : Entry → Bool) : Option (EntryNo × Entry) :=
  (indices 192).findSome? fun n =>
    match st.map.get n with
    | some e => if f e then some (n, e) else none
    | none => none

/-- The standing entry of a clip ID (R5: at most one). -/
def Store.standingOf (st : Store) (clip : Nat) : Option (EntryNo × Entry) :=
  st.findEntry fun e => e.standing && e.clip == clip

/-- The lowest-numbered empty entry (section 1.2). -/
def Store.emptyEntry (st : Store) : Option EntryNo :=
  (indices 192).find? fun n => (st.map.get n).isNone

/-! ## Lookups and releases (R6, R7) -/

/-- The answer to a lookup (R6). -/
inductive LookupAnswer where
  | found (b : Binding)
  | absent (r : AbsentReason)
deriving DecidableEq, Repr

/-- The kinds that the voices accept (R6). -/
def audioKind (k : ClipKind) : Bool := k != .cue

/-- The kinds that a cue player accepts (R6). -/
def cueKind (k : ClipKind) : Bool := k == .cue

/-- R6: a lookup, by clip ID and accepted kinds. -/
def Store.lookup (st : Store) (clip : Nat) (accept : ClipKind → Bool) : Store × LookupAnswer :=
  let st := st.searchMap
  match st.standingOf clip with
  | none => (st, .absent .none)
  | some (n, e) =>
    if e.state = .damaged then (st, .absent .damaged)
    else if accept e.kind then
      let seq := st.seq + 1
      ({ st.putEntry n (some { e with useCount := e.useCount + 1, lastUse := some seq }) with seq := seq },
        .found ⟨n, clip, e.kind, e.byteLen, e.firstPage.getD 0⟩)
    else (st, .absent .kind)

/-- R7: a consumer gives up its use on an entry. -/
def Store.release (st : Store) (n : EntryNo) : Store :=
  let st := st.readEntry n
  match st.map.get n with
  | none => st
  | some e =>
    let st := st.putEntry n (some { e with useCount := e.useCount - 1 })
    if e.state = .retiring ∧ e.useCount - 1 = 0 then st.freeEntry n else st

/-- A standing entry leaves its state, replaced (R18) or deleted (R9): it loses its pin, and is freed, or RETIRING while in use,
by R9 even where another entry of the clip ID is RETIRING already, against the law of R5 (log 27). -/
def Store.retire (st : Store) (n : EntryNo) : Store :=
  let st := st.unpinEntry n
  match st.map.get n with
  | none => st
  | some e => if e.useCount = 0 then st.freeEntry n else st.putEntry n (some { e with state := .retiring })

/-! ## Eviction (R20, R21) -/

/-- R20: an eviction candidate. -/
def Entry.candidate (e : Entry) : Bool := e.standing && !e.pinned && e.useCount == 0

/-- R20, R99: whether a programme that is ON and AWAKE carries a language. -/
def State.languageHeard (s : State) (lang : Nat) : Bool :=
  langProgs.any fun p => s.progOn p && s.storeAwake p && (s.mix.progs.get p).lang == lang

/-- R20: the eviction class. -/
def State.evictClass (s : State) (e : Entry) : Nat := if e.lang ≠ 0 ∧ !s.languageHeard e.lang then 0 else 1

/-- R20: the keys of eviction order, in turn: DAMAGED before READY, class, last-use sequence, entry number. -/
def State.evictKey (s : State) (n : EntryNo) (e : Entry) : Nat × Nat × Nat × Nat :=
  (if e.state = .damaged then 0 else 1, s.evictClass e, (e.lastUse.getD 0).toNat, n.val)

/-- One key comes before another: a later component decides only between equal earlier ones. -/
def keyBefore (x y : Nat × Nat × Nat × Nat) : Bool :=
  decide (x.1 < y.1) || (x.1 == y.1 && (decide (x.2.1 < y.2.1) || (x.2.1 == y.2.1 &&
    (decide (x.2.2.1 < y.2.2.1) || (x.2.2.1 == y.2.2.1 && decide (x.2.2.2 < y.2.2.2))))))

/-- The candidates, with their numbers. -/
def Store.candidates (st : Store) : List (EntryNo × Entry) :=
  (indices 192).filterMap fun n =>
    match st.map.get n with
    | some e => if e.candidate then some (n, e) else none
    | none => none

/-- The first candidate in eviction order (R20). -/
def State.firstCandidate (s : State) : Option (EntryNo × Entry) :=
  s.store.candidates.foldl (fun best x =>
    match best with
    | none => some x
    | some y => if keyBefore (s.evictKey x.1 x.2) (s.evictKey y.1 y.2) then some x else some y) none

/-- R21: one eviction; none when there is no candidate. -/
def State.evict (s : State) : Option State :=
  let s := s.onStore Store.searchMap
  match s.firstCandidate with
  | none => none
  | some (n, e) =>
    some ((s.onStore fun st => st.freeEntry n).post .clipEvicted e.clip (e.pageCount.getD 0) 0)

/-! ## Load slots: pages and lines (R11 to R16) -/

/-- The load a slot holds outside CLOSED. -/
def LoadSlot.load : LoadSlot → Option Load
  | .closed => none
  | .opened l => some l
  | .closing l => some l

/-- A port's slot set. -/
def Store.setSlot (st : Store) (p : Port) (x : LoadSlot) : Store := { st with slots := st.slots.set p x }

/-- R14: the head of the free page list becomes the END page of the load's chain (R2). -/
def Store.takePage (st : Store) (p : Port) (l : Load) : Option Store :=
  match st.freeList with
  | [] => none
  | q :: rest =>
    let st := ({ st with freeList := rest }).putLink q .last
    match l.chain with
    | none => some (st.setSlot p (.opened { l with chain := some ⟨q, q, 1⟩ }))
    | some c => some ((st.putLink c.last (.next q)).setSlot p (.opened { l with chain := some ⟨c.first, q, c.count + 1⟩ }))

/-- The pages of a load's chain. -/
def Store.loadPages (st : Store) (l : Load) : List Page :=
  match l.chain with
  | none => []
  | some c => st.chain c.first

/-- The pending lines of a slot (R15). -/
def Store.pendingOf (st : Store) (p : Port) : List WriteLine :=
  (st.filling ++ st.eligible).filter fun w => w.slot == some p

/-- The free lines of the write buffer (R13). -/
def Store.freeLines (st : Store) : Nat := Config.bufferLines - (st.filling.length + st.eligible.length)

/-- The line of a clip offset within its page (R1). -/
def lineOf (off : Nat) : Fin 64 := ⟨off % 4096 / 64, by omega⟩

/-- Whether a waiting line is this slot's line at a page and line. -/
def WriteLine.isAt (w : WriteLine) (p : Port) (page : Page) (line : Fin 64) : Bool :=
  w.slot == some p && w.page == page && w.line == line

/-- R15: bytes laid into one line, after the filled bytes of the slot's pending line there, or in a new pending line. `last` says
that they end with the clip's last declared byte. -/
def Store.layLine (st : Store) (p : Port) (page : Page) (off : Nat) (bs : List Byte) (last : Bool) : Store :=
  let line := lineOf off
  let old := st.filling.find? fun w => w.isAt p page line
  let before := match old with
    | some w => w.data.take w.filled
    | none => []
  let all := before ++ bs
  let w : WriteLine := ⟨some p, page, line, all ++ List.replicate (64 - all.length) 0, all.length⟩
  let rest := st.filling.filter fun w => !w.isAt p page line
  if all.length = 64 ∨ last then { st with filling := rest, eligible := st.eligible ++ [w] }
  else { st with filling := rest ++ [w] }

/-- R15: a piece laid into the lines it touches, in clip order; `fuel` bounds the number of lines. -/
def Store.layPiece (p : Port) (pages : List Page) (len : Nat) : Nat → Nat → List Byte → Store → Store
  | 0, _, _, st => st
  | fuel + 1, off, bs, st =>
    let n := 64 - off % 64
    let chunk := bs.take n
    if bs.isEmpty then st
    else
      let st := st.layLine p (pages.getD (off / 4096) 0) off chunk (off + chunk.length == len)
      Store.layPiece p pages len fuel (off + chunk.length) (bs.drop n) st

/-- R18: load completion, all as one event. -/
def State.completeLoad (p : Port) (s : State) : State :=
  match (s.store.slots.get p).load with
  | none => s
  | some l =>
    -- step 1: the standing entry of the same clip ID leaves its state
    let s := s.onStore fun st =>
      let st := st.searchMap
      match st.standingOf l.clip with
      | none => st
      | some (n, _) => st.retire n
    -- steps 2 and 3: the new entry becomes READY, and pinned where the request fits
    let count := match l.chain with
      | some c => c.count
      | none => 0
    let fits := decide (s.store.pinTotal + count ≤ Config.pinLimit)
    let pinned := l.pin && fits
    let outcome := if l.pin then (if fits then 1 else 2) else 0
    let s := s.onStore fun st =>
      match st.map.get l.entry with
      | none => st
      | some e =>
        { st.putEntry l.entry (some { e with
            state := .ready, pinned := pinned, firstPage := l.chain.map (·.first), pageCount := some count,
            lastUse := some st.seq, loader := none }) with
          pinTotal := st.pinTotal + if pinned then count else 0 }
    -- step 4: the slot becomes CLOSED; step 5: LOAD-DONE to the loading port
    (s.onStore fun st => st.setSlot p .closed).postTo p .loadDone l.clip count outcome

/-- Whether the burst in progress drains a line of the buffer (R16): it is then the oldest eligible one. -/
def Store.draining (st : Store) : Bool :=
  match st.burst with
  | some ⟨.drain _, true⟩ => true
  | _ => false

/-- R19: a slot's pending lines are discarded, except the line whose burst is in progress. -/
def Store.discardLines (st : Store) (p : Port) : Store :=
  let keep := fun (w : WriteLine) => w.slot != some p
  let eligible := if st.draining then
      match st.eligible with
      | [] => []
      | w :: ws => (if keep w then w else { w with slot := none }) :: ws.filter keep
    else st.eligible.filter keep
  { st with filling := st.filling.filter keep, eligible := eligible }

/-! ## Scrub requests (R26) -/

/-- R26: a scrub request merges, joins, or is dropped (no). -/
def Store.requestScrub (st : Store) (page : Page) (w : WordNo) : Store × Bool :=
  if (page, w) ∈ st.scrub then (st, true)
  else if st.scrub.length < Config.scrubDepth then ({ st with scrub := st.scrub ++ [(page, w)] }, true)
  else (st, false)

/-! ## Where a clip's lines lie (R1, R23) -/

/-- The lines of a clip from the one that holds byte `lo` to the one that holds byte `hi`, with where they lie. -/
def Store.clipLines (st : Store) (b : Binding) (lo hi : Nat) : List LineReq :=
  let pages := st.chain b.first
  (List.range' (lo / 64) (hi / 64 + 1 - lo / 64)).map fun l => ⟨l, pages.getD (l / 64) 0, ⟨l % 64, by omega⟩⟩

/-- The link values read to reach those lines: one for each step along the chain (R28). -/
def Store.readTo (st : Store) (b : Binding) (hi : Nat) : Store := st.readLinks ((st.chain b.first).take (hi / 4096))

end Sys2Proof.Machine
end

