-- ==== Sys2Proof/Machine/Bed.lean ====
section
/-! DEFINITION. The BED voices (R113). -/

namespace Sys2Proof.Machine

/-- R113: the mixer releases a programme's bed use, if its BED voice holds one, and unbinds the voice. -/
def State.bedRelease (s : State) (p : Prog) : State :=
  match (s.voice p .bed).bind with
  | none => s
  | some b => (s.onVoice p .bed VoiceState.unbind).onStore fun st => st.release b.entry

/-- R113, R117: every bed use is released. -/
def State.releaseBeds (s : State) : State := allProgs.foldl State.bedRelease s

/-- R113: whether the operating state lets beds be bound. -/
def State.bedsAllowed (s : State) : Bool := s.ctl.op == .run || s.ctl.op == .parkPending

/-- R113: the lookup of a programme's bed clip at a block start. -/
def State.bedLookup (p : Prog) (s : State) : State :=
  if s.bedsAllowed ∧ s.progOn p = true ∧ (s.voice p .bed).bind = none then
    match (s.mix.progs.get p).bed with
    | none => s
    | some c =>
      let (st, a) := s.store.lookup c audioKind
      let s := s.onStore fun _ => st
      match a with
      | .absent _ => s
      | .found b => s.onVoice p .bed (VoiceState.bindTo b true)
  else s

/-- R101, R113: what a block start settles for the BED voice: a use on another clip ID is released, and the bed looked up. -/
def State.bedSettle (p : Prog) (s : State) : State :=
  let s := match (s.voice p .bed).bind with
    | some b => if (s.mix.progs.get p).bed = some b.clip then s else s.bedRelease p
    | none => s
  s.bedLookup p

end Sys2Proof.Machine
end

