-- ==== Sys2Proof/Machine/Operands.lean ====
section
/-! DEFINITION. The operand forms of the commands and the layouts of the records: payloads read as sections 11.3 and 11.4 lay them
out (R191: none where a payload does not decode), and records written as answers. -/

namespace Sys2Proof.Machine

/-! ## Reading payloads -/

/-- A clip ID field: 0 means none. -/
def clipOpt (n : Nat) : Option Nat := if n = 0 then none else some n

/-- The number a clip ID field carries. -/
def clipNum (o : Option Nat) : Nat := o.getD 0

/-- A byte that carries a yes or no value (R191). -/
def boolOf (b : Byte) : Option Bool := if b = 0 then some false else if b = 1 then some true else none

/-- A payload of exactly one number of `k` bytes. -/
def oneNumber (k : Nat) (bs : List Byte) : Option Nat := if bs.length = k then some (natLE bs) else none

/-- The first `k` bytes as a number, and the rest. -/
def takeNumber (k : Nat) (bs : List Byte) : Option (Nat × List Byte) :=
  if bs.length < k then none else some (natLE (bs.take k), bs.drop k)

/-- `n` pairs of a language and a clip ID, 3 bytes each, and the rest. -/
def takePairs : Nat → List Byte → Option (List (Nat × Nat) × List Byte)
  | 0, bs => some ([], bs)
  | n + 1, l :: c0 :: c1 :: bs =>
    (takePairs n bs).map fun r => ((l.toNat, natLE [c0, c1]) :: r.1, r.2)
  | _ + 1, _ => none

/-- `n` clip IDs, 2 bytes each, and the rest. -/
def takeClips : Nat → List Byte → Option (List Nat × List Byte)
  | 0, bs => some ([], bs)
  | n + 1, c0 :: c1 :: bs => (takeClips n bs).map fun r => (natLE [c0, c1] :: r.1, r.2)
  | _ + 1, _ => none

/-- A count of 1 byte, at most `limit` (R191), and the rest. -/
def takeCount (limit : Nat) : List Byte → Option (Nat × List Byte)
  | [] => none
  | c :: bs => if c.toNat ≤ limit then some (c.toNat, bs) else none

/-- A cell of 4 bytes (section 11.3); none where its flag byte names no value. -/
def cellOf (f r g b : Byte) : Option Cell :=
  (boolOf f).map fun t => if t then none else some ⟨r.toNat, g.toNat, b.toNat⟩

/-- `n` cells, 4 bytes each, and the rest. -/
def takeCells : Nat → List Byte → Option (List Cell × List Byte)
  | 0, bs => some ([], bs)
  | n + 1, f :: r :: g :: b :: bs =>
    (cellOf f r g b).bind fun c => (takeCells n bs).map fun rest => (c :: rest.1, rest.2)
  | _ + 1, _ => none

/-- A language list is legal: 1 to 63 each, no language twice, no clip ID 0 (R40, R49, R79). -/
def langsLegal (l : List (Nat × Nat)) : Bool :=
  l.all (fun x => 1 ≤ x.1 && x.1 ≤ 63 && x.2 != 0) && (l.map Prod.fst).Nodup

/-- A PA list is legal: 1 to 3 clip IDs, none 0 (R40, R79). -/
def paLegal (l : List Nat) : Bool := 1 ≤ l.length && l.length ≤ 3 && l.all (· != 0)

/-- STOP-WRITE's fields (R40): the index as carried, and the record AHEAD with its request flag clear. -/
def stopOf (bs : List Byte) : Option (Nat × Stop) := do
  let (i, bs) ← takeNumber 1 bs
  let (a, bs) ← takeNumber 4 bs
  let (b, bs) ← takeNumber 4 bs
  let (fl, bs) ← takeNumber 1 bs
  let (n, bs) ← takeCount 12 bs
  let (langs, bs) ← takePairs n bs
  let (dflt, bs) ← takeNumber 2 bs
  let (k, bs) ← takeCount 3 bs
  let (pa, bs) ← takeClips k bs
  let (chime, bs) ← takeNumber 2 bs
  let (cue, bs) ← takeNumber 2 bs
  if bs.isEmpty ∧ fl < 4 then
    some (i, ⟨a, b, fl % 2 == 1, fl / 2 == 1, langs, clipOpt dflt, pa, clipOpt chime, clipOpt cue, false, .ahead⟩)
  else none

/-- The ranges of R40's first test. -/
def stopLegal (i : Nat) (x : Stop) : Bool :=
  decide (i ≤ 63) && decide (x.a < x.b) && decide (x.b ≤ Config.maxDistance) &&
    decide (1 ≤ x.langs.length) && langsLegal x.langs && paLegal x.pa

/-- SEGMENT-WRITE's fields (R49): the index as carried, and the record ARMED. -/
def segmentOf (bs : List Byte) : Option (Nat × Segment) := do
  let (i, bs) ← takeNumber 1 bs
  let (t, bs) ← takeNumber 4 bs
  let (late, bs) ← takeNumber 2 bs
  let (pr, bs) ← takeNumber 1 bs
  let (fl, bs) ← takeNumber 1 bs
  let (n, bs) ← takeCount 12 bs
  let (langs, bs) ← takePairs n bs
  let (cue, bs) ← takeNumber 2 bs
  if bs.isEmpty ∧ fl < 2 then some (i, ⟨t, late, pr, fl == 1, langs, clipOpt cue, .armed, 0, 0⟩) else none

/-- The ranges of R49. -/
def segmentLegal (x : Segment) : Bool :=
  decide (x.t ≤ Config.maxDistance) && decide (x.late ≤ 2000) && decide (x.priority ≤ 3) &&
    decide (1 ≤ x.langs.length) && langsLegal x.langs

/-- PROGRAMME-WRITE's fields (R99, R100): the number as carried, and the record as carried. -/
def programmeOf (bs : List Byte) : Option (Nat × ProgRec) := do
  let (n, bs) ← takeNumber 1 bs
  let (st, bs) ← takeNumber 1 bs
  let (lang, bs) ← takeNumber 1 bs
  let (gc, bs) ← takeNumber 2 bs
  let (ga, bs) ← takeNumber 2 bs
  let (gl, bs) ← takeNumber 2 bs
  let (gb, bs) ← takeNumber 2 bs
  let (m, bs) ← takeNumber 2 bs
  let (fl, bs) ← takeNumber 1 bs
  let (bed, bs) ← takeNumber 2 bs
  let (mir, bs) ← takeNumber 1 bs
  if bs.isEmpty ∧ st < 2 ∧ fl < 2 then
    some (n, ⟨st == 1, lang, ⟨gc, ga, gl, gb⟩, m, fl == 1, clipOpt bed, mir⟩)
  else none

/-- R100's first test. -/
def programmeLegal (n : Nat) (x : ProgRec) : Bool :=
  decide (n ≤ 12) &&
    (if n = 0 then x.on && x.lang == 0 && !x.guide && decide (x.mirror ≤ 12)
     else decide (1 ≤ x.lang) && decide (x.lang ≤ 63) && x.mirror == 0)

/-- R100's second step: gains above their ranges clamped. -/
def programmeClamp (x : ProgRec) : ProgRec :=
  { x with gains := x.gains.map (min 4096), master := min 8192 x.master }

/-- DUCK-WRITE's fields (R103, section 11.4), as carried. -/
def duckOf (bs : List Byte) : Option DuckTable :=
  if bs.length = 20 then
    let f := fun i => natLE ((bs.drop (2 * i)).take 2)
    some ⟨⟨some (f 0), none, some (f 1), some (f 2)⟩, ⟨some (f 3), some (f 4), none, some (f 5)⟩,
      ⟨some (f 6), some (f 7), none, some (f 8)⟩, f 9⟩
  else none

/-- R103's clamps: targets to 4096, r to 1 to 512. -/
def duckClamp (d : DuckTable) : DuckTable :=
  let c : DuckRow → DuckRow := Quad.map (Option.map (min 4096))
  ⟨c d.announce, c d.liveDriver, c d.liveGuide, max 1 (min 512 d.r)⟩

/-- LOUDNESS-WRITE's fields (R104, section 11.4), as carried. -/
def loudnessOf (bs : List Byte) : Option Loudness :=
  match bs with
  | [hk, hv, h0, h1, pk, pv, p0, p1] =>
    some ⟨⟨hk.toNat, hv.toNat, natLE [h0, h1]⟩, ⟨pk.toNat, pv.toNat, natLE [p0, p1]⟩⟩
  | _ => none

/-- R104's clamps. -/
def loudGroupClamp (g : LoudGroup) : LoudGroup := ⟨min 64 g.k, min 120 g.v0, max 4096 (min 8192 g.lmax)⟩

/-- LAYER-WRITE's fields (R136, R137, section 11.4): the number as carried, and the record. -/
def layerOf (bs : List Byte) : Option (Nat × Layer) :=
  match bs with
  | n :: en :: sc :: off :: comb :: inv :: r :: g :: b :: cnt :: rest => do
    let en ← boolOf en
    let sc ← scaleOf sc.toNat
    let comb ← combineOf comb.toNat
    let inv ← boolOf inv
    let (cells, rest) ← takeCells cnt.toNat rest
    if rest.isEmpty ∧ cnt.toNat ≤ 96 then
      some (n.toNat, ⟨en, cells, sc, off.toNat, comb, inv, ⟨r.toNat, g.toNat, b.toNat⟩⟩)
    else none
  | _ => none

/-- R137's ranges. -/
def layerLegal (n : Nat) (x : Layer) : Bool :=
  decide (n ≤ 3) && decide (1 ≤ x.cells.length) && decide (x.cells.length ≤ 96) && decide (x.offset ≤ 95)

/-- ANNOUNCE's arguments (R79, section 11.3). -/
structure AnnounceArgs where
  kind  : AnnKind
  langs : List (Nat × Nat)
  dflt  : Option Nat
  pa    : List Nat
  chime : Option Nat
deriving DecidableEq, Repr

/-- ANNOUNCE's arguments, as carried. -/
def announceOf (bs : List Byte) : Option AnnounceArgs := do
  let (k, bs) ← takeNumber 1 bs
  let kind ← annKindOf k
  let (n, bs) ← takeCount 12 bs
  let (langs, bs) ← takePairs n bs
  let (dflt, bs) ← takeNumber 2 bs
  let (m, bs) ← takeCount 3 bs
  let (pa, bs) ← takeClips m bs
  let (chime, bs) ← takeNumber 2 bs
  if bs.isEmpty then some ⟨kind, langs, clipOpt dflt, pa, clipOpt chime⟩ else none

/-- R79's first test. -/
def announceLegal (x : AnnounceArgs) : Bool :=
  (x.kind == .cab || x.kind == .safety) && langsLegal x.langs && paLegal x.pa

/-- LOAD-OPEN's arguments (R12, section 11.3). -/
structure LoadOpenArgs where
  clip : Nat
  kind : ClipKind
  lang : Nat
  len  : Nat
  pin  : Bool
deriving DecidableEq, Repr

/-- LOAD-OPEN's arguments, as carried. -/
def loadOpenOf (bs : List Byte) : Option LoadOpenArgs :=
  match bs with
  | [c0, c1, k, l, n0, n1, n2, n3, pin] => do
    let kind ← clipKindOf k.toNat
    let pin ← boolOf pin
    some ⟨natLE [c0, c1], kind, l.toNat, natLE [n0, n1, n2, n3], pin⟩
  | _ => none

/-- R12's second test. -/
def loadOpenLegal (x : LoadOpenArgs) : Bool :=
  x.clip != 0 && decide (x.lang ≤ 63) && decide (1 ≤ x.len) && decide (x.len ≤ Config.maxClipLength) &&
    (x.kind == .cue || x.len % 2 == 0)

/-- RESERVE's record (R157, R159): none for a class or an index outside R157. -/
def recNameOf (bs : List Byte) : Option RecName :=
  match bs with
  | [c, i] => do
    let cls ← recClassOf c.toNat
    if i.toNat < recClassSize cls then some ⟨cls, i.toNat⟩ else none
  | _ => none

/-- EVENT-MASK's mask: bit k selects kind k, for k from 1 to 18 (section 11.3, R191). -/
def eventMaskOf (bs : List Byte) : Option (BitVec 24) := do
  let m ← oneNumber 3 bs
  if m % 2 = 0 ∧ m < 2 ^ 19 then some (BitVec.ofNat 24 m) else none

/-! ## Writing records (section 11.4) -/

/-- A flag byte or a yes or no byte. -/
def flagByte (b : Bool) : Byte := byteOf (flagCode b)

/-- Colours are three bytes, red first. -/
def colourBytes (c : Colour) : List Byte := [byteOf c.r, byteOf c.g, byteOf c.b]

/-- A cell: the colour of a TRANSPARENT cell is 0 when read (section 11.3). -/
def cellBytes : Cell → List Byte
  | some c => 0 :: colourBytes c
  | none => [1, 0, 0, 0]

/-- A language list: its count, and 3 bytes for each pair. -/
def langsBytes (l : List (Nat × Nat)) : List Byte :=
  byteOf l.length :: l.flatMap fun x => byteOf x.1 :: bytesLE 2 x.2

/-- The next stop, 64 for none (R31). -/
def stopNum (o : Option StopNo) : Nat := match o with
  | some i => i.val
  | none => 64

/-- Stop record. -/
def stopBytes (i : StopNo) : Option Stop → List Byte
  | none => [byteOf i.val, 5]
  | some x =>
    byteOf i.val :: (bytesLE 4 x.a ++ bytesLE 4 x.b ++ [byteOf (flagCode x.requestOnly + 2 * flagCode x.arrivalCall)] ++
      langsBytes x.langs ++ bytesLE 2 (clipNum x.dflt) ++ (byteOf x.pa.length :: x.pa.flatMap (bytesLE 2)) ++
      bytesLE 2 (clipNum x.chime) ++ bytesLE 2 (clipNum x.cue) ++ [flagByte x.request, byteOf (stopStateCode x.state)])

/-- Segment record. -/
def segmentBytes (i : SegNo) : Option Segment → List Byte
  | none => [byteOf i.val, 4]
  | some x =>
    byteOf i.val :: (bytesLE 4 x.t ++ bytesLE 2 x.late ++ [byteOf x.priority, flagByte x.hold] ++ langsBytes x.langs ++
      bytesLE 2 (clipNum x.cue) ++ [byteOf (segStateCode x.state), byteOf x.outstanding, byteOf x.played])

/-- Programme record. -/
def programmeBytes (p : Prog) (x : ProgRec) : List Byte :=
  [byteOf p.val, flagByte x.on, byteOf x.lang] ++ x.gains.toList.flatMap (bytesLE 2) ++ bytesLE 2 x.master ++
    [flagByte x.guide] ++ bytesLE 2 (clipNum x.bed) ++ [byteOf x.mirror]

/-- Duck table: the nine targets, then r. -/
def duckBytes (d : DuckTable) : List Byte :=
  ([d.announce, d.liveDriver, d.liveGuide].flatMap fun row => row.toList.filterMap id).flatMap (bytesLE 2) ++ bytesLE 2 d.r

/-- One group of the loudness record. -/
def loudGroupBytes (g : LoudGroup) : List Byte := [byteOf g.k, byteOf g.v0] ++ bytesLE 2 g.lmax

/-- Loudness record. -/
def loudnessBytes (l : Loudness) : List Byte := loudGroupBytes l.headset ++ loudGroupBytes l.pa

/-- Layer record. -/
def layerBytes (i : LayerNo) (x : Layer) : List Byte :=
  [byteOf i.val, flagByte x.enabled, byteOf (scaleCode x.scale), byteOf x.offset, byteOf (combineCode x.combine),
    flagByte x.invert] ++ colourBytes x.fillC ++ [byteOf x.cells.length] ++ x.cells.flatMap cellBytes

/-- Seat configuration record. -/
def seatConfigBytes (k : SeatLink) : List Byte := byteOf k.count :: bytesLE 2 k.holdoff

/-- Cursor record: the last mover is a port, or 3 NONE. -/
def cursorBytes (c : Cursor) : List Byte :=
  flagByte c.set :: (bytesLE 4 c.distance ++ [byteOf c.speed, byteOf (stopNum c.nextStop), byteOf (originCode c.lastMover)])

/-- The answer to POSITION and JUMP (R32, R36): state, distance, speed and next stop. -/
def fixBytes (c : Cursor) : List Byte :=
  flagByte c.set :: (bytesLE 4 c.distance ++ [byteOf c.speed, byteOf (stopNum c.nextStop)])

/-- An event record: 17 bytes. -/
def eventBytes (e : Event) : List Byte :=
  byteOf (eventKindCode e.kind) :: (bytesLE 4 e.n1 ++ bytesLE 4 e.n2 ++ bytesLE 4 e.n3 ++ bytesLE 4 e.stamp.toNat)

/-- A fault record: 14 bytes; an empty one is its flag byte alone (R173, log 9). -/
def faultBytes : Option FaultRecord → List Byte
  | none => [0]
  | some r =>
    byteOf (faultFlags (some r)) :: byteOf (faultNumber r.kind) ::
      (bytesLE 4 r.detail1 ++ bytesLE 4 r.detail2 ++ bytesLE 4 r.stamp.toNat)

/-- The content of a record that RESERVE answers (R157, R159). -/
def State.recordBytes (s : State) (r : RecName) : List Byte :=
  match r.cls with
  | .cursor => cursorBytes s.route.cursor
  | .stop => match toIndex 64 r.idx with
    | some i => stopBytes i (s.route.stops.get i)
    | none => []
  | .segment => match toIndex 256 r.idx with
    | some i => segmentBytes i (s.route.segments.get i)
    | none => []
  | .programme => match toIndex 13 r.idx with
    | some p => programmeBytes p (s.mix.progs.get p)
    | none => []
  | .duck => duckBytes s.mix.duck
  | .layer => match toIndex 4 r.idx with
    | some l => layerBytes l (s.light.layers.get l)
    | none => []
  | .loudness => loudnessBytes s.mix.loud
  | .seatConfig => seatConfigBytes s.seat

/-- The bytes of a response (section 11.1, R180, R190). -/
def responseBytes (r : Response) : List Byte :=
  let body := r.tag :: byteOf (statusCode r.status) :: (bytesLE 2 r.payload.length ++ r.payload)
  0x5A#8 :: (body ++ crcField body)

end Sys2Proof.Machine
end

