-- ==== Sys2Proof/Machine/Route.lean ====
section
/-! DEFINITION. The Route Unit's own operations: the next stop (R31) and the reports of commentary items (R52). -/

namespace Sys2Proof.Machine

/-- R31: the lowest-indexed stop in AHEAD or APPROACHING. -/
def Route.firstOpenStop (r : Route) : Option StopNo :=
  (indices 64).find? fun i =>
    match r.stops.get i with
    | some x => x.state == .ahead || x.state == .approaching
    | none => false

/-- R31: the next stop worked out afresh. -/
def State.recomputeNext (s : State) : State :=
  s.setCursor { s.route.cursor with nextStop := s.route.firstOpenStop }

/-- The outcomes of a commentary item (R74). -/
inductive ItemOutcome where
  | done
  | late
  | cancelled
  | droppedFull
deriving DecidableEq, Repr

/-- R51, R52: a TRIGGERED segment with no outstanding item left becomes FINISHED, and SEGMENT-FINISHED is posted. -/
def State.settleSegment (i : SegNo) (s : State) : State :=
  match s.route.segments.get i with
  | some x =>
    if x.state = .triggered ∧ x.outstanding = 0 then
      (s.setSegment i (some { x with state := .finished })).post .segmentFinished i.val x.played 0
    else s
  | none => s

/-- R52: the report of an item that has left its queue. -/
def State.reportItem (i : SegNo) (o : ItemOutcome) (s : State) : State :=
  match s.route.segments.get i with
  | some x =>
    if x.state = .triggered then
      (s.setSegment i (some { x with
        outstanding := x.outstanding - 1, played := x.played + if o = .done then 1 else 0 })).settleSegment i
    else s
  | none => s

end Sys2Proof.Machine
end

