-- ==== Sys2Proof/Machine/Commentary.lean ====
section
/-! DEFINITION. The Commentary Player's operations (03_commentary_playback.md, R56 to R76), but for the taking of a hand-off. -/

namespace Sys2Proof.Machine

/-- A programme's queue. -/
def State.queueOf (s : State) (p : Prog) : List Item := s.com.queues.get p

/-- A programme's queue set. -/
def State.setQueue (p : Prog) (q : List Item) (s : State) : State :=
  s.onCom fun c => { c with queues := c.queues.set p q }

/-- R74: what follows an item's leaving its queue: its COMMENTARY voice is unbound if it was PLAYING, its use released, and its
removal reported unless it is orphaned. -/
def State.itemLeft (p : Prog) (o : ItemOutcome) (s : State) (x : Item) : State :=
  let s := if x.playing then s.onVoice p .commentary VoiceState.unbind else s
  let s := s.onStore fun st => st.release x.bind.entry
  if x.orphaned then s else s.reportItem x.segment o

/-- R74: the items of a queue that pass a test leave it, head first. -/
def State.removeItems (p : Prog) (f : Item → Bool) (o : ItemOutcome) (s : State) : State :=
  ((s.queueOf p).filter f).foldl (State.itemLeft p o) (s.setQueue p ((s.queueOf p).filter fun x => !f x))

/-- R68, R73: every item of a queue leaves it CANCELLED. -/
def State.emptyQueue (s : State) (p : Prog) : State := s.removeItems p (fun _ => true) .cancelled

/-- R73: every queue is emptied, in programme order and head first. -/
def State.emptyQueues (s : State) : State := langProgs.foldl State.emptyQueue s

/-- R57, R67: the trigger distance of a PLAYING item above a distance is lowered to it. -/
def Item.lower (d : Nat) (x : Item) : Item := if x.playing then { x with trig := min x.trig d } else x

/-- R67: the WAITING items of every queue are cancelled, and PLAYING items lowered (R57) and, at a ROUTE-CLEAR, orphaned. -/
def State.cancelWaiting (d : Nat) (orphan : Bool) (s : State) : State :=
  let s := langProgs.foldl (fun s p => s.removeItems p (fun x => !x.playing) .cancelled) s
  s.onCom fun c => { c with
    queues := c.queues.map fun q => q.map fun x =>
      let x := x.lower d
      if orphan ∧ x.playing then { x with orphaned := true } else x }

/-- R66: whether a WAITING item is late at a new distance. -/
def Item.isLate (d : Nat) (x : Item) : Bool := !x.playing && decide (x.trig + x.late < d)

/-- R66: the late test, queue by queue in programme order. -/
def State.lateTest (d : Nat) (s : State) : State :=
  langProgs.foldl (fun s p => s.removeItems p (Item.isLate d) .late) s

/-- R65: the end of a PLAYING item's clip: it leaves DONE. With no PLAYING item the report is discarded. -/
def State.itemDone (p : Prog) (s : State) : State :=
  match s.queueOf p with
  | x :: rest => if x.playing then (s.setQueue p rest).itemLeft p .done x else s
  | [] => s

/-- R60: where a new item joins a queue with room: after every item whose trigger distance is at or below its own. -/
def insertItem (x : Item) : List Item → List Item
  | [] => [x]
  | y :: ys => if y.trig ≤ x.trig then y :: insertItem x ys else x :: y :: ys

/-- R60: the item that a full queue gives up: the oldest WAITING one with priority at or below the new item's. -/
def displaced (x : Item) (q : List Item) : Option Item :=
  q.find? fun y => !y.playing && decide (y.priority ≤ x.priority)

/-- R60: a new item placed in its queue; the answer says whether it joined. -/
def State.placeItem (p : Prog) (x : Item) (s : State) : State × Bool :=
  let q := s.queueOf p
  if q.length < Config.commentaryDepth then (s.setQueue p (insertItem x q), true)
  else
    match displaced x q with
    | some y => (((s.setQueue p (q.erase y)).itemLeft p .droppedFull y).onCom fun c =>
        { c with queues := c.queues.modify p fun q => insertItem x q }, true)
    | none => (s.onStore fun st => st.release x.bind.entry, false)

/-- R63: the head item starts on the free voice, and posts SEGMENT-STARTED if it is its segment's first. -/
def State.startItem (p : Prog) (x : Item) (rest : List Item) (s : State) : State :=
  let s := s.setQueue p ({ x with playing := true, paused := false, pos := 0 } :: rest)
  let s := s.onVoice p .commentary (VoiceState.bindTo x.bind true)
  if s.com.marks.get x.segment then s
  else (s.onCom fun c => { c with marks := c.marks.set x.segment true }).post .segmentStarted x.segment.val p.val s.route.cursor.distance

/-- R63, R70: what a block start settles for a programme's COMMENTARY voice. -/
def State.settleCommentary (p : Prog) (s : State) : State :=
  match s.queueOf p with
  | [] => s
  | x :: rest =>
    if x.playing then
      let paused := x.hold && s.com.window
      let pos := (s.voice p .commentary).pos
      (s.setQueue p ({ x with paused := paused, pos := pos } :: rest)).onVoice p .commentary fun v => { v with paused := paused }
    else if x.hold ∧ s.com.window then s
    else s.startItem p x rest

end Sys2Proof.Machine
end

