-- ==== Sys2Proof/Machine/Light.lean ====
section
/-! DEFINITION. The Deck Light Engine's operations: sampling and composition (R138 to R142), starting and stopping cue players
(R146, R148), their fetches (R149), the frame step (R152 to R154) and the decoding of what a fetch read (R150, R151, R193). -/

namespace Sys2Proof.Machine

/-! ## Colours -/

/-- A colour made channel by channel from one. -/
def Colour.map (f : Nat → Nat) (a : Colour) : Colour := ⟨f a.r, f a.g, f a.b⟩

/-- A colour made channel by channel from two. -/
def Colour.zip (f : Nat → Nat → Nat) (a b : Colour) : Colour := ⟨f a.r b.r, f a.g b.g, f a.b b.b⟩

/-! ## Sampling (R138, R139) -/

/-- A layer's cell at a place along the pattern, the offset added and wrapped (R138). -/
def Layer.cellAt (y : Layer) (i : Nat) : Cell := y.cells.getD ((i + y.offset) % y.cells.length) none

/-- R139: the sample of two adjacent cells under SHRINK2. -/
def shrinkCells : Cell → Cell → Cell
  | some a, some b => some (a.zip (fun x y => (x + y) / 2) b)
  | some a, none => some a
  | none, some b => some b
  | none, none => none

/-- R138: the sample of a zone as the scale takes it. -/
def Layer.rawSample (y : Layer) (z : ZoneNo) : Cell :=
  match y.scale with
  | .normal => y.cellAt z.val
  | .zoom2 => y.cellAt (z.val / 2)
  | .shrink2 => shrinkCells (y.cellAt (2 * z.val)) (y.cellAt (2 * z.val + 1))

/-- R139: INVERT turns a sample over. -/
def Layer.turn (y : Layer) : Cell → Cell
  | some c => if y.invert then none else some c
  | none => if y.invert then some y.fillC else none

/-- R138, R139: the sample of a zone. -/
def Layer.sample (y : Layer) (z : ZoneNo) : Cell := y.turn (y.rawSample z)

/-! ## Composition (R140 to R142) -/

/-- R140: a combine function on one channel, `a` of the accumulated colour and `c` of the sample. -/
def combineChannel : Combine → Nat → Nat → Nat
  | .replace, _, c => c
  | .max, a, c => Max.max a c
  | .min, a, c => Min.min a c
  | .add, a, c => Min.min 255 (a + c)
  | .subtract, a, c => a - c
  | .average, a, c => (a + c) / 2
  | .scale, a, c => a * c / 255

/-- R140: a layer joined to the accumulated colour. -/
def Layer.join (y : Layer) (z : ZoneNo) (acc : Colour) : Colour :=
  if y.enabled then
    match y.sample z with
    | some c => acc.zip (combineChannel y.combine) c
    | none => acc
  else acc

/-- R140: the colour that L0 starts with. -/
def Layer.start (y : Layer) (z : ZoneNo) : Colour :=
  if y.enabled then (y.sample z).getD Colour.black else Colour.black

/-- R140: the composed colour of a zone. -/
def Light.composed (g : Light) (z : ZoneNo) : Colour :=
  (g.layers.get 3).join z ((g.layers.get 2).join z ((g.layers.get 1).join z ((g.layers.get 0).start z)))

/-- Zones 44 to 47 are stair zones (R135). -/
def stairZone (z : ZoneNo) : Bool := decide (44 ≤ z.val)

/-- R135, R142, R143: a zone's output in an engine mode (0 RUN, 1 FALLBACK, 2 STANDBY). -/
def Light.output (g : Light) (mode : Nat) (z : ZoneNo) : Colour :=
  match mode with
  | 0 =>
    if stairZone z then (g.composed z).zip Max.max g.floorC
    else (g.composed z).map fun v => v * g.dim / 255
  | 1 => if stairZone z then g.fallback.zip Max.max g.floorC else g.fallback
  | _ => Colour.black

/-! ## Cue players: fetches, starting and stopping -/

/-- The layer that a player drives. -/
def playerLayer (k : PlayerNo) : LayerNo := k.castSucc

/-- A cue player set. -/
def State.setPlayer (k : PlayerNo) (x : Option Player) (s : State) : State :=
  s.onLight fun g => { g with players := g.players.set k x }

/-- A burst in progress for a cue player has its data discarded (R148). -/
def Store.dropCue (st : Store) (k : PlayerNo) : Store :=
  match st.burst with
  | some ⟨.cue j b r, w⟩ => { st with burst := some ⟨.cue j b r, w && j != k⟩ }
  | _ => st

/-- Whether a wanted burst of a player's fetch is in progress. -/
def Store.cueInFlight (st : Store) (k : PlayerNo) : Bool :=
  match st.burst with
  | some ⟨.cue j _ _, w⟩ => w && j == k
  | _ => false

/-- R149: a player requests the lines from the one that holds byte `lo` to the one that holds byte `hi`, or to the clip's last. -/
def State.cueFetch (k : PlayerNo) (q : Player) (lo hi : Nat) (s : State) : State :=
  let hi := min hi (q.bind.len - 1)
  (s.onStore fun st => st.readTo q.bind hi).setPlayer k
    (some { q with data := .fetching, want := s.store.clipLines q.bind lo hi, got := [] })

/-- R148: a player is stopped, with no event. -/
def State.playerStop (k : PlayerNo) (s : State) : State :=
  match s.light.players.get k with
  | none => s
  | some q => (s.setPlayer k none).onStore fun st => (st.dropCue k).release q.bind.entry

/-- R143: every player is stopped, in the order P0, P1, P2 (log 13). -/
def State.stopPlayers (s : State) : State := ((s.playerStop 0).playerStop 1).playerStop 2

/-- A player right after a successful start (R146). -/
def Player.begin (b : Binding) : Player where
  bind     := b
  header   := none
  elapsed  := 0
  next     := some 0
  data     := .absent
  applied  := none
  nextByte := 2
  lastTime := none
  want     := []
  got      := []

/-- R146: a taken start request; the answer says whether the player became PLAYING. -/
def State.playerStart (k : PlayerNo) (clip : Nat) (s : State) : State × Bool :=
  let s := s.playerStop k
  let (st, a) := s.store.lookup clip cueKind
  let s := s.onStore fun _ => st
  match a with
  | .absent r => (s.post .cueAbsent k.val clip (absentCode r), false)
  | .found b => (s.cueFetch k (Player.begin b) 0 392, true)

/-- R146: a request from a segment or an announcement is taken only while the engine is in RUN. -/
def State.cueRequest (k : PlayerNo) (clip : Option Nat) (s : State) : State :=
  match clip with
  | none => s
  | some c => if s.engineMode = 0 then (s.playerStart k c).1 else s

/-- R88, R148: P2 is stopped, and L2 is disabled, whether or not P2 was PLAYING. -/
def State.endStopCue (s : State) : State :=
  let s := s.playerStop 2
  s.setLayer 2 { s.light.layers.get 2 with enabled := false }

/-! ## The frame step (R152 to R154) -/

/-- R152: the fade-from pattern for a keyframe of `n` cells. -/
def fadeFrom (y : Layer) (n : Nat) : List Colour :=
  (List.range n).map fun i =>
    if y.enabled then (y.cells.getD (i * y.cells.length / n) none).getD Colour.black else Colour.black

/-- R153: one channel of a fade, `m` being the lesser of e and f; with f = 0 the fade-to value. -/
def fadeChannel (e f a b : Nat) : Nat :=
  if f = 0 then b else ((a : Int) + ((b : Int) - (a : Int)) * (min e f : Nat) / (f : Int)).toNat

/-- R153: one cell of a fade. -/
def fadeCell (e f : Nat) (a : Colour) : Cell → Cell
  | none => none
  | some b => some (a.zip (fadeChannel e f) b)

/-- R153: the pattern of a fade at `e` milliseconds. -/
def Applied.pattern (x : Applied) (e : Nat) : List Cell := List.zipWith (fadeCell e x.fade) x.froms x.tos

/-- R152: the next keyframe of a player, where it is due. -/
def Player.due (q : Player) : Option (Nat × Keyframe) :=
  match q.next, q.data with
  | some n, .present x => if x.time ≤ q.elapsed then some (n, x) else none
  | _, _ => none

/-- R152: a due keyframe is applied, and the fetch of the following one requested. -/
def State.applyKeyframe (k : PlayerNo) (q : Player) (n : Nat) (x : Keyframe) (s : State) : State :=
  let y := s.light.layers.get (playerLayer k)
  let more := n + 1 < (q.header.getD (0, false)).1
  let q := { q with
    applied := some ⟨n, x.time, x.fade, fadeFrom y x.cells.length, x.cells, false⟩
    next := if more then some (n + 1) else none, data := .absent, lastTime := some x.time }
  let s := s.setLayer (playerLayer k) { y with enabled := true }
  if more then s.cueFetch k q q.nextByte (q.nextByte + 390) else s.setPlayer k (some q)

/-- R153: the layer's pattern while the applied keyframe's fade is running. -/
def State.fadeStep (k : PlayerNo) (s : State) : State :=
  match s.light.players.get k with
  | none => s
  | some q =>
    match q.applied with
    | none => s
    | some x =>
      if x.done then s
      else
        let e := q.elapsed - x.time
        let y := s.light.layers.get (playerLayer k)
        (s.setLayer (playerLayer k) { y with cells := x.pattern e }).setPlayer k
          (some { q with applied := some { x with done := decide (x.fade ≤ e) } })

/-- Whether the last keyframe's fade is complete (R154). -/
def Player.atEnd (q : Player) : Bool :=
  match q.header, q.applied with
  | some (n, _), some x => x.done && x.number + 1 == n
  | _, _ => false

/-- R153, R154: the end of a frame step; `was` says that the cue's last fade was complete before the step. -/
def State.endStep (k : PlayerNo) (was : Bool) (s : State) : State :=
  match s.light.players.get k with
  | none => s
  | some q =>
    if q.atEnd ∧ !was then
      if (q.header.getD (0, false)).2 then
        s.cueFetch k { q with elapsed := 0, next := some 0, data := .absent, nextByte := 2, lastTime := none } 2 392
      else (s.playerStop k).post .cueEnded k.val q.bind.clip 0
    else s.setPlayer k (some { q with elapsed := q.elapsed + 20 })

/-- R149 to R154: the frame step of a player. -/
def State.playerStep (k : PlayerNo) (s : State) : State :=
  match s.light.players.get k with
  | none => s
  | some q =>
    let s := match q.due with
      | some (n, x) => s.applyKeyframe k q n x
      | none => s
    (s.fadeStep k).endStep k (q.due.isNone && q.atEnd)

/-! ## What a fetch read (R150, R151, R193) -/

/-- The byte of a clip among the lines delivered; none where its word is marked or its line was not fetched. -/
def clipByte (got : List CueLine) (o : Nat) : Option Byte :=
  ((got.find? fun l => l.clipLine == o / 64).bind fun l => (l.words.getD (o % 64 / 8) none).bind fun w => w[o % 8]?)

/-- `n` bytes of a clip from offset `o`. -/
def clipBytes (got : List CueLine) (o n : Nat) : Option (List Byte) :=
  (List.range n).mapM fun i => clipByte got (o + i)

/-- R150, R193: the header, as the keyframe count and the loop flag. -/
def readHeader (len : Nat) (got : List CueLine) : Option (Nat × Bool) :=
  if len < 2 then none
  else
    match clipBytes got 0 2 with
    | some [n, l] => if 1 ≤ n.toNat ∧ n.toNat ≤ 64 then some (n.toNat, l != 0) else none
    | _ => none

/-- The cells of a keyframe; none where one does not decode. -/
def readCells : List Byte → Option (List Cell)
  | [] => some []
  | f :: r :: g :: b :: rest =>
    (if f = 0 then some (some ⟨r.toNat, g.toNat, b.toNat⟩) else if f = 1 then some none else none).bind
      fun (c : Cell) => (readCells rest).map fun cs => c :: cs
  | _ => none

/-- R150, R193: the keyframe that begins at clip byte `o`, the previous one of the pass having time `prev`. -/
def readKeyframe (len : Nat) (got : List CueLine) (o : Nat) (prev : Option Nat) : Option Keyframe :=
  if len < o + 7 then none
  else
    match clipBytes got o 7 with
    | some [t0, t1, t2, t3, f0, f1, n] =>
      let t := natLE [t0, t1, t2, t3]
      let f := natLE [f0, f1]
      let later := match prev with
        | some p => decide (p < t)
        | none => true
      if t ≤ 3600000 ∧ later = true ∧ f ≤ 10000 ∧ 1 ≤ n.toNat ∧ n.toNat ≤ 96 ∧ o + 7 + 4 * n.toNat ≤ len then
        ((clipBytes got (o + 7) (4 * n.toNat)).bind readCells).map fun cs => ⟨t, f, cs⟩
      else none
    | _ => none

end Sys2Proof.Machine
end

