-- ==== Sys2Proof/Machine/Seat.lean ====
section
/-! DEFINITION. The Seat Link's operations (06_seat_link_and_headset_programmes.md, R119 to R132). -/

namespace Sys2Proof.Machine

/-- R127: the number of seats in ACTIVE whose selection is `p`. -/
def SeatLink.count127 (k : SeatLink) (p : Prog) : Nat :=
  (k.seats.list.filter fun x => x.state == .active && x.selection == p.val).length

/-- A holdoff start set or removed. -/
def State.setHold (p : Prog) (t : Option Count32) (s : State) : State :=
  s.onSeat fun k => { k with hold := k.hold.set p t }

/-- A decision set, with no event. -/
def State.setAct (p : Prog) (a : Option Activity) (s : State) : State :=
  s.onSeat fun k => { k with act := k.act.set p a }

/-- R128: a decision changes, and PROGRAMME-ACTIVITY is posted. -/
def State.decide128 (p : Prog) (a : Activity) (s : State) : State :=
  (s.setAct p (some a)).post .programmeActivity p.val (activityCode a) (s.seat.occ.get p)

/-- R128: a holdoff expires. -/
def State.expireHold (p : Prog) (s : State) : State := (s.setHold p none).decide128 p .dormant

/-- R128: whether a programme's running holdoff is due. -/
def State.holdDue (s : State) (p : Prog) : Bool :=
  match s.seat.hold.get p with
  | some t => decide (s.seat.holdoff ≤ s.since t)
  | none => false

/-- R128: a holdoff starts; with a holdoff of 0 it expires in the same event. -/
def State.startHold (p : Prog) (s : State) : State :=
  let s := s.setHold p (some s.ctl.time)
  if s.seat.holdoff = 0 then s.expireHold p else s

/-- R127, R128: one programme's occupancy counted afresh, and what follows for its holdoff and decision. -/
def State.recountOne (s : State) (p : Prog) : State :=
  let old := s.seat.occ.get p
  let new := s.seat.count127 p
  let s := s.onSeat fun k => { k with occ := k.occ.set p new }
  if !s.progOn p then s
  else if 0 < old ∧ new = 0 then s.startHold p
  else if old = 0 ∧ 0 < new then
    let s := s.setHold p none
    if s.seat.act.get p = some .dormant then s.decide128 p .awake else s
  else s

/-- R127: occupancies are counted afresh. -/
def State.recount (s : State) : State := langProgs.foldl State.recountOne s

/-- R120: every running holdoff that is due expires, in ascending programme order (log 13). -/
def State.expireDue (s : State) : State :=
  langProgs.foldl (fun s p => if s.holdDue p then s.expireHold p else s) s

/-- R129: a programme is switched ON. -/
def State.seatProgOn (p : Prog) (s : State) : State :=
  let s := s.setAct p (some .awake)
  if s.seat.occ.get p = 0 then s.startHold p else s.setHold p none

/-- R129: a programme is switched OFF. -/
def State.seatProgOff (p : Prog) (s : State) : State := (s.setAct p none).setHold p none

/-- A seat record set, its last-change field following a change of state or selection (R119). -/
def State.setSeat (i : SeatNo) (x : Seat) (s : State) : State :=
  let old := s.seat.seats.get i
  let x := if x.state = old.state ∧ x.selection = old.selection then { x with lastChange := old.lastChange }
    else { x with lastChange := s.ctl.time }
  s.onSeat fun k => { k with seats := k.seats.set i x }

/-- R126: every configured seat is OFFLINE. -/
def SeatLink.broken (k : SeatLink) : Bool :=
  (indices 80).all fun i => decide (k.count ≤ i.val) || (k.seats.get i).state == .offline

/-- R121: a poll in progress has its outcome discarded. -/
def SeatLink.killPoll (k : SeatLink) : SeatLink := { k with poll := k.poll.map fun x => { x with dead := true } }

/-- R132: the Seat Link on entry to STANDBY. -/
def State.seatStandby (s : State) : State :=
  (s.onSeat fun k => { k.killPoll with
    seats := Tab.map (fun (x : Seat) =>
      if x.state = .disabled then x
      else { x with state := .unknown, misses := 0, nodeFault := false, lastChange := s.ctl.time }) k.seats }).recount

/-- R121, R132: polling restarts from seat 0. -/
def State.seatRestartPolling (s : State) : State := s.onSeat fun k => { k with pointer := 0 }

end Sys2Proof.Machine
end

