-- ==== Sys2Proof/Machine/Control.lean ====
section
/-! DEFINITION. Operating Control: the changes of the operating state between RUN, PARK-PENDING and STANDBY, and what the blocks do in
the event that changes it (R185 to R187). -/

namespace Sys2Proof.Machine

/-- R185: a change of the operating state, with its STATE-CHANGED. -/
def State.changeOp (new : OpState) (cause : StateCause) (s : State) : State :=
  (s.onCtl fun c => { c with op := new }).post .stateChanged (opStateCode new) (opStateCode s.ctl.op) (causeCode cause)

/-- The park hold set. -/
def State.setParkHold (h : Option ParkHold) (s : State) : State := s.onCtl fun c => { c with hold := h }

/-- R91: the Announcement Controller is quiet. -/
def Announcer.quiet (a : Announcer) : Bool :=
  a.current.isNone && a.queue.isEmpty && a.live.driver.isNone && a.live.guide.isNone

/-- R187: entry to STANDBY, the blocks' actions after its STATE-CHANGED. -/
def State.enterStandby (s : State) : State :=
  ((((s.changeOp .standby .quiet).emptyQueues).releaseBeds).seatStandby).stopPlayers

/-- R91, R187: the controller's report that it is quiet. -/
def State.quietCheck (s : State) : State :=
  if s.ctl.op = .parkPending ∧ s.ann.quiet = true then s.enterStandby else s

/-- R186, R187: PARK-PENDING is entered, and STANDBY at once if the controller is quiet. -/
def State.enterPark (h : ParkHold) (cause : StateCause) (s : State) : State :=
  ((s.changeOp .parkPending cause).setParkHold (some h)).quietCheck

/-- R186, R187: PARK-PENDING or STANDBY is left for RUN. -/
def State.leavePark (cause : StateCause) (s : State) : State :=
  let t := (s.changeOp .run cause).setParkHold none
  if s.ctl.op = .standby then t.seatRestartPolling else t

end Sys2Proof.Machine
end

