-- ==== Sys2Proof/Machine/Announce.lean ====
section
/-! DEFINITION. The Announcement Controller's operations (04_stop_announcements_and_live_speech.md, R77 to R91). -/

namespace Sys2Proof.Machine

/-! ## Numbers and drops (R77, R82) -/

/-- The stop index an event carries: 64 for CAB and SAFETY. -/
def AnnItem.stopIndex (x : AnnItem) : Nat := stopNum x.stop

/-- The numbers in use. -/
def Announcer.used (a : Announcer) : List Nat :=
  a.queue.map (·.number) ++ (match a.current with
    | some c => [c.item.number]
    | none => [])

/-- R77: the counter's value after `n`, passing over the numbers in use; `fuel` bounds how many. -/
def nextFree (used : List Nat) : Nat → Nat → Nat
  | 0, n => if n = 65535 then 1 else n + 1
  | fuel + 1, n =>
    let m := if n = 65535 then 1 else n + 1
    if m ∈ used then nextFree used fuel m else m

/-- R77: an item that arrives takes the counter's value, and the counter advances. -/
def State.takeNumber (s : State) : State × Nat :=
  let n := s.ann.nextNumber
  (s.onAnn fun a => { a with nextNumber := nextFree a.used 10 n }, n)

/-- The announcement queue set. -/
def State.setAnnQueue (q : List AnnItem) (s : State) : State := s.onAnn fun a => { a with queue := q }

/-- R82: ANNOUNCE-DROPPED for an item. -/
def State.postDropped (r : DropReason) (s : State) (x : AnnItem) : State :=
  s.post .announceDropped x.number x.stopIndex (dropCode r)

/-- R82: the waiting items that pass a test are removed, head first, which R81 gives for stale items and the model takes for every cause
(log 13). -/
def State.dropItems (f : AnnItem → Bool) (r : DropReason) (s : State) : State :=
  (s.ann.queue.filter f).foldl (State.postDropped r) (s.setAnnQueue (s.ann.queue.filter fun x => !f x))

/-! ## The current announcement's record (R84) -/

/-- What a programme without clips holds: it counts as finished. -/
def AnnVoice.empty : AnnVoice where
  chime     := none
  speech    := []
  chimeId   := 0
  speechIds := []
  finished  := true
  stopping  := false

/-- The current announcement's record changed. -/
def State.onCurrent (f : Current → Current) (s : State) : State :=
  s.onAnn fun a => { a with current := a.current.map f }

/-- What the current announcement holds for one programme, changed. -/
def State.onAnnVoice (p : Prog) (f : AnnVoice → AnnVoice) (s : State) : State :=
  s.onCurrent fun c => { c with voices := c.voices.modify p f }

/-- A lookup for an announcement voice (R84). -/
def State.findClip (clip : Nat) (s : State) : State × Option Binding :=
  let (st, a) := s.store.lookup clip audioKind
  (s.onStore fun _ => st, match a with
    | .found b => some b
    | .absent _ => none)

/-- R84 step 1, for one programme. -/
def findChime (chime : Option Nat) (x : State × Tab AnnVoice 13) (p : Prog) : State × Tab AnnVoice 13 :=
  match chime with
  | none => x
  | some c =>
    if x.1.progOn p then
      let (s, b) := x.1.findClip c
      (s, x.2.modify p fun v => { v with chime := b, chimeId := clipNum (b.map (·.clip)), finished := b.isNone })
    else x

/-- R84 step 2: the speech clip of a language, or else the default. -/
def State.findSpeech (item : AnnItem) (lang : Nat) (s : State) : State × Option Binding :=
  let (s, b) := match item.langs.find? fun x => x.1 == lang with
    | some x => s.findClip x.2
    | none => (s, none)
  match b, item.dflt with
  | none, some d => s.findClip d
  | _, _ => (s, b)

/-- R84 step 2, for one programme. -/
def findSpeechFor (item : AnnItem) (x : State × Tab AnnVoice 13) (p : Prog) : State × Tab AnnVoice 13 :=
  if x.1.progOn p then
    let (s, b) := x.1.findSpeech item (x.1.mix.progs.get p).lang
    (s, x.2.modify p fun v => { v with speech := b.toList, speechIds := b.toList.map (·.clip) })
  else x

/-- R84 step 3, for one clip of the PA list. -/
def findPa (x : State × Tab AnnVoice 13) (clip : Nat) : State × Tab AnnVoice 13 :=
  let (s, b) := x.1.findClip clip
  (s, x.2.modify 0 fun v => { v with speech := v.speech ++ b.toList, speechIds := v.speechIds ++ b.toList.map (·.clip) })

/-- R84: every clip the announcement will play. -/
def State.chooseClips (item : AnnItem) (s : State) : State × Tab AnnVoice 13 :=
  item.pa.foldl findPa (langProgs.foldl (findSpeechFor item)
    (allProgs.foldl (findChime item.chime) (s, Tab.fill 13 AnnVoice.empty)))

/-! ## Ducker, voices and phases (R85 to R88) -/

/-- R85: the ANNOUNCE ducker set; a change of it clears every settled mark. -/
def State.setDucker (b : Bool) (s : State) : State :=
  if s.ann.ducker = b then s
  else s.onAnn fun a => { a with ducker := b, settled := Tab.fill 13 false, fresh := Tab.fill 13 false }

/-- The announcement window (R69). -/
def State.setWindow (b : Bool) (s : State) : State := s.onCom fun c => { c with window := b }

/-- A clip bound to a programme's ANNOUNCE voice, to start at its next block start. -/
def State.bindAnn (s : State) (p : Prog) (b : Option Binding) : State :=
  match b with
  | some b => s.onVoice p .announce (VoiceState.bindTo b false)
  | none => s

/-- R85: LEAD-IN of the current announcement begins. -/
def State.leadIn (item : AnnItem) (voices : Tab AnnVoice 13) (s : State) : State :=
  let s := s.setDucker true
  let s := allProgs.foldl (fun s p => s.bindAnn p (voices.get p).chime) s
  (s.cueRequest 2 item.cue).setWindow true

/-- R83: an item becomes current, ANNOUNCE-STARTED is posted, its clips are looked up and LEAD-IN begins. -/
def State.startCurrent (item : AnnItem) (s : State) : State :=
  let s := s.post .announceStarted item.number (annKindCode item.kind) item.stopIndex
  let (s, voices) := s.chooseClips item
  let s := s.onAnn fun a => { a with
    current := some ⟨item, .leadIn, voices, 0, .complete, Tab.fill 13 false⟩, joined := Tab.fill 13 true }
  s.leadIn item voices

/-- R83, but for "no announcement is current": whether a head may start. -/
def State.headMayStart (s : State) (x : AnnItem) : Bool :=
  s.ann.live.driver.isNone &&
    match s.ctl.op with
    | .run | .parkPending => true
    | .fallback => x.kind == .safety
    | .standby => false

/-- R83: the test, and the start. -/
def State.tryStart (s : State) : State :=
  match s.ann.current, s.ann.queue with
  | none, x :: rest => if s.headMayStart x then (s.setAnnQueue rest).startCurrent x else s
  | _, _ => s

/-- The uses that the announcement holds for one programme are released, and its ANNOUNCE voice unbound. The chime's
use goes first, then the others in list order (log 13). The clip IDs that ANNOUNCE-READ names and the finished mark stay (log 26). -/
def State.releaseAnn (s : State) (p : Prog) : State :=
  match s.ann.current with
  | none => s
  | some c =>
    let v := c.voices.get p
    let s := (v.chime.toList ++ v.speech).foldl (fun s b => s.onStore fun st => st.release b.entry) s
    (s.onVoice p .announce VoiceState.unbind).onAnnVoice p fun v => { v with chime := none, speech := [], stopping := false }

/-- R88: the announcement is closed, but for the window's report; `tail` says whether it is made. -/
def State.closeCurrent (tail : Bool) (s : State) : State :=
  match s.ann.current with
  | none => s
  | some c =>
    let s := (allProgs.foldl State.releaseAnn s).endStopCue
    let s := s.post .announceFinished c.item.number (annKindCode c.item.kind) (annEndCode c.ending)
    let s := if tail then s.setWindow false else s
    s.onAnn fun a => { a with current := none }

/-- R88: TAIL begins. -/
def State.tailStart (s : State) : State := (s.onCurrent fun c => { c with phase := .tail }).setDucker false

/-- R87: SPEAKING ends: the announcement chains, or enters TAIL. -/
def State.speakingEnd (s : State) : State :=
  match s.ann.queue with
  | x :: rest => if s.headMayStart x then ((s.closeCurrent false).setAnnQueue rest).startCurrent x else s.tailStart
  | [] => s.tailStart

/-- R85, R86: whether every programme that is ON counts as finished. -/
def State.allFinished (s : State) (c : Current) : Bool := allProgs.all fun p => !s.progOn p || (c.voices.get p).finished

/-- R85, R88, R89: whether every programme that is ON and takes part in the settled test has its settled mark set. -/
def State.allSettled (s : State) : Bool :=
  allProgs.all fun p => !s.progOn p || !s.ann.joined.get p || s.ann.settled.get p

/-- R85: whether LEAD-IN's condition holds (log 12). -/
def State.leadInOver (s : State) (c : Current) : Bool :=
  s.allFinished c && s.allSettled && allProgs.all fun p => !s.progOn p || !s.ann.joined.get p || c.reported.get p

/-- R88: whether TAIL's condition holds. -/
def State.tailOver (s : State) : Bool :=
  s.allSettled && allProgs.all fun p => !s.progOn p || (s.voice p .announce).bind.isNone

/-- R86: SPEAKING begins; with nothing to say it ends at once. -/
def State.speakingStart (s : State) : State :=
  match s.ann.current with
  | none => s
  | some c =>
    let c := { c with phase := .speaking, voices := Tab.map (fun (v : AnnVoice) => { v with finished := v.speech.isEmpty }) c.voices }
    let s := s.onAnn fun a => { a with current := some c }
    let s := allProgs.foldl (fun s p => s.bindAnn p (c.voices.get p).speech.head?) s
    if s.allFinished c then s.speakingEnd else s

/-- R88: a TAIL end, after which R83 is tested at once. -/
def State.tailEnd (s : State) : State := ((s.closeCurrent true).tryStart).quietCheck

/-- R85, R86, R88: after a report the phase under way may end. -/
def State.phaseTest (s : State) : State :=
  match s.ann.current with
  | none => s
  | some c =>
    match c.phase with
    | .leadIn => if s.leadInOver c then s.speakingStart else s
    | .speaking => if s.allFinished c then s.speakingEnd else s
    | .tail => if s.tailOver then s.tailEnd else s

/-! ## Reports of the mixer (R85, R86, R112) -/

/-- A programme has made a block-end report in this phase (log 12). -/
def State.markReported (p : Prog) (s : State) : State :=
  (s.onAnn fun a => { a with joined := a.joined.set p true }).onCurrent fun c => { c with reported := c.reported.set p true }

/-- R85: the settled report of a programme. -/
def State.annReport (p : Prog) (settled : Bool) (s : State) : State :=
  let s := s.onAnn fun a => if a.fresh.get p then { a with settled := a.settled.set p settled } else a
  (s.markReported p).phaseTest

/-- R85, R86, R90: the end of the clip that a programme's ANNOUNCE voice played. -/
def State.annClipEnd (p : Prog) (s : State) : State :=
  match s.ann.current with
  | none => s
  | some c =>
    let v := c.voices.get p
    let s := s.onVoice p .announce VoiceState.unbind
    let s := match v.chime, v.speech with
      | some b, _ => (s.onStore fun st => st.release b.entry).onAnnVoice p fun v => { v with chime := none, finished := true }
      | none, b :: rest =>
        let s := (s.onStore fun st => st.release b.entry).onAnnVoice p fun v => { v with speech := rest, finished := rest.isEmpty }
        match c.phase, rest with
        | .speaking, b :: _ => (s.bindAnn p (some b)).onCurrent fun c => { c with paPos := c.paPos + 1 }
        | _, _ => s
      | none, [] => s
    (s.markReported p).phaseTest

/-- R90: at a programme's block start a stopped ANNOUNCE voice's uses are released. -/
def State.stopAtBlock (p : Prog) (s : State) : State :=
  match s.ann.current with
  | none => s
  | some c => if (c.voices.get p).stopping then s.releaseAnn p else s

/-! ## Arrivals, cancels and other causes -/

/-- R78, R80, R82, R91: a stop item handed on. In FALLBACK with 8 items waiting it is dropped with STATE, not FULL (log 27). -/
def State.stopItemArrives (mk : Nat → AnnItem) (s : State) : State :=
  let (s, n) := s.takeNumber
  let x := mk n
  if s.ctl.op = .standby ∨ s.ctl.op = .fallback then s.postDropped .state x
  else if Config.announceDepth ≤ s.ann.queue.length then s.postDropped .full x
  else (s.setAnnQueue (s.ann.queue ++ [x])).tryStart

/-- R78: where a CAB or SAFETY item joins. -/
def joinQueue (x : AnnItem) (q : List AnnItem) : List AnnItem :=
  if x.kind = .safety then
    q.takeWhile (fun y => y.kind == .safety) ++ x :: q.dropWhile (fun y => y.kind == .safety)
  else q ++ [x]

/-- R80: the newest waiting item that is not SAFETY, which stands at the tail. -/
def newestOther (q : List AnnItem) : Option AnnItem := q.getLast?.filter fun y => y.kind != .safety

/-- R80: whether an ANNOUNCE of a kind finds no place in the queue. -/
def State.annFull (s : State) (k : AnnKind) : Bool :=
  decide (Config.announceDepth ≤ s.ann.queue.length) && !(k == .safety && (newestOther s.ann.queue).isSome)

/-- R79, R80: an accepted CAB or SAFETY item enters the queue. -/
def State.enterAnnounce (x : AnnItem) (s : State) : State :=
  let s := if s.ann.queue.length < Config.announceDepth then s
    else match newestOther s.ann.queue with
      | some y => (s.setAnnQueue s.ann.queue.dropLast).postDropped .displaced y
      | none => s
  (s.setAnnQueue (joinQueue x s.ann.queue)).tryStart

/-- Whether an item is an APPROACH or ARRIVAL item. -/
def AnnItem.isStop (x : AnnItem) : Bool := x.kind == .approach || x.kind == .arrival

/-- R81: whether a waiting item is stale at a distance. -/
def AnnItem.stale (d : Nat) (x : AnnItem) : Bool :=
  match x.kind with
  | .approach => decide (x.b.getD 0 ≤ d)
  | .arrival => decide (x.b.getD 0 + 150 < d)
  | _ => false

/-- R81: the stale test at a new cursor distance. -/
def State.staleTest (d : Nat) (s : State) : State := (s.dropItems (AnnItem.stale d) .stale).quietCheck

/-- R82: JUMP and ROUTE-CLEAR remove every stop item. -/
def State.dropStops (s : State) : State := (s.dropItems AnnItem.isStop .route).quietCheck

/-- R82: STOP-SKIP and STOP-REMOVE remove the stop's items. -/
def State.dropStop (i : StopNo) (s : State) : State :=
  (s.dropItems (fun x => x.stop == some i) .route).quietCheck

/-- R90, R91: a current announcement in LEAD-IN or SPEAKING is cut short and goes to TAIL. -/
def State.cutShort (e : AnnEnd) (s : State) : State :=
  match s.ann.current with
  | none => s
  | some c =>
    if c.phase = .tail then s
    else ((s.onCurrent fun c => { c with
      ending := e, voices := Tab.map (fun (v : AnnVoice) => { v with stopping := true }) c.voices })).tailStart

/-- R91: the Announcement Controller on entry to FALLBACK. -/
def State.annFallback (s : State) : State :=
  let s := s.dropItems (fun x => x.kind != .safety) .state
  match s.ann.current with
  | none => s
  | some c => if c.item.kind = .safety then s else s.cutShort .cut

/-- R89: a programme is switched OFF. -/
def State.annProgOff (p : Prog) (s : State) : State :=
  (((s.releaseAnn p).onAnnVoice p fun _ => AnnVoice.empty).onVoice p .announce VoiceState.unbind).phaseTest

/-- R89: a programme is switched ON. -/
def State.annProgOn (p : Prog) (s : State) : State :=
  (s.onAnn fun a => { a with joined := a.joined.set p false, settled := a.settled.set p false }).onAnnVoice p
    fun _ => AnnVoice.empty

/-! ## Live channels (R93, R94, R96) -/

/-- A live channel turns OFF, and its lost-input mark is cleared; what follows R83. -/
def State.liveTurnsOff (c : Channel) (s : State) : State :=
  s.onAnn fun a => { a with live := a.live.set c none, lost := a.lost.set c false }

/-- R93, R94: what follows a live channel's turning OFF: R83 is tested for DRIVER, and the quiet report made. -/
def State.afterLive (c : Channel) (s : State) : State :=
  (if c = .driver then s.tryStart else s).quietCheck

end Sys2Proof.Machine
end

