-- ==== Sys2Proof/Machine/Faults.lean ====
section
/-! DEFINITION. The Fault Recorder: filing and capture (R168, R169), reporting (R170), critical-pending (R171), the entry to FALLBACK
(R172), and the filing of the parity failures that an event met (R28, log 7). -/

namespace Sys2Proof.Machine

/-- R172: Operating Control enters FALLBACK; a request taken in FALLBACK changes nothing. -/
def State.enterFallback (s : State) : State :=
  if s.ctl.op = .fallback then s
  else
    let t := (((s.changeOp .fallback .fault).setParkHold none).emptyQueues.annFallback).releaseBeds
    (if s.ctl.op = .standby then t.seatRestartPolling else t).stopPlayers

/-- R169: whether a fault filed over a record is captured. -/
def captures (old : Option FaultRecord) (uncorrected enabled : Bool) : Bool :=
  match old with
  | none => true
  | some o => !o.uncorrected && (uncorrected || (!o.enabled && enabled))

/-- R169: the record after a filing; its overrun is set in every case where the old record was captured. -/
def FaultBank.file (b : FaultBank) (k : FaultKind) (enabled : Bool) (d1 d2 : Nat) (stamp : Count32) : FaultBank :=
  if captures b.record (faultUncorrected k) enabled then
    { b with record := some ⟨b.record.isSome, faultUncorrected k, enabled, faultCritical k, k, d1, d2, stamp⟩ }
  else { b with record := b.record.map fun o => { o with overrun := true } }

/-- Whether a kind is enabled in its bank's mask (R175). -/
def FaultBank.enabled (b : FaultBank) (k : FaultKind) : Bool := b.mask.getLsbD (faultNumber k)

/-- R171: an enabled critical filing and the critical-pending flag. -/
def State.critical (k : FaultKind) (d1 : Nat) (s : State) : State :=
  if s.faults.pending then s.enterFallback
  else (s.onFaults fun f => { f with pending := true }).post .faultCritical (bankIndex (faultBank k)).val (faultNumber k) d1

/-- R168: a filing. -/
def State.fileFault (k : FaultKind) (d1 d2 : Nat) (s : State) : State :=
  let i := bankIndex (faultBank k)
  let b := s.faults.banks.get i
  let en := b.enabled k
  let got := captures b.record (faultUncorrected k) en
  let s := s.onFaults fun f => { f with banks := f.banks.set i (b.file k en d1 d2 s.ctl.time) }
  let s := if en then s.post .fault i.val (faultNumber k) (flagCode got) else s
  if en && faultCritical k then s.critical k d1 else s

/-- R28: the filing of one failed parity check. -/
def State.fileParity (s : State) : ParityPlace → State
  | .link p => s.fileFault .linkParity p.val 0
  | .map e => s.fileFault .mapParity e.val 0

/-- The parity failures noted so far are filed, in the order in which they were met. -/
def State.fileNoted (s : State) : State :=
  s.store.noted.foldl State.fileParity (s.onStore fun st => { st with noted := [] })

/-- R28, log 7: at the end of an event its parity failures are filed. An entry to FALLBACK among the filings may meet more, which are
filed in a second round; the hub is then in FALLBACK, and no filing meets any. -/
def State.settleParity (s : State) : State := s.fileNoted.fileNoted

end Sys2Proof.Machine
end

