-- ==== Sys2Proof/Machine/Crossing.lean ====
section
/-! DEFINITION. The Route Unit's moves and hand-offs: stop points and stop requests (R42 to R46), segment triggers (R51) and the taking
of the hand-off by the Commentary Player (R59 to R62), first fix, step backward and forward move (R33 to R35), JUMP and ROUTE-CLEAR. -/

namespace Sys2Proof.Machine

/-! ## Stops (R42 to R46) -/

/-- R45: an announcement item built from a stop record. -/
def Stop.item (x : Stop) (i : StopNo) (k : AnnKind) (number : Nat) : AnnItem where
  number := number
  kind   := k
  stop   := some i
  b      := some x.b
  langs  := x.langs
  dflt   := x.dflt
  pa     := x.pa
  chime  := x.chime
  cue    := x.cue
  origin := none

/-- STOP-STATE. -/
def State.postStop (i : StopNo) (x : StopState) (d : Nat) (s : State) : State :=
  s.post .stopState i.val (stopStateCode x) d

/-- R42, R46: a stop becomes APPROACHING, its APPROACH item is handed on and STOP-STATE posted. -/
def State.approach (i : StopNo) (x : Stop) (d : Nat) (s : State) : State :=
  let x := { x with state := .approaching }
  (((s.setStop i (some x)).recomputeNext).stopItemArrives (x.item i .approach)).postStop i .approaching d

/-- R42: a stop's approach point. -/
def State.approachPoint (i : StopNo) (d : Nat) (s : State) : State :=
  match s.route.stops.get i with
  | none => s
  | some x => if x.state = .ahead ∧ (!x.requestOnly || x.request) = true then s.approach i x d else s

/-- R43, R44: a stop's arrival point; `both` says that the approach point was gathered with it and left out. -/
def State.arrivalPoint (i : StopNo) (both : Bool) (d : Nat) (s : State) : State :=
  match s.route.stops.get i with
  | none => s
  | some x =>
    if x.state = .ahead ∨ x.state = .approaching then
      let called := x.state == .approaching || (both && !x.requestOnly) || x.request
      let x := { x with state := if called then .called else .passed, request := false }
      let s := s.setStop i (some x)
      let s := if called && x.arrivalCall then s.stopItemArrives (x.item i .arrival) else s
      (s.postStop i x.state d).recomputeNext
    else s

/-- R46: a stop request, from a port (source 0) or a seat (source 1), on the next stop; the answer is the stop it was applied to. -/
def State.requestStop (source : Nat) (who : Nat) (s : State) : State × Option StopNo :=
  match s.route.cursor.nextStop with
  | none => (s, none)
  | some i =>
    match s.route.stops.get i with
    | none => (s, none)
    | some x =>
      if x.request then (s, some i)
      else
        let x := { x with request := true }
        let s := (s.setStop i (some x)).post .stopRequested i.val source who
        let c := s.route.cursor
        if x.state = .ahead ∧ c.set = true ∧ x.a ≤ c.distance ∧ c.distance < x.b then (s.approach i x c.distance, some i)
        else (s, some i)

/-! ## Segments: the hand-off (R51, R59 to R62) -/

/-- What has come of a hand-off so far: the state, the number of items that joined, and the lowest programme found ABSENT. -/
structure HandOff where
  state  : State
  joined : Nat
  absent : Option Prog

/-- R59, R60: a hand-off at one programme. -/
def handOne (i : SegNo) (x : Segment) (h : HandOff) (p : Prog) : HandOff :=
  let s := h.state
  let gone : HandOff := { h with absent := h.absent.orElse fun _ => some p }
  if !s.progOn p then h
  else
    match x.langs.find? fun y => y.1 == (s.mix.progs.get p).lang with
    | none => gone
    | some y =>
      let (st, a) := s.store.lookup y.2 audioKind
      let s := s.onStore fun _ => st
      match a with
      | .absent _ => { gone with state := s }
      | .found b =>
        let (s, joins) := s.placeItem p ⟨i, b, x.t, x.late, x.priority, x.hold, false, false, 0, false⟩
        { h with state := s, joined := h.joined + if joins then 1 else 0 }

/-- R59 to R62, R73: the Commentary Player takes a hand-off, and answers the number of items that joined. TRIGGER-ABSENT is filed before
the answer takes its effect (log 13). -/
def State.takeHandOff (i : SegNo) (x : Segment) (s : State) : State × Nat :=
  let h : HandOff := if s.engineMode = 0 then langProgs.foldl (handOne i x) ⟨s, 0, none⟩ else ⟨s, 0, none⟩
  let s := h.state.onCom fun c => { c with marks := c.marks.set i false }
  match h.absent with
  | some p => (s.fileFault .triggerAbsent i.val p.val, h.joined)
  | none => (s, h.joined)

/-- R51: a segment's trigger point, at the cursor's new distance. -/
def State.triggerPoint (i : SegNo) (d : Nat) (s : State) : State :=
  match s.route.segments.get i with
  | none => s
  | some x =>
    if x.state = .armed then
      if x.late < d - x.t then
        (s.setSegment i (some { x with state := .missed })).post .segmentMissed i.val x.t d
      else
        let x := { x with state := .triggered, outstanding := 0, played := 0 }
        let (s, n) := (s.setSegment i (some x)).takeHandOff i x
        (((s.setSegment i (some { x with outstanding := n })).settleSegment i)).cueRequest 1 x.cue
    else s

/-! ## POSITION (R32 to R35) -/

/-- A point that a forward move gathers (R35). -/
inductive Point where
  | approach (i : StopNo)
  | arrival (i : StopNo) (both : Bool)
  | trigger (i : SegNo)
deriving DecidableEq, Repr

/-- R35: a gathered point joins behind those at or below its distance. Stops are gathered first, then segments, by index, so points
that share a distance come out in the order R35 gives. -/
def insertPoint (d : Nat) (x : Point) : List (Nat × Point) → List (Nat × Point)
  | [] => [(d, x)]
  | y :: ys => if y.1 ≤ d then y :: insertPoint d x ys else (d, x) :: y :: ys

/-- Whether a move from `old` to `new` crosses `p`. -/
def crosses (old new p : Nat) : Bool := decide (old < p) && decide (p ≤ new)

/-- R35, R44: the points of one stop. -/
def gatherStop (r : Route) (old new : Nat) (l : List (Nat × Point)) (i : StopNo) : List (Nat × Point) :=
  match r.stops.get i with
  | none => l
  | some x =>
    let a := crosses old new x.a
    if crosses old new x.b then insertPoint x.b (.arrival i a) l
    else if a then insertPoint x.a (.approach i) l
    else l

/-- R35: the point of one segment. -/
def gatherSegment (r : Route) (old new : Nat) (l : List (Nat × Point)) (i : SegNo) : List (Nat × Point) :=
  match r.segments.get i with
  | none => l
  | some x => if crosses old new x.t then insertPoint x.t (.trigger i) l else l

/-- R35, R44: every point of a forward move, in the order of evaluation. -/
def Route.gather (r : Route) (old new : Nat) : List (Nat × Point) :=
  (indices 256).foldl (gatherSegment r old new) ((indices 64).foldl (gatherStop r old new) [])

/-- R35: the evaluation of one point; every measure uses the cursor's new distance. -/
def State.evalPoint (d : Nat) (s : State) (x : Nat × Point) : State :=
  match x.2 with
  | .approach i => s.approachPoint i d
  | .arrival i both => s.arrivalPoint i both d
  | .trigger i => s.triggerPoint i d

/-- R35: a forward move. -/
def State.forward (d : Nat) (s : State) : State :=
  let s := (s.route.gather s.route.cursor.distance d).foldl (State.evalPoint d) s
  let s := s.setCursor { s.route.cursor with distance := d }
  ((s.recomputeNext).lateTest d).staleTest d

/-- R33: a stop at a first fix. -/
def State.fixStop (d : Nat) (s : State) (i : StopNo) : State :=
  match s.route.stops.get i with
  | none => s
  | some x =>
    if x.state = .ahead ∧ x.b ≤ d then s.setStop i (some { x with state := .passed, request := false }) else s

/-- R33: a segment at a first fix. -/
def State.fixSegment (d : Nat) (s : State) (i : SegNo) : State :=
  match s.route.segments.get i with
  | none => s
  | some x => if x.state = .armed ∧ x.t ≤ d then s.setSegment i (some { x with state := .missed }) else s

/-- R33: a first fix. -/
def State.firstFix (d : Nat) (s : State) : State :=
  let s := s.setCursor { s.route.cursor with set := true, distance := d }
  ((indices 256).foldl (State.fixSegment d) ((indices 64).foldl (State.fixStop d) s)).recomputeNext

/-- R34: a step backward. -/
def State.stepBack (d : Nat) (s : State) : State :=
  let old := s.route.cursor.distance
  if 30 < old - d then s.fileFault .backstep old d else s

/-- R32: an accepted POSITION of port `p`, the speed as offered. -/
def State.position (p : Port) (d v : Nat) (s : State) : State :=
  let s := s.touch cursorRec
  let s := if Config.maxSpeed < v then s.fileFault .overspeed v 0 else s
  let s := s.setCursor { s.route.cursor with speed := min v Config.maxSpeed, lastMover := some p }
  if s.route.cursor.set then
    if d < s.route.cursor.distance then s.stepBack d else s.forward d
  else s.firstFix d

/-! ## JUMP and ROUTE-CLEAR (R36, R37) -/

/-- R36 step 4, for one stop. -/
def State.jumpStop (d : Nat) (s : State) (i : StopNo) : State :=
  match s.route.stops.get i with
  | none => s
  | some x =>
    if d < x.b then s.setStop i (some { x with state := .ahead, request := false })
    else if x.state = .ahead ∨ x.state = .approaching then s.setStop i (some { x with state := .passed })
    else s

/-- R36 step 5, for one segment. -/
def State.jumpSegment (d : Nat) (s : State) (i : SegNo) : State :=
  match s.route.segments.get i with
  | none => s
  | some x =>
    if x.state = .triggered then s
    else if d < x.t then s.setSegment i (some { x with state := .armed, outstanding := 0, played := 0 })
    else if x.state = .armed then s.setSegment i (some { x with state := .missed })
    else s

/-- R36: a JUMP of port `p`. -/
def State.jump (p : Port) (d : Nat) (s : State) : State :=
  let s := ((s.touch cursorRec).cancelWaiting d false).dropStops
  let s := s.setCursor { s.route.cursor with set := true, distance := d, lastMover := some p }
  ((indices 256).foldl (State.jumpSegment d) ((indices 64).foldl (State.jumpStop d) s)).recomputeNext

/-- R37: ROUTE-CLEAR. -/
def State.routeClear (s : State) : State :=
  let s := ((s.touch cursorRec).cancelWaiting 0 true).dropStops
  let s := (indices 64).foldl (fun s i => s.setStop i none) s
  let s := (indices 256).foldl (fun s i => s.setSegment i none) s
  s.setCursor Cursor.unset

end Sys2Proof.Machine
end

