-- ==== Sys2Proof/Machine/Mixer.lean ====
section
/-! DEFINITION. The Programme Mixer: duckers and targets (R95, R109), loudness (R104), source samples (R107, R108), the arithmetic
(R110), and what a block start and a deadline do (R106, R111 to R117). -/

namespace Sys2Proof.Machine

/-! ## Duckers and loudness -/

/-- The voices that play clips, in the order of R112 and R115. -/
def clipVoices : List Voice := [.commentary, .announce, .bed]

/-- R95: the channel that feeds a programme's LIVE voice. -/
def State.liveFeed (s : State) (p : Prog) : Option Channel :=
  if s.ann.live.driver.isSome then some .driver
  else if s.ann.live.guide.isSome && (p == 0 || (s.mix.progs.get p).guide) then some .guide
  else none

/-- R95, R109: the rows of the duckers active on a programme. -/
def State.duckRows (s : State) (p : Prog) : List DuckRow :=
  (if s.ann.ducker then [s.mix.duck.announce] else []) ++
    (match s.liveFeed p with
      | some .driver => [s.mix.duck.liveDriver]
      | some .guide => [s.mix.duck.liveGuide]
      | none => [])

/-- R109: a voice's duck target: the least target of the active duckers that lower its class, or 4096. -/
def duckTarget (rows : List DuckRow) (v : Voice) : Nat :=
  (rows.filterMap fun row => row.get v).foldl min 4096

/-- R109: the targets of the four voices. -/
def State.duckTargets (s : State) (p : Prog) : Quad Nat :=
  let t := duckTarget (s.duckRows p)
  ⟨t .commentary, t .announce, t .live, t .bed⟩

/-- R109: one step of a duck gain toward its target. -/
def stepDuck (r target d : Nat) : Nat :=
  if d ≤ target then (if target - d ≤ r then target else d + r)
  else if d - target ≤ r then target else d - r

/-- R104: the loudness factor of a group at a speed. -/
def LoudGroup.factor (g : LoudGroup) (v : Nat) : Nat := min g.lmax (4096 + g.k * (v - g.v0))

/-- R104: the loudness factor that a programme's block start takes; the speed is 0 while the cursor is UNSET. -/
def State.loudFactor (s : State) (p : Prog) : Nat :=
  (if p = 0 then s.mix.loud.pa else s.mix.loud.headset).factor (if s.route.cursor.set then s.route.cursor.speed else 0)

/-- R117: what the operating state lets a programme output. -/
def State.outMode (s : State) : OutMode :=
  match s.ctl.op with
  | .run | .parkPending => .full
  | .fallback => .annLive
  | .standby => .zero

/-! ## Source samples (R107, R108) -/

/-- R107: bytes of a clip that a block consumes. -/
def perBlock : ClipKind → Nat
  | .speech12 => 192
  | .audio48 => 768
  | .audio24 | .cue => 384

/-- A stored sample: 16 bits, low byte first, signed (R107). -/
def storedSample (lo hi : Byte) : Int := (BitVec.ofNat 16 (natLE [lo, hi])).toInt

/-- The stored sample at clip byte `o` in a delivered word. -/
def sampleAt (w : List Byte) (o : Nat) : Int := storedSample (w.getD (o % 8) 0) (w.getD (o % 8 + 1) 0)

/-- The delivered word that holds clip byte `o` of a voice; none where it is marked. -/
def wordOf (got : List GotLine) (v : Voice) (o : Nat) : Option (List Byte) :=
  (got.find? fun l => l.voice == v && l.clipLine == o / 64).bind fun l => l.words.getD (o % 64 / 8) none

/-- R107: the clip byte where output sample `i` of a block at position `pos` begins. -/
def sampleByte (k : ClipKind) (pos i : Nat) : Nat :=
  match k with
  | .speech12 => pos + 2 * (i / 2)
  | .audio48 => pos + 4 * i
  | .audio24 | .cue => pos + 2 * i

/-- R107: the output sample that begins at clip byte `o` in a good word. -/
def makeSample (k : ClipKind) (len : Nat) (w : List Byte) (o : Nat) : Int :=
  match k with
  | .audio48 => if o + 2 < len then (sampleAt w o + sampleAt w (o + 2)) / 2 else sampleAt w o
  | _ => sampleAt w o

/-- R107, R108: the source samples `i` to `i + n - 1` of a voice, and the held sample after them. -/
def clipSamples (got : List GotLine) (v : Voice) (x : BlockSource) : Nat → Nat → Int → List Int × Int
  | 0, _, held => ([], held)
  | n + 1, i, held =>
    let o := sampleByte x.bind.kind x.pos i
    let r := if x.bind.len ≤ o then (0, held)
      else match wordOf got v o with
        | some w => let y := makeSample x.bind.kind x.bind.len w o; (y, y)
        | none => (held, held)
    let rest := clipSamples got v x n (i + 1) r.2
    (r.1 :: rest.1, rest.2)

/-- A block of zero samples. -/
def zeroBlock : List Int := List.replicate Config.blockSamples 0

/-- The source samples of a voice, padded with 0 to a block. -/
def padBlock (l : List Int) : List Int := (List.range Config.blockSamples).map fun i => l.getD i 0

/-! ## The arithmetic (R110) -/

/-- R110 step 1: a voice's term. -/
def voiceTerm (x : Int) (g d : Nat) : Int := x * g * d / 16777216

/-- R110: an output sample's range. -/
def clampSample (x : Int) : Int := max (-32768) (min 32767 x)

/-- R109, R110: the duck gains stepped once. -/
def Block.stepDucks (b : Block) (d : Quad Nat) : Quad Nat :=
  ⟨stepDuck b.r b.target.commentary d.commentary, stepDuck b.r b.target.announce d.announce,
    stepDuck b.r b.target.live d.live, stepDuck b.r b.target.bed d.bed⟩

/-- R110 step 2: the sum of the four terms. -/
def Block.sum (b : Block) (x : Quad Int) (d : Quad Nat) : Int :=
  voiceTerm x.commentary b.gains.commentary d.commentary + voiceTerm x.announce b.gains.announce d.announce +
    voiceTerm x.live b.gains.live d.live + voiceTerm x.bed b.gains.bed d.bed

/-- R110 step 3, before the clamp. -/
def Block.raw (b : Block) (x : Quad Int) (d : Quad Nat) : Int := b.sum x d * b.master * b.loud / 16777216

/-- What computing samples gives: the output, the number of clamped samples, and the duck gains at the end. -/
structure Mixed where
  out     : List Int
  clamped : Nat
  ducks   : Quad Nat
deriving DecidableEq, Repr

/-- R109 to R111: the output samples of a block, one for each quadruple of source samples. -/
def Block.mix (b : Block) : List (Quad Int) → Quad Nat → Mixed
  | [], d => ⟨[], 0, d⟩
  | x :: xs, d =>
    let d := b.stepDucks d
    let y := b.raw x d
    let rest := b.mix xs d
    ⟨clampSample y :: rest.out, rest.clamped + (if clampSample y = y then 0 else 1), rest.ducks⟩

/-- Four rows of samples, side by side. -/
def zipSources : List Int → List Int → List Int → List Int → List (Quad Int)
  | a :: as, b :: bs, c :: cs, d :: ds => ⟨a, b, c, d⟩ :: zipSources as bs cs ds
  | _, _, _, _ => []

/-! ## Block start (R106, R114, R115) -/

/-- A block that is OFF: silent, with no fetch and no report. -/
def Block.silent : Block where
  on     := false
  awake  := false
  mode   := .zero
  src    := ⟨none, none, none, none⟩
  live   := []
  mirror := none
  gains  := ⟨0, 0, 0, 0⟩
  master := 0
  loud   := 0
  r      := 1
  target := ⟨4096, 4096, 4096, 4096⟩
  want   := []
  got    := []
  cut    := false

/-- Whether an output mode lets a clip voice sound (R117). -/
def OutMode.allows : OutMode → Voice → Bool
  | .full, _ => true
  | .annLive, .announce => true
  | _, _ => false

/-- R106, R107: what a voice plays in the block that starts now. -/
def State.blockSource (s : State) (p : Prog) (v : Voice) : Option BlockSource :=
  let x := s.voice p v
  match x.bind with
  | some b => if x.paused || !s.outMode.allows v then none else some ⟨b, x.pos⟩
  | none => none

/-- R115: the clip bytes that a voice consumes in a block, as first and last; none where there are none. -/
def BlockSource.span (x : BlockSource) : Option (Nat × Nat) :=
  let hi := min (x.pos + perBlock x.bind.kind) x.bind.len
  if x.pos < hi then some (x.pos, hi - 1) else none

/-- R115: the lines that one voice's part of the fetch names. -/
def Store.fetchLines (st : Store) (v : Voice) : Option BlockSource → List (Voice × LineReq)
  | none => []
  | some x => match x.span with
    | none => []
    | some (lo, hi) => (st.clipLines x.bind lo hi).map fun r => (v, r)

/-- R28: the link values read to reach those lines. -/
def Store.fetchReads (st : Store) : Option BlockSource → Store
  | none => st
  | some x => match x.span with
    | none => st
    | some (_, hi) => st.readTo x.bind hi

/-- A programme's block set. -/
def State.setBlock (p : Prog) (b : Option Block) (s : State) : State :=
  s.onMix fun m => { m with block := m.block.set p b }

/-- A programme's underrun streak set. -/
def State.setStreak (p : Prog) (n : Nat) (s : State) : State :=
  s.onMix fun m => { m with streak := m.streak.set p n }

/-- R106: whether a block fetches and sounds. -/
def Block.sounds (b : Block) : Bool := b.on && b.awake && b.mode != .zero

/-- R106: what the settled state fixes for a block, but for its mirror block and its fetch. -/
def State.newBlock (s : State) (p : Prog) : Block :=
  let x := s.mix.progs.get p
  { on := true, awake := s.awakeNow p, mode := s.outMode
    src := ⟨s.blockSource p .commentary, s.blockSource p .announce, none, s.blockSource p .bed⟩
    live := (match s.liveFeed p with
      | some c => (s.ann.frames.get c).getD []
      | none => [])
    mirror := none, gains := x.gains, master := x.master, loud := s.loudFactor p, r := s.mix.duck.r
    target := s.duckTargets p, want := [], got := [], cut := false }

/-- R114: programme 0 takes the head block of its mirror buffer. -/
def State.takeMirror (p : Prog) (b : Block) (s : State) : State × Block :=
  if p = 0 ∧ b.sounds = true ∧ (s.mix.progs.get 0).mirror ≠ 0 then
    (s.onMix fun m => { m with mirror := m.mirror.drop 1 }, { b with mirror := some (s.mix.mirror.headD []) })
  else (s, b)

/-- R115: the block's fetch is requested; a block with no line to fetch is complete at its request. Its lines stay to be fetched even where
a voice's use is given up within the block (log 28). -/
def State.requestFetch (p : Prog) (b : Block) (s : State) : State :=
  let want := if b.sounds then clipVoices.flatMap fun v => s.store.fetchLines v (b.src.get v) else []
  let s := if b.sounds then clipVoices.foldl (fun s v => s.onStore fun st => st.fetchReads (b.src.get v)) s else s
  let s := s.setBlock p (some { b with want := want })
  if want.isEmpty then s.setStreak p 0 else s

/-- The voices of a programme at a block start: a clip bound since the last one starts, and the duck targets are taken. -/
def State.startVoices (p : Prog) (s : State) : State :=
  let t := s.duckTargets p
  s.onMix fun m => { m with
    voices := m.voices.modify p fun q =>
      let f : Voice → VoiceState := fun v => { q.get v with started := (q.get v).bind.isSome, target := t.get v }
      ⟨f .commentary, f .announce, f .live, f .bed⟩ }

/-- R106: the block start of a programme that is ON. -/
def State.startOn (p : Prog) (s : State) : State :=
  let s := ((s.settleCommentary p).bedSettle p).startVoices p
  let s := s.onMix fun m => { m with awake := m.awake.set p (s.awakeNow p), leaving := m.leaving.set p false }
  let (s, b) := s.takeMirror p (s.newBlock p)
  s.requestFetch p b

/-- R106: the block start of a programme. -/
def State.startBlock (p : Prog) (s : State) : State :=
  let s := (s.stopAtBlock p).onAnn fun a => { a with fresh := a.fresh.set p true }
  if s.progOn p then s.startOn p else (s.setBlock p (some Block.silent)).setStreak p 0

/-! ## Deadline (R106 to R115) -/

/-- Whether the burst in progress delivers to a programme's fetch, and for which voice. -/
def Store.fetchInFlight (st : Store) (p : Prog) : Option Voice :=
  match st.burst with
  | some ⟨.fetch q v _ _, w⟩ => if w && q == p then some v else none
  | _ => none

/-- R115: the burst in progress for a programme's fetch has its data discarded. -/
def Store.dropFetch (st : Store) (p : Prog) : Store :=
  match st.burst with
  | some ⟨.fetch q v b r, w⟩ => { st with burst := some ⟨.fetch q v b r, w && q != p⟩ }
  | _ => st

/-- R115: the voices of a block that have a line not delivered. -/
def State.lostVoices (s : State) (p : Prog) (b : Block) : List Voice :=
  clipVoices.filter fun v => b.want.any (fun x => x.1 == v) || s.store.fetchInFlight p == some v

/-- R107, R108, R115: a clip voice's source samples in a block, and its held sample after them. -/
def Block.voiceSource (b : Block) (lost : List Voice) (v : Voice) (held : Int) : List Int × Int :=
  match b.src.get v with
  | none => (zeroBlock, held)
  | some x => if v ∈ lost then (zeroBlock, 0) else clipSamples b.got v x Config.blockSamples 0 held

/-- R107, R114: the COMMENTARY source: the mirror block, where programme 0 took one, and it is not stopped by FALLBACK (R117). -/
def Block.commentarySource (b : Block) (lost : List Voice) (held : Int) : List Int × Int :=
  match b.mirror with
  | some l => (if b.mode = .full then padBlock l else zeroBlock, held)
  | none => b.voiceSource lost .commentary held

/-- The sources and held samples of a block. -/
structure Sources where
  src  : Quad (List Int)
  held : Quad Int
deriving DecidableEq, Repr

/-- R107, R108, R116: the four voices' source samples, 0 in a block that does not sound; a DORMANT block's held samples become 0. -/
def Block.sources (b : Block) (lost : List Voice) (held : Quad Int) : Sources :=
  if b.sounds then
    let c := b.commentarySource lost held.commentary
    let a := b.voiceSource lost .announce held.announce
    let e := b.voiceSource lost .bed held.bed
    ⟨⟨c.1, a.1, padBlock b.live, e.1⟩, ⟨c.2, a.2, held.live, e.2⟩⟩
  else ⟨⟨zeroBlock, zeroBlock, zeroBlock, zeroBlock⟩, if b.on && !b.awake then ⟨0, 0, 0, 0⟩ else held⟩

/-- R107: a voice after its block: advanced, if it still plays what the block played. -/
def VoiceState.advance (x : VoiceState) (src : Option BlockSource) (d : Nat) (held : Int) : VoiceState :=
  match src with
  | none => { x with d := d, held := held }
  | some y =>
    if x.started && x.bind == some y.bind then
      { x with d := d, held := held, pos := min y.bind.len (y.pos + perBlock y.bind.kind) }
    else { x with d := d }

/-- R106, R108, R109: the voices of a programme after its block. -/
def State.advanceVoices (p : Prog) (b : Block) (ducks : Quad Nat) (held : Quad Int) (s : State) : State :=
  s.onMix fun m => { m with
    voices := m.voices.modify p fun q =>
      let f : Voice → VoiceState := fun v => (q.get v).advance (b.src.get v) (ducks.get v) (held.get v)
      ⟨f .commentary, f .announce, f .live, f .bed⟩ }

/-- R115: an incomplete fetch is abandoned, UNDERRUN filed, and at the sixteenth in a row UNDERRUN-STREAK. -/
def State.underrun (p : Prog) (s : State) : State :=
  let n := s.mix.streak.get p + 1
  let s := s.onStore fun st => st.dropFetch p
  if n < 16 then (s.setStreak p n).fileFault .underrun p.val n
  else ((s.setStreak p 0).fileFault .underrun p.val 0).fileFault .underrunStreak p.val 0

/-- R111: the clamped samples of a block are counted, and OVERLOAD filed from 48 on. -/
def State.countClamped (p : Prog) (n : Nat) (s : State) : State :=
  if n = 0 then s
  else
    let s := s.onMix fun m => { m with clamped := m.clamped.set p (min 65535 (m.clamped.get p + 1)) }
    if 48 ≤ n then s.fileFault .overload p.val n else s

/-- R114: the mirror source's COMMENTARY samples join the mirror buffer; of two blocks the oldest is first lost. -/
def State.joinMirror (p : Prog) (l : List Int) (s : State) : State :=
  if s.isMirror p then
    s.onMix fun m => { m with
      mirror := (if m.mirror.length < Config.mirrorDepth then m.mirror else m.mirror.drop 1) ++ [l] }
  else s

/-- R112: the end-of-clip report of a voice whose position has reached its clip's byte length. -/
def State.endReport (p : Prog) (s : State) (v : Voice) : State :=
  let x := s.voice p v
  match x.bind with
  | none => s
  | some b =>
    if x.started && decide (b.len ≤ x.pos) then
      match v with
      | .commentary => s.itemDone p
      | .announce => s.annClipEnd p
      | .bed => s.bedRelease p
      | .live => s
    else s

/-- R112: whether every duck gain equals its target. -/
def Quad.settled (d target : Quad Nat) : Bool :=
  d.commentary == target.commentary && d.announce == target.announce && d.live == target.live && d.bed == target.bed

/-- R106, R110, R111, R114: the samples of a block are computed and handed to the output; the answer holds the duck gains and held
samples after them. -/
def State.computeBlock (p : Prog) (b : Block) (lost : List Voice) (s : State) : State × Quad Nat × Quad Int :=
  let q := s.mix.voices.get p
  let x := b.sources lost (q.map (·.held))
  let y := b.mix (zipSources x.src.commentary x.src.announce x.src.live x.src.bed) (q.map (·.d))
  let s := s.onMix fun m => { m with out := m.out.set p y.out }
  ((s.countClamped p y.clamped).joinMirror p x.src.commentary, y.ducks, x.held)

/-- R112: the reports of a block of a programme that is ON. -/
def State.blockReports (p : Prog) (settled : Bool) (s : State) : State :=
  (clipVoices.foldl (State.endReport p) s).annReport p settled

/-- R106: the deadline of a programme's block. A block of a programme switched OFF within it still sounds, but it neither moves the
voices nor reports. -/
def State.deadline (p : Prog) (b : Block) (s : State) : State :=
  let lost := s.lostVoices p b
  let s := s.setBlock p none
  let s := if lost.isEmpty then s else s.underrun p
  let (s, ducks, held) := s.computeBlock p b lost
  if b.on && !b.cut then
    (s.advanceVoices p b ducks held).blockReports p (ducks.settled b.target)
  else s

/-! ## Switching a programme (R101) -/

/-- R101: the mixer, when a programme is switched ON. -/
def State.mixProgOn (p : Prog) (s : State) : State :=
  s.onMix fun m => { m with
    voices := m.voices.modify p (Quad.map fun v => { v.unbind with d := 4096 })
    streak := m.streak.set p 0, awake := m.awake.set p true, leaving := m.leaving.set p false }

/-- R101: the mixer, when a programme is switched OFF. -/
def State.mixProgOff (p : Prog) (s : State) : State :=
  (s.bedRelease p).onMix fun m => { m with
    block := m.block.modify p (Option.map fun b => { b with cut := true }) }

end Sys2Proof.Machine
end

