-- ==== Sys2Proof/Machine/Common.lean ====
section
/-! DEFINITION. What the meanings share: their outcome, and the argument tests that many commands have in common (R191). -/

namespace Sys2Proof.Machine

/-- What a meaning answers: always a next state, for the manual names no condition that stops the hub. -/
abbrev Out := Host.Outcome State Fault Refusal

/-- A next state, the event's parity failures filed (R28, log 7). -/
def State.done (s : State) : Out := .next s.settleParity

/-- R191: a command that carries no argument is refused BAD-ARGUMENT with a payload that is not empty. -/
def noArgs (bs : List Byte) (s : State) (k : State → Answer) : Answer :=
  if bs.isEmpty then k s else s.answer .badArgument

/-- R191: a command whose payload is one byte that names an index below `n`; anything else is refused BAD-ARGUMENT. -/
def withIndex (n : Nat) (bs : List Byte) (s : State) (k : Fin n → State → Answer) : Answer :=
  match (oneNumber 1 bs).bind (toIndex n) with
  | some i => k i s
  | none => s.answer .badArgument

/-- R191: a command whose payload is a number of 2 bytes: a clip ID or an announcement number. -/
def withWord (bs : List Byte) (s : State) (k : Nat → State → Answer) : Answer :=
  match oneNumber 2 bs with
  | some n => k n s
  | none => s.answer .badArgument

end Sys2Proof.Machine
end

