-- ==== Sys2Proof/Machine/Lighting.lean ====
section
/-! DEFINITION. The Deck Light Engine's commands and events (R135, R137, R141, R144, R147, R155), and what follows a cue player's
completed fetch (R149 to R151). -/

namespace Sys2Proof.Machine

/-! ## Layers and settings (R137, R141) -/

/-- R137. -/
def layerWriteBody (bs : List Byte) (s : State) : Answer :=
  match (layerOf bs).filter fun y => layerLegal y.1 y.2 with
  | none => s.answer .badArgument
  | some (k, x) =>
    match toIndex 4 k with
    | none => s.answer .badArgument
    | some i => ((s.onLight fun g => { g with layers := g.layers.set i x }).touch (layerRec i)).ok (layerBytes i x)

/-- LAYER_WRITE (R137). -/
def execLayerWrite (p : Port) (s : State) : Out := .next (s.take p .layerWrite layerWriteBody)

/-- LAYER_READ (R137). -/
def execLayerRead (p : Port) (s : State) : Out :=
  .next (s.take p .layerRead fun bs s => withIndex 4 bs s fun i s => s.ok (layerBytes i (s.light.layers.get i)))

/-- R141: the light settings as carried and as answered. -/
def Light.settingsBytes (g : Light) : List Byte := byteOf g.dim :: (colourBytes g.floorC ++ colourBytes g.fallback)

/-- R141. -/
def lightSetBody (bs : List Byte) (s : State) : Answer :=
  match bs with
  | [d, fr, fg, fb, kr, kg, kb] =>
    let s := s.onLight fun g => { g with
      dim := d.toNat, floorC := ⟨fr.toNat, fg.toNat, fb.toNat⟩, fallback := ⟨kr.toNat, kg.toNat, kb.toNat⟩ }
    s.ok s.light.settingsBytes
  | _ => s.answer .badArgument

/-- LIGHT_SET (R141). -/
def execLightSet (p : Port) (s : State) : Out := .next (s.take p .lightSet lightSetBody)

/-! ## LIGHT-STATUS (R155) -/

/-- Whether next keyframe data are present. -/
def NextData.isPresent : NextData → Bool
  | .present _ => true
  | _ => false

/-- R155: a cue player; 64 stands for no keyframe (log 9), whose fade is answered as not complete, and the elapsed time is answered modulo
2^32 (log 29). -/
def playerBytes : Option Player → List Byte
  | none => [0]
  | some q =>
    1 :: (bytesLE 2 q.bind.clip ++ bytesLE 4 q.elapsed ++ [byteOf (q.next.getD 64), flagByte q.data.isPresent,
      byteOf ((q.applied.map (·.number)).getD 64), flagByte ((q.applied.map (·.done)).getD false)])

/-- R155: what LIGHT-STATUS answers. -/
def State.lightStatusBytes (s : State) : List Byte :=
  byteOf s.engineMode :: (s.light.settingsBytes ++ s.light.players.list.flatMap playerBytes ++
    s.light.zones.list.flatMap colourBytes ++ [flagByte s.light.acked])

/-- LIGHT_STATUS (R155). -/
def execLightStatus (p : Port) (s : State) : Out :=
  .next (s.take p .lightStatus fun bs s => noArgs bs s fun s => s.ok s.lightStatusBytes)

/-! ## CUE-START and CUE-STOP (R147) -/

/-- R147. -/
def cueStartBody (bs : List Byte) (s : State) : Answer :=
  match bs with
  | [k, c0, c1] =>
    let c := natLE [c0, c1]
    match toIndex 3 k.toNat with
    | none => s.answer .badArgument
    | some k =>
      if c = 0 then s.answer .badArgument
      else if s.engineMode ≠ 0 then s.answer .refusedState
      else
        let (s, playing) := s.playerStart k c
        s.answer (if playing then .ok else .notFound)
  | _ => s.answer .badArgument

/-- CUE_START (R147). -/
def execCueStart (p : Port) (s : State) : Out := (s.take p .cueStart cueStartBody).done

/-- CUE_STOP (R147). -/
def execCueStop (p : Port) (s : State) : Out :=
  (s.take p .cueStop fun bs s => withIndex 3 bs s fun k s => (s.playerStop k).answer .ok).done

/-! ## What follows a completed fetch (R149 to R151) -/

/-- R150, R151: a malformed or unreadable header (number 64) or keyframe ends the cue. -/
def State.cueFail (k : PlayerNo) (clip number : Nat) (s : State) : State :=
  ((s.fileFault .cueFormat clip number).playerStop k).post .cueEnded k.val clip 1

/-- R149, R150: the check of the keyframe that a completed fetch brought. -/
def State.keepKeyframe (k : PlayerNo) (q : Player) (s : State) : State :=
  match readKeyframe q.bind.len q.got q.nextByte q.lastTime with
  | none => s.cueFail k q.bind.clip (q.next.getD 64)
  | some x => s.setPlayer k (some { q with data := .present x, nextByte := q.nextByte + 7 + 4 * x.cells.length, got := [] })

/-- R149, R150: the check at a fetch's completion: the header, at the start's fetch, and then the keyframe. -/
def State.cueComplete (k : PlayerNo) (q : Player) (s : State) : State :=
  match q.header with
  | some _ => s.keepKeyframe k q
  | none =>
    match readHeader q.bind.len q.got with
    | none => s.cueFail k q.bind.clip 64
    | some h => s.keepKeyframe k { q with header := some h }

/-- R149: a player whose fetch has no line left to come makes its check. -/
def State.cueCheck (k : PlayerNo) (s : State) : State :=
  match s.light.players.get k with
  | none => s
  | some q =>
    if q.data = .fetching ∧ q.want.isEmpty = true ∧ s.store.cueInFlight k = false then s.cueComplete k q else s

/-! ## The light frame and the lamp link (R135, R144) -/

/-- R135 step 1, for one player. A fetch that needed no grant is complete at its request (R23), and is checked after the step (log 29). -/
def State.frameStep (s : State) (k : PlayerNo) : State := (s.playerStep k).cueCheck k

/-- R144: a frame followed by no answer before the next one files LAMP-LINK. -/
def State.missedAnswer (s : State) : State := if s.light.awaiting then s.fileFault .lampLink 1 0 else s

/-- R135 steps 2 and 3, R144: the 48 zones are composed and sent. -/
def State.sendFrame (s : State) : State :=
  s.onLight fun g => { g with zones := Tab.ofFn (g.output s.engineMode), acked := false, awaiting := true }

/-- R135: a light frame. -/
def State.lightFrame (s : State) : State := ((([0, 1, 2] : List PlayerNo).foldl State.frameStep s).missedAnswer).sendFrame

/-- LIGHT_FRAME (R135). -/
def execLightFrame (s : State) : Out := s.lightFrame.done

/-- R144: the driver chain's answer to the last frame; a second answer to one frame cannot take place (log 2). -/
def State.lampAnswer (ack : Bool) (s : State) : State :=
  if s.light.awaiting then
    let s := s.onLight fun g => { g with acked := ack, awaiting := false }
    if ack then s else s.fileFault .lampLink 0 0
  else s

/-- LAMP_LINK_ANSWER (R144). -/
def execLampLinkAnswer (ack : Bool) (s : State) : Out := .next (s.lampAnswer ack)

end Sys2Proof.Machine
end

