-- ==== Sys2Proof/Machine/Arbiter.lean ====
section
/-! DEFINITION. The DRAM arbiter: grants and completions of bursts, ECC and scrubbing (R16, R22 to R27), and the time base with the
stored bits that go wrong (R181, log 5). -/

namespace Sys2Proof.Machine

/-! ## DRAM_GRANT (R22) -/

/-- The burst in progress set. -/
def Store.setBurst (st : Store) (b : Option Burst) : Store := { st with burst := b }

/-- Whether a programme's fetch waits. -/
def State.fetchWaits (s : State) (p : Prog) : Bool :=
  match s.mix.block.get p with
  | some b => !b.want.isEmpty
  | none => false

/-- Whether a cue player's fetch waits. -/
def State.cueWaits (s : State) (k : PlayerNo) : Bool :=
  match s.light.players.get k with
  | some q => !q.want.isEmpty
  | none => false

/-- R22: the head line of a programme's fetch is granted, at the page found when the fetch was requested, whether or not the voice's use is
still held (logs 23 and 28). -/
def State.grantFetch (p : Prog) (s : State) : State :=
  match s.mix.block.get p with
  | none => s
  | some b =>
    match b.want with
    | [] => s
    | (v, r) :: rest =>
      match b.src.get v with
      | none => s.setBlock p (some { b with want := rest })
      | some x =>
        (s.setBlock p (some { b with want := rest })).onStore fun st => st.setBurst (some ⟨.fetch p v x.bind r, true⟩)

/-- R22: the head line of a cue player's fetch is granted. -/
def State.grantCue (k : PlayerNo) (s : State) : State :=
  match s.light.players.get k with
  | none => s
  | some q =>
    match q.want with
    | [] => s
    | r :: rest =>
      (s.setPlayer k (some { q with want := rest })).onStore fun st => st.setBurst (some ⟨.cue k q.bind r, true⟩)

/-- R27: the entry in READY, DAMAGED or RETIRING whose chain holds a page. -/
def Store.ownerOf (st : Store) (page : Page) : Option (EntryNo × Entry) :=
  if linkOf st.links page = .free then none
  else st.findEntry fun e => e.state != .loading && match e.firstPage with
    | some q => (st.chain q).contains page
    | none => false

/-- The pages whose link values are read in following chains, one after another, until one holds a page: those before it in that chain,
and every page of the chains before. -/
def pagesFollowed (page : Page) : List (List Page) → List Page
  | [] => []
  | c :: cs => if c.contains page then c.takeWhile (· != page) else c ++ pagesFollowed page cs

/-- R2, R28: what the search for the owner of a page that is not FREE reads: the clip map, and the link values that it follows. -/
def Store.readOwner (st : Store) (page : Page) : Store :=
  if linkOf st.links page = .free then st
  else
    st.searchMap.readLinks (pagesFollowed page ((indices 192).filterMap fun n =>
      ((st.map.get n).filter fun e => e.state != .loading).bind fun e => e.firstPage.map st.chain))

/-- R27: the head scrub request is granted, or discarded with no DRAM access. -/
def State.grantScrub (s : State) : State :=
  match s.store.scrub with
  | [] => s
  | (page, w) :: rest =>
    let s := s.onStore fun st => { (st.readLinks [page]).readOwner page with scrub := rest }
    match s.store.ownerOf page with
    | none => s
    | some (n, e) => s.onStore fun st => st.setBurst (some ⟨.scrub page w n e.clip, true⟩)

/-- R16: the oldest eligible line is granted its burst. -/
def State.grantDrain (s : State) : State :=
  match s.store.eligible with
  | [] => s
  | w :: _ => s.onStore fun st => st.setBurst (some ⟨.drain w, true⟩)

/-- R22: a grant; with the DRAM busy or no client waiting the event cannot take place (log 2). -/
def State.grant (s : State) : State :=
  if s.store.burst.isSome then s
  else
    match allProgs.find? s.fetchWaits with
    | some p => s.grantFetch p
    | none =>
      match ([0, 1, 2] : List PlayerNo).find? s.cueWaits with
      | some k => s.grantCue k
      | none => if s.store.scrub.isEmpty then s.grantDrain else s.grantScrub

/-- DRAM_GRANT (R22). -/
def execDramGrant (s : State) : Out := s.grant.done

/-! ## Reads, checked (R23 to R25) -/

/-- The worse of two word errors. -/
def worseError : Option WordError → Option WordError → Option WordError
  | some .double, _ => some .double
  | _, some .double => some .double
  | none, y => y
  | some .single, _ => some .single

/-- What a read of a word shows: its wrong stored bits, and what was read wrongly this once (log 5). -/
def Store.readError (st : Store) (noise : List (Fin 8 × WordError)) (page : Page) (w : WordNo) : Option WordError :=
  worseError (errorOf st.dramErr page w.val)
    ((noise.find? fun x => x.1.val == w.val % 8).map (·.2))

/-- A word of a line (R1). -/
def wordOfLine (line : Fin 64) (i : Fin 8) : WordNo := ⟨line.val * 8 + i.val, by omega⟩

/-- R24: a corrected word. -/
def State.eccCorrected (page : Page) (w : WordNo) (s : State) : State :=
  let s := s.fileFault .eccCorrected page.val w.val
  let (st, kept) := s.store.requestScrub page w
  let s := s.onStore fun _ => st
  if kept then s else s.fileFault .scrubOverflow page.val w.val

/-- R25: an uncorrectable word of clip `clip`; the entry is read (R28), and, if it still holds that clip in READY, becomes DAMAGED. -/
def State.eccUncorrected (n : EntryNo) (clip : Nat) (page : Page) (s : State) : State :=
  let s := (s.fileFault .eccUncorrected clip page.val).onStore fun st => st.readEntry n
  match s.store.map.get n with
  | none => s
  | some e =>
    if e.state = .ready ∧ e.clip = clip then
      (s.onStore fun st => st.putEntry n (some { e with state := .damaged })).post .clipDamaged clip 0 0
    else s

/-- R23 to R25: one word of a line read for a consumer: the state after its check, and the word as delivered. -/
def State.readWord (noise : List (Fin 8 × WordError)) (b : Binding) (r : LineReq) (x : State × List (Option (List Byte)))
    (i : Fin 8) : State × List (Option (List Byte)) :=
  let w := wordOfLine r.line i
  let data := x.1.wordBytes r.page w
  match x.1.store.readError noise r.page w with
  | none => (x.1, x.2 ++ [some data])
  | some .single => (x.1.eccCorrected r.page w, x.2 ++ [some data])
  | some .double => (x.1.eccUncorrected b.entry b.clip r.page, x.2 ++ [none])

/-- R23: the eight words of a line, checked in word order. -/
def State.readLine (noise : List (Fin 8 × WordError)) (b : Binding) (r : LineReq) (s : State) :
    State × List (Option (List Byte)) :=
  (indices 8).foldl (State.readWord noise b r) (s, [])

/-! ## BURST_COMPLETION (R16, R22, R27, R115, R149) -/

/-- R115: a line is delivered to a programme's fetch; with the last one the fetch is complete and the streak becomes 0. -/
def State.deliverFetch (p : Prog) (x : GotLine) (s : State) : State :=
  match s.mix.block.get p with
  | none => s
  | some b =>
    let s := s.setBlock p (some { b with got := b.got ++ [x] })
    if b.want.isEmpty then s.setStreak p 0 else s

/-- R149: a line is delivered to a cue player's fetch; with the last one the player makes its check. -/
def State.deliverCue (k : PlayerNo) (x : CueLine) (s : State) : State :=
  match s.light.players.get k with
  | none => s
  | some q => (s.setPlayer k (some { q with got := q.got ++ [x] })).cueCheck k

/-- R27: a scrub's read and write back. -/
def State.scrubDone (noise : List (Fin 8 × WordError)) (page : Page) (w : WordNo) (n : EntryNo) (clip : Nat) (s : State) :
    State :=
  match s.store.readError noise page w with
  | none => s
  | some .single => s.onStore fun st => { st with dramErr := setError st.dramErr page w.val none }
  | some .double => s.eccUncorrected n clip page

/-- R16: a line's burst writes its 64 bytes and the check bits of its eight words. -/
def Store.writeLine (st : Store) (w : WriteLine) : Store :=
  { st with
    dram := Memory.writeAll st.dram (lineAddress w.page w.line) w.data
    dramErr := (indices 8).foldl (fun m i => setError m w.page (wordOfLine w.line i).val none) st.dramErr }

/-- R16: a drained line leaves the buffer, and its load may complete. -/
def State.drainDone (s : State) : State :=
  match s.store.eligible with
  | [] => s
  | w :: rest =>
    let s := s.onStore fun st => { st with eligible := rest }
    match w.slot with
    | none => s
    | some p =>
      match s.store.slots.get p with
      | .closing _ => if (s.store.pendingOf p).isEmpty then s.completeLoad p else s
      | _ => s

/-- R22, R23: a burst completes; data that are no longer wanted are discarded unchecked. -/
def State.burstDone (noise : List (Fin 8 × WordError)) (s : State) : State :=
  match s.store.burst with
  | none => s
  | some b =>
    let s := s.onStore fun st => st.setBurst none
    match b.job with
    | .drain w =>
      let s := s.onStore fun st => st.writeLine w
      if b.wanted then s.drainDone else s
    | .fetch p v x r =>
      if b.wanted then
        let (s, words) := s.readLine noise x r
        s.deliverFetch p ⟨v, r.clipLine, words⟩
      else s
    | .cue k x r =>
      if b.wanted then
        let (s, words) := s.readLine noise x r
        s.deliverCue k ⟨r.clipLine, words⟩
      else s
    | .scrub page w n clip => if b.wanted then s.scrubDone noise page w n clip else s

/-- BURST_COMPLETION (R22). -/
def execBurstCompletion (noise : List (Fin 8 × WordError)) (s : State) : Out := (s.burstDone noise).done

/-! ## TIME_BASE_TICK (R181) -/

/-- Log 5: a stored bit goes wrong. -/
def Store.upset (st : Store) : Upset → Store
  | .link p => if p ∈ st.badLinks then st else { st with badLinks := st.badLinks ++ [p] }
  | .map e => if e ∈ st.badMap then st else { st with badMap := st.badMap ++ [e] }
  | .word p w err => { st with dramErr := setError st.dramErr p w.val (worseError (errorOf st.dramErr p w.val) (some err)) }

/-- R181: the time base counts one millisecond. -/
def State.tick (ups : List Upset) (s : State) : State :=
  (s.onCtl fun c => { c with time := c.time + 1 }).onStore fun st => ups.foldl Store.upset st

/-- TIME_BASE_TICK (R181). -/
def execTimeBaseTick (ups : List Upset) (s : State) : Out := .next (s.tick ups)

end Sys2Proof.Machine
end

