-- ==== Sys2Proof/Machine/Clips.lean ====
section
/-! DEFINITION. The Clip Store's commands (R8 to R10, R12, R13, R17, R19). -/

namespace Sys2Proof.Machine

/-! ## LOAD-OPEN (R12) -/

/-- R12 test 3: another slot in OPEN or CLOSING with the clip ID, or a RETIRING entry of it. -/
def Store.loadBusy (st : Store) (p : Port) (clip : Nat) : Bool :=
  ((indices 3).any fun q => q != p && (match (st.slots.get q).load with
      | some l => l.clip == clip
      | none => false)) ||
    (st.findEntry fun e => e.state == .retiring && e.clip == clip).isSome

/-- R12 test 4: the state with an empty entry, by an eviction where the clip map is full; none where the
search for a candidate finds none. -/
def State.roomForEntry (s : State) : Option (State × EntryNo) :=
  match s.store.emptyEntry with
  | some n => some (s, n)
  | none => s.evict.bind fun s => s.store.emptyEntry.map fun n => (s, n)

/-- R12: the new LOADING entry. -/
def LoadOpenArgs.entry (x : LoadOpenArgs) (p : Port) : Entry where
  clip      := x.clip
  kind      := x.kind
  lang      := x.lang
  state     := .loading
  pinned    := false
  firstPage := none
  pageCount := none
  byteLen   := x.len
  useCount  := 0
  lastUse   := none
  loader    := some p

/-- R12: the slot as LOAD-OPEN leaves it. -/
def LoadOpenArgs.load (x : LoadOpenArgs) (n : EntryNo) : Load where
  entry    := n
  clip     := x.clip
  kind     := x.kind
  len      := x.len
  pin      := x.pin
  received := 0
  chain    := none

/-- R12. -/
def loadOpenBody (p : Port) (bs : List Byte) (s : State) : Answer :=
  if (s.store.slots.get p).load.isSome then s.answer .refusedState
  else
    match (loadOpenOf bs).filter loadOpenLegal with
    | none => s.answer .badArgument
    | some x =>
      let s := s.onStore Store.searchMap
      if s.store.loadBusy p x.clip then s.answer .inUse
      else
        match s.roomForEntry with
        | none => (s.onStore Store.searchMap).answer .full
        | some (s, n) =>
          (s.onStore fun st => (st.putEntry n (some (x.entry p))).setSlot p (.opened (x.load n))).answer .ok

/-- LOAD_OPEN (R12). -/
def execLoadOpen (p : Port) (s : State) : Out := (s.take p .loadOpen (loadOpenBody p)).done

/-! ## LOAD-DATA (R13) -/

/-- R13 test 5: the new lines that a piece of `n` bytes at `off` needs. -/
def Store.linesNeeded (st : Store) (p : Port) (l : Load) (off n : Nat) : Nat :=
  let k := (off + n - 1) / 64 + 1 - off / 64
  let pages := st.loadPages l
  let held := match pages[off / 4096]? with
    | some q => (st.filling ++ st.eligible).any fun w => w.isAt p q (lineOf off)
    | none => false
  if held then k - 1 else k

/-- R13 test 6, R14: the state with the pages that the piece needs, by an eviction where the free page list is empty. -/
def State.roomForPiece (s : State) (p : Port) (l : Load) (last : Nat) : Option State :=
  let count := match l.chain with
    | some c => c.count
    | none => 0
  if last / 4096 < count then some s
  else
    match s.store.takePage p l with
    | some st => some (s.onStore fun _ => st)
    | none => s.evict.bind fun s => (s.store.takePage p l).map fun st => s.onStore fun _ => st

/-- R13, R15: an accepted piece enters the write buffer, and the received count rises. -/
def State.acceptPiece (p : Port) (off : Nat) (piece : List Byte) (s : State) : State :=
  match s.store.slots.get p with
  | .opened l =>
    s.onStore fun st =>
      (Store.layPiece p (st.loadPages l) l.len 6 off piece st).setSlot p
        (.opened { l with received := l.received + piece.length })
  | _ => s

/-- R13. -/
def loadDataBody (p : Port) (bs : List Byte) (s : State) : Answer :=
  match s.store.slots.get p with
  | .opened l =>
    match takeNumber 4 bs with
    | none => s.answer .badArgument
    | some (off, piece) =>
      if piece.length = 0 ∨ 256 < piece.length then s.answer .badArgument
      else if off ≠ l.received then s.answer .outOfOrder
      else if l.len < off + piece.length then s.answer .badArgument
      else if s.store.freeLines < s.store.linesNeeded p l off piece.length then s.answer .wait
      else
        match s.roomForPiece p l (off + piece.length - 1) with
        | none => (s.onStore Store.searchMap).answer .full
        | some s => (s.acceptPiece p off piece).answer .ok
  | _ => s.answer .refusedState

/-- LOAD_DATA (R13). -/
def execLoadData (p : Port) (s : State) : Out := (s.take p .loadData (loadDataBody p)).done

/-! ## LOAD-CLOSE and LOAD-ABORT (R17, R19) -/

/-- R17. -/
def loadCloseBody (p : Port) (s : State) : Answer :=
  match s.store.slots.get p with
  | .opened l =>
    if l.received < l.len then s.answer .short
    else
      let s := s.onStore fun st => st.setSlot p (.closing l)
      (if (s.store.pendingOf p).isEmpty then s.completeLoad p else s).answer .accepted
  | _ => s.answer .refusedState

/-- LOAD_CLOSE (R17). -/
def execLoadClose (p : Port) (s : State) : Out := (s.take p .loadClose fun bs s => noArgs bs s (loadCloseBody p)).done

/-- R19. -/
def loadAbortBody (p : Port) (s : State) : Answer :=
  match s.store.slots.get p with
  | .opened l =>
    (s.onStore fun st =>
      (((st.freeEntry l.entry).freeChain (l.chain.map (·.first))).discardLines p).setSlot p .closed).answer .ok
  | .closing _ => s.answer .tooLate
  | .closed => s.answer .refusedState

/-- LOAD_ABORT (R19). -/
def execLoadAbort (p : Port) (s : State) : Out := (s.take p .loadAbort fun bs s => noArgs bs s (loadAbortBody p)).done

/-! ## CLIP-DELETE, CLIP-PIN, CLIP-UNPIN (R8, R9) -/

/-- The clip map searched for the standing entry of a clip ID; without one the command is refused NOT-FOUND. -/
def withStanding (clip : Nat) (s : State) (k : EntryNo → Entry → State → Answer) : Answer :=
  let s := s.onStore Store.searchMap
  match s.store.standingOf clip with
  | some (n, e) => k n e s
  | none => s.answer .notFound

/-- R9. -/
def clipDeleteBody (clip : Nat) (s : State) : Answer :=
  withStanding clip s fun n _ s => (s.onStore fun st => st.retire n).answer .ok

/-- CLIP_DELETE (R9). -/
def execClipDelete (p : Port) (s : State) : Out := (s.take p .clipDelete fun bs s => withWord bs s clipDeleteBody).done

/-- R8. -/
def clipPinBody (clip : Nat) (s : State) : Answer :=
  withStanding clip s fun n e s =>
    let count := e.pageCount.getD 0
    if e.pinned then s.answer .ok
    else if Config.pinLimit < s.store.pinTotal + count then s.answer .full
    else
      (s.onStore fun st =>
        { st.putEntry n (some { e with pinned := true }) with pinTotal := st.pinTotal + count }).answer .ok

/-- CLIP_PIN (R8). -/
def execClipPin (p : Port) (s : State) : Out := (s.take p .clipPin fun bs s => withWord bs s clipPinBody).done

/-- R8. -/
def clipUnpinBody (clip : Nat) (s : State) : Answer :=
  withStanding clip s fun n e s => (if e.pinned then s.onStore fun st => st.unpinEntry n else s).answer .ok

/-- CLIP_UNPIN (R8). -/
def execClipUnpin (p : Port) (s : State) : Out := (s.take p .clipUnpin fun bs s => withWord bs s clipUnpinBody).done

/-! ## CLIP-QUERY and STORE-STATUS (R10) -/

/-- R10: an entry's number and the fields of R4 that are present (log 9). -/
def entryBytes (n : EntryNo) (e : Entry) : List Byte :=
  byteOf n.val :: (bytesLE 2 e.clip ++
    [byteOf (clipKindCode e.kind), byteOf e.lang, byteOf (entryStateCode e.state), flagByte e.pinned] ++
    (match e.firstPage with
      | some q => bytesLE 2 q.val
      | none => []) ++
    (match e.pageCount with
      | some c => bytesLE 2 c
      | none => []) ++
    bytesLE 4 e.byteLen ++ [byteOf e.useCount] ++
    (match e.lastUse with
      | some u => bytesLE 4 u.toNat
      | none => []) ++
    (match e.loader with
      | some q => [byteOf q.val]
      | none => []))

/-- The occupied entries that pass a test, in ascending order (for CLIP-QUERY the model's choice, log 26). -/
def Store.entriesWhere (st : Store) (f : Entry → Bool) : List (EntryNo × Entry) :=
  (indices 192).filterMap fun n => ((st.map.get n).filter f).map fun e => (n, e)

/-- R10: what CLIP-QUERY answers; the order of its list is the model's choice (log 26). -/
def Store.queryBytes (st : Store) (clip : Nat) : List Byte :=
  let l := st.entriesWhere fun e => e.clip == clip
  byteOf l.length :: l.flatMap fun x => entryBytes x.1 x.2

/-- R10. -/
def clipQueryBody (clip : Nat) (s : State) : Answer := (s.onStore Store.searchMap).ok (s.store.queryBytes clip)

/-- CLIP_QUERY (R10). -/
def execClipQuery (p : Port) (s : State) : Out := (s.take p .clipQuery fun bs s => withWord bs s clipQueryBody).done

/-- R10: a load slot's state, with its clip ID, declared length and received bytes outside CLOSED. -/
def slotBytes : LoadSlot → List Byte
  | .closed => [0]
  | .opened l => 1 :: (bytesLE 2 l.clip ++ bytesLE 4 l.len ++ bytesLE 4 l.received)
  | .closing l => 2 :: (bytesLE 2 l.clip ++ bytesLE 4 l.len ++ bytesLE 4 l.received)

/-- R10: the number of occupied entries in a state. -/
def Store.countState (st : Store) (x : EntryState) : Nat := (st.entriesWhere fun e => e.state == x).length

/-- R10: what STORE-STATUS answers. -/
def Store.statusBytes (st : Store) : List Byte :=
  bytesLE 2 st.freeList.length ++ bytesLE 2 st.pinTotal ++
    [byteOf (st.countState .loading), byteOf (st.countState .ready), byteOf (st.countState .damaged),
      byteOf (st.countState .retiring)] ++
    st.slots.list.flatMap slotBytes ++ [byteOf (st.filling.length + st.eligible.length), byteOf st.scrub.length] ++
    bytesLE 4 st.seq.toNat

/-- R10. -/
def storeStatusBody (s : State) : Answer := (s.onStore Store.searchMap).ok s.store.statusBytes

/-- STORE_STATUS (R10). -/
def execStoreStatus (p : Port) (s : State) : Out := (s.take p .storeStatus fun bs s => noArgs bs s storeStatusBody).done

end Sys2Proof.Machine
end

