-- ==== Sys2Proof/Machine/FaultCommands.lean ====
section
/-! DEFINITION. The fault commands (R173 to R176). -/

namespace Sys2Proof.Machine

/-- R173: what FAULT-READ answers. -/
def State.faultReadBytes (s : State) (i : Fin 6) : List Byte :=
  faultBytes (s.faults.banks.get i).record ++
    [(s.faults.banks.get i).mask, flagByte s.faults.pending, byteOf (opStateCode s.ctl.op)]

/-- R173. -/
def faultReadBody (i : Fin 6) (s : State) : Answer := s.ok (s.faultReadBytes i)

/-- FAULT_READ (R173). -/
def execFaultRead (p : Port) (s : State) : Out := .next (s.take p .faultRead fun bs s => withIndex 6 bs s faultReadBody)

/-- A fault bank changed. -/
def State.onBank (i : Fin 6) (f : FaultBank → FaultBank) (s : State) : State :=
  s.onFaults fun r => { r with banks := r.banks.modify i f }

/-- R174. -/
def faultClearBody (i : Fin 6) (s : State) : Answer :=
  (s.onBank i fun b => { b with record := none }).ok (faultBytes (s.faults.banks.get i).record)

/-- FAULT_CLEAR (R174). -/
def execFaultClear (p : Port) (s : State) : Out := .next (s.take p .faultClear fun bs s => withIndex 6 bs s faultClearBody)

/-- R175. -/
def faultEnableBody (bs : List Byte) (s : State) : Answer :=
  match bs with
  | [b, m] =>
    match toIndex 6 b.toNat with
    | none => s.answer .badArgument
    | some i =>
      if m.toNat < 2 ^ bankSize i then (s.onBank i fun x => { x with mask := m }).ok [m] else s.answer .badArgument
  | _ => s.answer .badArgument

/-- FAULT_ENABLE (R175). -/
def execFaultEnable (p : Port) (s : State) : Out := .next (s.take p .faultEnable faultEnableBody)

/-- R176. -/
def faultResumeBody (s : State) : Answer :=
  if s.faults.pending then (s.onFaults fun r => { r with pending := false }).answer .ok else s.answer .notPending

/-- FAULT_RESUME (R176). -/
def execFaultResume (p : Port) (s : State) : Out :=
  .next (s.take p .faultResume fun bs s => noArgs bs s faultResumeBody)

end Sys2Proof.Machine
end

