-- ==== Sys2Proof/Machine/Mixing.lean ====
section
/-! DEFINITION. The Programme Mixer's commands (R100 to R104) and block events (R106). -/

namespace Sys2Proof.Machine

/-! ## PROGRAMME-WRITE (R100, R101) -/

/-- A programme record set, every reservation on it cleared (R162, R163). -/
def State.writeProg (p : Prog) (x : ProgRec) (s : State) : State :=
  (s.onMix fun m => { m with progs := m.progs.set p x }).touch (programmeRec p)

/-- R100: another record that had the guide flag set loses it. -/
def State.clearGuide (p : Prog) (s : State) (q : Prog) : State :=
  let x := s.mix.progs.get q
  if q ≠ p ∧ x.guide = true then s.writeProg q { x with guide := false } else s

/-- R101, R68, R89, R129: what a change of state does at once. -/
def State.switchProg (p : Prog) (was now : Bool) (s : State) : State :=
  if was && !now then (((s.emptyQueue p).annProgOff p).mixProgOff p).seatProgOff p
  else if !was && now then ((s.annProgOn p).mixProgOn p).seatProgOn p
  else s

/-- R99, R101, R114: what a change of the mirror source does at once. The former source stays AWAKE until its next block start, which the
Clip Store's activity has to know of (`State.storeAwake`). -/
def State.switchMirror (was now : Nat) (s : State) : State :=
  if was = now then s
  else s.onMix fun m => { m with
    mirror := []
    awake := match toIndex 13 now with
      | some q => m.awake.set q true
      | none => m.awake
    leaving := match toIndex 13 was with
      | some q => m.leaving.set q (q != 0)
      | none => m.leaving }

/-- R100, R101: an accepted PROGRAMME-WRITE. -/
def State.writeProgramme (p : Prog) (x : ProgRec) (s : State) : State :=
  let old := s.mix.progs.get p
  let s := s.writeProg p x
  let s := if x.guide then langProgs.foldl (State.clearGuide p) s else s
  let s := s.switchProg p old.on x.on
  if p = 0 then s.switchMirror old.mirror x.mirror else s

/-- R100. -/
def programmeWriteBody (bs : List Byte) (s : State) : Answer :=
  match (programmeOf bs).filter fun y => programmeLegal y.1 y.2 with
  | none => s.answer .badArgument
  | some (k, x) =>
    match toIndex 13 k with
    | none => s.answer .badArgument
    | some p =>
      let x := programmeClamp x
      (s.writeProgramme p x).ok (programmeBytes p x)

/-- PROGRAMME_WRITE (R100). -/
def execProgrammeWrite (p : Port) (s : State) : Out := (s.take p .programmeWrite programmeWriteBody).done

/-! ## PROGRAMME-READ and MIX-COUNT-CLEAR (R102) -/

/-- R102: a voice as read. -/
def voiceBytes (v : VoiceState) : List Byte :=
  (match v.bind with
    | some b => 1 :: (bytesLE 2 b.clip ++ bytesLE 4 v.pos)
    | none => [0]) ++ bytesLE 2 v.d

/-- R102: what PROGRAMME-READ answers. -/
def State.programmeReadBytes (s : State) (i : Prog) : List Byte :=
  programmeBytes i (s.mix.progs.get i) ++
    (if s.progOn i then [byteOf (activityCode (if s.mix.awake.get i then .awake else .dormant))] else []) ++
    bytesLE 2 (s.mix.clamped.get i) ++ [byteOf (s.mix.streak.get i)] ++
    (s.mix.voices.get i).toList.flatMap voiceBytes ++ if i = 0 then [byteOf s.mix.mirror.length] else []

/-- R102. -/
def programmeReadBody (i : Prog) (s : State) : Answer := s.ok (s.programmeReadBytes i)

/-- PROGRAMME_READ (R102). -/
def execProgrammeRead (p : Port) (s : State) : Out :=
  .next (s.take p .programmeRead fun bs s => withIndex 13 bs s programmeReadBody)

/-- R102. -/
def mixCountClearBody (i : Prog) (s : State) : Answer :=
  (s.onMix fun m => { m with clamped := m.clamped.set i 0 }).ok (bytesLE 2 (s.mix.clamped.get i))

/-- MIX_COUNT_CLEAR (R102). -/
def execMixCountClear (p : Port) (s : State) : Out :=
  .next (s.take p .mixCountClear fun bs s => withIndex 13 bs s mixCountClearBody)

/-! ## The duck table and the loudness record (R103, R104) -/

/-- R103. -/
def duckWriteBody (bs : List Byte) (s : State) : Answer :=
  match duckOf bs with
  | none => s.answer .badArgument
  | some x => ((s.onMix fun m => { m with duck := duckClamp x }).touch duckRec).ok (duckBytes (duckClamp x))

/-- DUCK_WRITE (R103). -/
def execDuckWrite (p : Port) (s : State) : Out := .next (s.take p .duckWrite duckWriteBody)

/-- DUCK_READ (R103). -/
def execDuckRead (p : Port) (s : State) : Out :=
  .next (s.take p .duckRead fun bs s => noArgs bs s fun s => s.ok (duckBytes s.mix.duck))

/-- R104's clamps on both groups. -/
def loudnessClamp (x : Loudness) : Loudness := ⟨loudGroupClamp x.headset, loudGroupClamp x.pa⟩

/-- R104. -/
def loudnessWriteBody (bs : List Byte) (s : State) : Answer :=
  match loudnessOf bs with
  | none => s.answer .badArgument
  | some x =>
    ((s.onMix fun m => { m with loud := loudnessClamp x }).touch loudnessRec).ok (loudnessBytes (loudnessClamp x))

/-- LOUDNESS_WRITE (R104). -/
def execLoudnessWrite (p : Port) (s : State) : Out := .next (s.take p .loudnessWrite loudnessWriteBody)

/-- LOUDNESS_READ (R104). -/
def execLoudnessRead (p : Port) (s : State) : Out :=
  .next (s.take p .loudnessRead fun bs s => noArgs bs s fun s => s.ok (loudnessBytes s.mix.loud))

/-! ## Blocks (R106) -/

/-- R106: a block start; with the programme's last block still waiting for its deadline the event cannot take place (log 2). -/
def State.blockStart (p : Prog) (s : State) : State :=
  match s.mix.block.get p with
  | some _ => s
  | none => s.startBlock p

/-- BLOCK_START (R106). -/
def execBlockStart (p : Prog) (s : State) : Out := (s.blockStart p).done

/-- R106: a deadline; with no block in progress the event cannot take place (log 2). -/
def State.blockDeadline (p : Prog) (s : State) : State :=
  match s.mix.block.get p with
  | some b => s.deadline p b
  | none => s

/-- BLOCK_DEADLINE (R106). -/
def execBlockDeadline (p : Prog) (s : State) : Out := (s.blockDeadline p).done

end Sys2Proof.Machine
end

