-- ==== Sys2Proof/Machine/Playback.lean ====
section
/-! DEFINITION. COMMENTARY-READ, the announcement and live channel commands, and the two timed events of the Announcement Controller
(R75, R79, R90, R92 to R94, R96, R97). -/

namespace Sys2Proof.Machine

/-! ## COMMENTARY-READ (R75) -/

/-- R75: an item as read. -/
def itemBytes (x : Item) : List Byte :=
  byteOf x.segment.val :: (bytesLE 2 x.bind.clip ++ [byteOf x.bind.entry.val] ++ bytesLE 4 x.trig ++ bytesLE 2 x.late ++
    [byteOf x.priority, flagByte x.hold, flagByte x.playing, flagByte x.paused] ++ bytesLE 4 x.pos)

/-- The activity of a programme that is ON (R75): the one the mixer uses, as PROGRAMME-READ answers it (R102; log 26). -/
def State.activityBytes (s : State) (p : Prog) : List Byte :=
  if s.progOn p then [byteOf (activityCode (if s.mix.awake.get p then .awake else .dormant))] else []

/-- R75: what COMMENTARY-READ answers. -/
def State.commentaryBytes (s : State) (i : Prog) : List Byte :=
  [flagByte (s.progOn i)] ++ s.activityBytes i ++ [flagByte s.com.window, byteOf (s.queueOf i).length] ++
    (s.queueOf i).flatMap itemBytes

/-- R75. -/
def commentaryReadBody (i : Prog) (s : State) : Answer :=
  if i = 0 then s.answer .badArgument else s.ok (s.commentaryBytes i)

/-- COMMENTARY_READ (R75). -/
def execCommentaryRead (p : Port) (s : State) : Out :=
  .next (s.take p .commentaryRead fun bs s => withIndex 13 bs s commentaryReadBody)

/-! ## ANNOUNCE and ANNOUNCE-CANCEL (R79, R90) -/

/-- R79: the item that an accepted ANNOUNCE makes. -/
def AnnounceArgs.item (x : AnnounceArgs) (p : Port) (n : Nat) : AnnItem where
  number := n
  kind   := x.kind
  stop   := none
  b      := none
  langs  := x.langs
  dflt   := x.dflt
  pa     := x.pa
  chime  := x.chime
  cue    := none
  origin := some p

/-- R79. -/
def announceBody (p : Port) (bs : List Byte) (s : State) : Answer :=
  match (announceOf bs).filter announceLegal with
  | none => s.answer .badArgument
  | some x =>
    if s.ctl.op = .standby ∨ (x.kind = .cab ∧ s.ctl.op = .fallback) then s.answer .refusedState
    else if s.annFull x.kind then s.answer .full
    else
      let (s, n) := s.takeNumber
      (s.enterAnnounce (x.item p n)).ok (bytesLE 2 n)

/-- ANNOUNCE (R79). -/
def execAnnounce (p : Port) (s : State) : Out := (s.take p .announce (announceBody p)).done

/-- R90. -/
def announceCancelBody (n : Nat) (s : State) : Answer :=
  if s.ann.queue.any fun x => x.number == n then
    ((s.dropItems (fun x => x.number == n) .cancelled).quietCheck).answer .ok
  else if (s.ann.current.map (·.item.number)) = some n then (s.cutShort .cancelled).answer .ok
  else s.answer .notFound

/-- ANNOUNCE_CANCEL (R90). -/
def execAnnounceCancel (p : Port) (s : State) : Out :=
  (s.take p .announceCancel fun bs s => withWord bs s announceCancelBody).done

/-! ## ANNOUNCE-READ (R97) -/

/-- R97: what the current announcement holds for one programme that is ON; programme 0 shows the clip at its PA list position. -/
def Current.voiceBytes (c : Current) (settled : Tab Bool 13) (p : Prog) : List Byte :=
  let v := c.voices.get p
  bytesLE 2 v.chimeId ++ bytesLE 2 (v.speechIds.getD (if p = 0 then c.paPos else 0) 0) ++
    [flagByte v.finished, flagByte (settled.get p)]

/-- R97: the current announcement, as a list of at most one (log 9). -/
def State.currentBytes (s : State) : List Byte :=
  match s.ann.current with
  | none => [0]
  | some c =>
    let on := allProgs.filter s.progOn
    1 :: (bytesLE 2 c.item.number ++ [byteOf (annKindCode c.item.kind), byteOf c.item.stopIndex,
      byteOf (originCode c.item.origin), byteOf (phaseCode c.phase), byteOf c.paPos, byteOf on.length] ++
      on.flatMap (c.voiceBytes s.ann.settled))

/-- R97: a waiting item. -/
def waitingBytes (x : AnnItem) : List Byte :=
  bytesLE 2 x.number ++ [byteOf (annKindCode x.kind), byteOf x.stopIndex] ++
    (match x.b with
      | some b => bytesLE 4 b
      | none => []) ++
    [byteOf (originCode x.origin)]

/-- R97: a live channel. -/
def State.liveBytes (s : State) : Option LiveOn → List Byte
  | none => [0]
  | some l => 1 :: byteOf l.owner.val :: (bytesLE 4 l.start.toNat ++ bytesLE 4 (Config.liveLimit - s.since l.start))

/-- R97: what ANNOUNCE-READ answers. -/
def State.announceBytes (s : State) : List Byte :=
  s.currentBytes ++ (byteOf s.ann.queue.length :: s.ann.queue.flatMap waitingBytes) ++
    s.liveBytes s.ann.live.driver ++ s.liveBytes s.ann.live.guide ++
    [flagByte s.ann.lost.driver, flagByte s.ann.lost.guide] ++ bytesLE 2 s.ann.nextNumber

/-- ANNOUNCE_READ (R97). -/
def execAnnounceRead (p : Port) (s : State) : Out :=
  .next (s.take p .announceRead fun bs s => noArgs bs s fun s => s.ok s.announceBytes)

/-! ## Live channels (R92 to R94) -/

/-- A live channel's state set. -/
def State.setLive (c : Channel) (x : Option LiveOn) (s : State) : State :=
  s.onAnn fun a => { a with live := a.live.set c x }

/-- R92, R93: a command whose payload is a channel. -/
def withChannel (bs : List Byte) (s : State) (k : Channel → State → Answer) : Answer :=
  match (oneNumber 1 bs).bind channelOf with
  | some c => k c s
  | none => s.answer .badArgument

/-- R92. -/
def liveOnBody (p : Port) (c : Channel) (s : State) : Answer :=
  if s.ctl.op = .standby then s.answer .refusedState
  else
    let on := (s.setLive c (some ⟨p, s.ctl.time⟩)).ok (bytesLE 4 s.ctl.time.toNat)
    match s.ann.live.get c with
    | none => on
    | some l => if l.owner = p then on else s.answer .inUse

/-- LIVE_ON (R92). -/
def execLiveOn (p : Port) (s : State) : Out := .next (s.take p .liveOn fun bs s => withChannel bs s (liveOnBody p))

/-- R93. -/
def liveOffBody (p : Port) (c : Channel) (s : State) : Answer :=
  match s.ann.live.get c with
  | none => s.answer .notActive
  | some l => if l.owner = p then ((s.liveTurnsOff c).afterLive c).answer .ok else s.answer .notOwner

/-- LIVE_OFF (R93). -/
def execLiveOff (p : Port) (s : State) : Out := (s.take p .liveOff fun bs s => withChannel bs s (liveOffBody p)).done

/-- R94: a channel times out once the time base, counted from its start time, has reached 90,000 ms; before that the event cannot take
place (log 2). -/
def State.liveTimeout (c : Channel) (s : State) : State :=
  match s.ann.live.get c with
  | none => s
  | some l =>
    if Config.liveLimit ≤ s.since l.start then
      ((s.liveTurnsOff c).post .liveTimeout (channelCode c) l.owner.val 0).afterLive c
    else s

/-- LIVE_TIMEOUT (R94). -/
def execLiveTimeout (c : Channel) (s : State) : Out := (s.liveTimeout c).done

/-! ## The microphones (R96) -/

/-- R96: the end of a channel's period. -/
def State.micPeriod (c : Channel) (frame : Option (List (BitVec 16))) (s : State) : State :=
  let live := (s.ann.live.get c).isSome
  let lost := s.ann.lost.get c
  let t := s.onAnn fun a => { a with frames := a.frames.set c (frame.map fun l => l.map (·.toInt)) }
  match frame with
  | some _ => t.onAnn fun a => { a with lost := a.lost.set c false }
  | none =>
    if live && !lost then
      (t.fileFault .liveInputLost (channelCode c) 0).onAnn fun a => { a with lost := a.lost.set c true }
    else t

/-- MIC_PERIOD_END (R96). -/
def execMicPeriodEnd (c : Channel) (frame : Option (List (BitVec 16))) (s : State) : Out := .next (s.micPeriod c frame)

end Sys2Proof.Machine
end

