-- ==== Sys2Proof/Machine/Ports.lean ====
section
/-! DEFINITION. The ports: transactions (R178, R179), the conditional test (R161), the event, reservation and park commands, the PARK
line, RESTART and power-on reset (R181 to R189, R30, R55). -/

namespace Sys2Proof.Machine

/-! ## TRANSACTION (R178, R179) -/

/-- A port's slot set. -/
def State.setResp (p : Port) (x : RespSlot) (s : State) : State := s.onPort p fun ps => { ps with slot := x }

/-- The slot becomes READY with a response that carries no payload. -/
def State.reply (p : Port) (tag : Byte) (st : Status) (s : State) : State := s.setResp p (.ready ⟨tag, st, []⟩)

/-- R178: what the slot clocks out behind chip select; none for the empty slot, which is 0x00 in every byte. -/
def RespSlot.bytes : RespSlot → Option (List Byte)
  | .empty => none
  | .inHand h => some (responseBytes ⟨h.tag, .inHand, []⟩)
  | .ready r => some (responseBytes r)

/-- `n` bytes clocked out: the slot's content and, behind its last byte, free bytes from number `seq` on (log 6). -/
def clockOut (x : RespSlot) (n seq : Nat) : List Byte :=
  match x.bytes with
  | none => List.replicate n 0
  | some l => l.take n ++ (List.range (n - l.length)).map fun i => Config.trailingByte (seq + i)

/-- How many free bytes a transaction of `n` bytes clocks out. -/
def freeBytes (x : RespSlot) (n : Nat) : Nat :=
  match x.bytes with
  | none => 0
  | some l => n - l.length

/-- R178: the bytes clocked out. -/
def State.clock (p : Port) (n : Nat) (s : State) : State :=
  let x := (s.ports.get p).slot
  let s := s.onPort p fun ps => { ps with dout := clockOut x n s.fillSeq }
  { s with fillSeq := s.fillSeq + freeBytes x n }

/-- R179: a frame that fails check 1, 2 or 3. -/
def State.badFrame (p : Port) (e : FrameError) (tag : Byte) (s : State) : State :=
  (s.reply p tag .badFrame).fileFault .badFrame p.val e.code

/-- R179: the bytes clocked in with the slot EMPTY or READY; a READY response has been delivered (R178). -/
def State.arrive (p : Port) (bytes : List Byte) (s : State) : State :=
  let s := s.setResp p .empty
  match checkFrame bytes with
  | .poll => s
  | .bad e tag => s.badFrame p e tag
  | .unknown tag => s.reply p tag .unknownCommand
  | .badFlag tag => s.reply p tag .badArgument
  | .taken tag c cond payload => s.setResp p (.inHand ⟨tag, c, cond, false, payload⟩)

/-- R178: a transaction; under IN-HAND the frame that arrives is discarded unchecked. -/
def State.transact (p : Port) (bytes : List Byte) (s : State) : State :=
  match (s.ports.get p).slot with
  | .inHand _ => s.clock p bytes.length
  | _ => (s.clock p bytes.length).arrive p bytes

/-- TRANSACTION (R178). -/
def execTransaction (p : Port) (bytes : List Byte) (s : State) : Out := .next (s.transact p bytes)

/-! ## CONDITIONAL_TEST (R160, R161) -/

/-- R161: the Reservation Unit's test of the port's conditional write. A write that fails is answered at once; one that passes goes to its
owning block with its reservation standing, so that the block's event can hold the test and its outcome at one moment (log 25). -/
def State.conditionalTest (p : Port) (s : State) : State :=
  match (s.ports.get p).slot with
  | .inHand h =>
    if h.conditional && !h.tested then
      if s.testPasses p h then s.setResp p (.inHand { h with tested := true })
      else (s.dropResv p).reply p h.tag .reservationLost
    else s
  | _ => s

/-- CONDITIONAL_TEST (R161). -/
def execConditionalTest (p : Port) (s : State) : Out := .next (s.conditionalTest p)

/-! ## IDENTIFY (R181) -/

/-- The figures of 00_scope.md section 2 that IDENTIFY answers: vendor, part, revision and capacities, with their sizes in bytes. -/
def identity : List (Nat × Nat) :=
  [(2, 0x5A31), (2, 3120), (1, 1), (2, 4096), (1, 192), (2, 3072), (1, 3), (1, 64), (2, 256), (1, 13), (1, 80), (1, 48), (1, 4),
    (1, 3), (1, 16), (2, 400)]

/-- R181: what IDENTIFY answers. -/
def State.identifyBytes (s : State) : List Byte :=
  identity.flatMap (fun x => bytesLE x.1 x.2) ++ bytesLE 4 s.ctl.time.toNat ++ [byteOf (opStateCode s.ctl.op)]

/-- IDENTIFY (R181). -/
def execIdentify (p : Port) (s : State) : Out :=
  .next (s.take p .identify fun bs s => noArgs bs s fun s => s.ok s.identifyBytes)

/-! ## Events (R183) -/

/-- R183. -/
def eventReadBody (p : Port) (bs : List Byte) (s : State) : Answer :=
  match oneNumber 1 bs with
  | none => s.answer .badArgument
  | some n =>
    if n = 0 ∨ 16 < n then s.answer .badArgument
    else
      let ps := s.ports.get p
      let got := ps.queue.take n
      let rest := ps.queue.drop n
      let s := s.onPort p fun ps => { ps with queue := rest, overrun := false }
      let s := if ps.overrun then s.fileFault .eventOverrun p.val 0 else s
      s.ok (byteOf got.length :: (got.flatMap eventBytes ++ [byteOf rest.length, flagByte ps.overrun]))

/-- EVENT_READ (R183). -/
def execEventRead (p : Port) (s : State) : Out := .next (s.take p .eventRead (eventReadBody p))

/-- R183. -/
def eventMaskBody (p : Port) (bs : List Byte) (s : State) : Answer :=
  match eventMaskOf bs with
  | some m => (s.onPort p fun ps => { ps with mask := m }).ok (bytesLE 3 m.toNat)
  | none => s.answer .badArgument

/-- EVENT_MASK (R183). -/
def execEventMask (p : Port) (s : State) : Out := .next (s.take p .eventMask (eventMaskBody p))

/-! ## Reservations (R159) -/

/-- R159. -/
def reserveBody (p : Port) (bs : List Byte) (s : State) : Answer :=
  match recNameOf bs with
  | some r => (s.onPort p fun ps => { ps with resv := some r }).ok (s.recordBytes r)
  | none => s.answer .badArgument

/-- RESERVE (R159). -/
def execReserve (p : Port) (s : State) : Out := .next (s.take p .reserve (reserveBody p))

/-- R159: a reservation as a list of at most one record (log 9). -/
def reservationBytes : Option RecName → List Byte
  | some r => [1, byteOf (recClassCode r.cls), byteOf r.idx]
  | none => [0]

/-- RESERVATION_READ (R159). -/
def execReservationRead (p : Port) (s : State) : Out :=
  .next (s.take p .reservationRead fun bs s => noArgs bs s fun s => s.ok (reservationBytes (s.ports.get p).resv))

/-! ## Park (R186) -/

/-- R186. -/
def parkBody (s : State) : Answer :=
  match s.ctl.op with
  | .run => (s.enterPark .command .parkCommand).answer .ok
  | .parkPending | .standby => (s.setParkHold (some .command)).answer .ok
  | .fallback => s.answer .refusedState

/-- PARK (R186). -/
def execPark (p : Port) (s : State) : Out := (s.take p .park fun bs s => noArgs bs s parkBody).done

/-- R186. -/
def unparkBody (s : State) : Answer :=
  match s.ctl.op with
  | .parkPending | .standby => (s.leavePark .unpark).answer .ok
  | .run | .fallback => s.answer .refusedState

/-- UNPARK (R186). -/
def execUnpark (p : Port) (s : State) : Out := .next (s.take p .unpark fun bs s => noArgs bs s unparkBody)

/-- The level of the PARK line set. -/
def State.setParkLine (b : Bool) (s : State) : State := s.onCtl fun c => { c with parkLine := b }

/-- R186: what Operating Control does at the PARK line going active. -/
def State.lineActive (s : State) : State :=
  if s.ctl.op = .run then s.enterPark .line .parkLine else s

/-- PARK_LINE_ACTIVE (R186); a line already active cannot go active (log 2). -/
def execParkLineActive (s : State) : Out :=
  if s.ctl.parkLine then .next s else (s.setParkLine true).lineActive.done

/-- R186: what Operating Control does at the PARK line going inactive. -/
def State.lineInactive (s : State) : State :=
  if (s.ctl.op = .parkPending ∨ s.ctl.op = .standby) ∧ s.ctl.hold = some .line then s.leavePark .lineRelease else s

/-- PARK_LINE_INACTIVE (R186); a line already inactive cannot go inactive (log 2). -/
def execParkLineInactive (s : State) : Out :=
  .next (if s.ctl.parkLine then (s.setParkLine false).lineInactive else s)

/-! ## RESTART (R188) -/

/-- R30 step 1: a RETIRING entry is freed. -/
def Store.freeRetiring (st : Store) (n : EntryNo) : Store :=
  match st.map.get n with
  | some e => if e.state = .retiring then st.freeEntry n else st
  | none => st

/-- R30 steps 2 and 3: a slot's LOADING entry and chain are freed, and it becomes CLOSED. -/
def Store.dropSlot (st : Store) (p : Port) : Store :=
  match (st.slots.get p).load with
  | some l => ((st.freeEntry l.entry).freeChain (l.chain.map (·.first))).setSlot p .closed
  | none => st

/-- R30: the Clip Store at a RESTART. A burst in progress completes with its data discarded (R22, R23). -/
def Store.restart (st : Store) : Store :=
  let st := (indices 3).foldl Store.dropSlot ((indices 192).foldl Store.freeRetiring st)
  { st with
    filling := [], eligible := [], scrub := [], noted := []
    burst := st.burst.map fun b => { b with wanted := false }
    map := Tab.map (Option.map fun (e : Entry) => { e with useCount := 0 }) st.map }

/-- R55: the Route Unit at a RESTART. -/
def Route.restart (r : Route) : Route :=
  let stops := Tab.map (Option.map fun (x : Stop) => { x with state := .ahead, request := false }) r.stops
  { stops := stops
    segments := Tab.map (Option.map fun (x : Segment) => { x with state := .armed, outstanding := 0, played := 0 }) r.segments
    cursor := { Cursor.unset with nextStop := (indices 64).find? fun i => (stops.get i).isSome } }

/-- R118: the Programme Mixer at a RESTART. A block in progress goes on, silent. -/
def Mixer.restart (m : Mixer) : Mixer :=
  { Mixer.reset with block := Tab.map (Option.map fun _ => Block.silent) m.block, out := m.out }

/-- R134: the Seat Link at a RESTART. -/
def SeatLink.restart (k : SeatLink) (time : Count32) : SeatLink := { SeatLink.reset time with poll := k.killPoll.poll }

/-- R156: the Deck Light Engine at a RESTART. -/
def Light.restart (g : Light) : Light :=
  { Light.reset with zones := g.zones, acked := g.acked, awaiting := g.awaiting }

/-- R165, R188: a port at a RESTART; a command in hand is lost. -/
def PortState.restart (ps : PortState) : PortState :=
  { ps with
    queue := [], overrun := false, resv := none
    slot := match ps.slot with
      | .inHand _ => .empty
      | x => x }

/-- R188: the values that every block takes at a RESTART. -/
def State.restartValues (s : State) : State :=
  { s with
    store := s.store.restart, route := s.route.restart, com := Commentary.reset, ann := Announcer.reset
    mix := s.mix.restart, seat := s.seat.restart s.ctl.time, light := s.light.restart
    faults := { s.faults with pending := false }, ports := s.ports.map PortState.restart
    ctl := { s.ctl with op := .run, hold := none } }

/-- R188, R189: a PARK line that is active after the reset is taken as going active. -/
def State.lineAfterReset (s : State) : State := if s.ctl.parkLine then s.lineActive else s

/-- R188: a RESTART. -/
def State.restart (s : State) : State :=
  (s.restartValues.post .stateChanged (opStateCode .run) (opStateCode s.ctl.op) (causeCode .restart)).lineAfterReset

/-- RESTART (R188). -/
def execRestart (p : Port) (s : State) : Out :=
  (s.take p .restart fun bs s => noArgs bs s fun s => s.restart.answer .ok).done

/-- POWER_ON_RESET (R189). The PARK line is an input and keeps its level; STATE-CHANGED stands in `State.reset`. -/
def execPowerOnReset (s : State) : Out :=
  (({ State.reset with pending := s.pending, fillSeq := s.fillSeq }.setParkLine s.ctl.parkLine).lineAfterReset).done

end Sys2Proof.Machine
end

