-- ==== Sys2Proof/Machine/RouteCommands.lean ====
section
/-! DEFINITION. The Route Unit's commands (R32, R36 to R41, R46, R47, R49). -/

namespace Sys2Proof.Machine

/-- R32: the answer to POSITION and JUMP. -/
def State.fixAnswer (s : State) : Answer := s.ok (fixBytes s.route.cursor)

/-- R32. -/
def positionBody (p : Port) (bs : List Byte) (s : State) : Answer :=
  match bs with
  | [d0, d1, d2, d3, v] =>
    let d := natLE [d0, d1, d2, d3]
    if Config.maxDistance < d then s.answer .badArgument else (s.position p d v.toNat).fixAnswer
  | _ => s.answer .badArgument

/-- POSITION (R32). -/
def execPosition (p : Port) (s : State) : Out := (s.take p .position (positionBody p)).done

/-- R36. -/
def jumpBody (p : Port) (bs : List Byte) (s : State) : Answer :=
  match oneNumber 4 bs with
  | some d => if Config.maxDistance < d then s.answer .badArgument else (s.jump p d).fixAnswer
  | none => s.answer .badArgument

/-- JUMP (R36). -/
def execJump (p : Port) (s : State) : Out := (s.take p .jump (jumpBody p)).done

/-- ROUTE_CLEAR (R37). -/
def execRouteClear (p : Port) (s : State) : Out :=
  (s.take p .routeClear fun bs s => noArgs bs s fun s => s.routeClear.answer .ok).done

/-- CURSOR_READ (R38). -/
def execCursorRead (p : Port) (s : State) : Out :=
  .next (s.take p .cursorRead fun bs s => noArgs bs s fun s => s.ok (cursorBytes s.route.cursor))

/-! ## Stops -/

/-- R40 test 3: whether another record stands out of approach order with a new approach distance at an index. -/
def Route.outOfOrder (r : Route) (i : StopNo) (a : Nat) : Bool :=
  (indices 64).any fun j =>
    match r.stops.get j with
    | some y => (decide (j < i) && decide (a ≤ y.a)) || (decide (i < j) && decide (y.a ≤ a))
    | none => false

/-- R40: an accepted STOP-WRITE. -/
def State.writeStop (i : StopNo) (x : Stop) (s : State) : State :=
  let c := s.route.cursor
  let x := { x with request := false, state := if !c.set || decide (c.distance < x.b) then .ahead else .passed }
  ((s.touch (stopRec i)).setStop i (some x)).recomputeNext

/-- R40. -/
def stopWriteBody (bs : List Byte) (s : State) : Answer :=
  match (stopOf bs).filter fun y => stopLegal y.1 y.2 with
  | none => s.answer .badArgument
  | some (k, x) =>
    match toIndex 64 k with
    | none => s.answer .badArgument
    | some i =>
      if (s.route.stops.get i).map (·.state) = some .approaching then s.answer .inUse
      else if s.route.outOfOrder i x.a then s.answer .order
      else (s.writeStop i x).answer .ok

/-- STOP_WRITE (R40). -/
def execStopWrite (p : Port) (s : State) : Out := .next (s.take p .stopWrite stopWriteBody)

/-- R41. -/
def stopRemoveBody (i : StopNo) (s : State) : Answer :=
  match s.route.stops.get i with
  | none => s.answer .notFound
  | some x =>
    if x.state = .approaching then s.answer .inUse
    else (((s.setStop i none).dropStop i).recomputeNext).answer .ok

/-- STOP_REMOVE (R41). -/
def execStopRemove (p : Port) (s : State) : Out :=
  (s.take p .stopRemove fun bs s => withIndex 64 bs s stopRemoveBody).done

/-- R47. -/
def stopSkipBody (i : StopNo) (s : State) : Answer :=
  match s.route.stops.get i with
  | none => s.answer .notFound
  | some x =>
    if x.state = .ahead ∨ x.state = .approaching then
      let d := if s.route.cursor.set then s.route.cursor.distance else 0
      let s := (s.setStop i (some { x with state := .skipped, request := false })).dropStop i
      ((s.postStop i .skipped d).recomputeNext).answer .ok
    else s.answer .refusedState

/-- STOP_SKIP (R47). -/
def execStopSkip (p : Port) (s : State) : Out :=
  (s.take p .stopSkip fun bs s => withIndex 64 bs s stopSkipBody).done

/-- R46. -/
def stopRequestBody (p : Port) (s : State) : Answer :=
  match s.requestStop 0 p.val with
  | (s, some i) => s.ok [byteOf i.val]
  | (s, none) => s.answer .notFound

/-- STOP_REQUEST (R46). -/
def execStopRequest (p : Port) (s : State) : Out :=
  (s.take p .stopRequest fun bs s => noArgs bs s (stopRequestBody p)).done

/-- STOP_READ (R38). -/
def execStopRead (p : Port) (s : State) : Out :=
  .next (s.take p .stopRead fun bs s => withIndex 64 bs s fun i s => s.ok (stopBytes i (s.route.stops.get i)))

/-! ## Segments (R49) -/

/-- R49: an accepted SEGMENT-WRITE. -/
def State.writeSegment (i : SegNo) (x : Segment) (s : State) : State :=
  let c := s.route.cursor
  (s.touch (segmentRec i)).setSegment i (some { x with
    state := if !c.set || decide (c.distance < x.t) then .armed else .missed, outstanding := 0, played := 0 })

/-- R49. -/
def segmentWriteBody (bs : List Byte) (s : State) : Answer :=
  match (segmentOf bs).filter fun y => segmentLegal y.2 with
  | none => s.answer .badArgument
  | some (k, x) =>
    match toIndex 256 k with
    | none => s.answer .badArgument
    | some i =>
      if (s.route.segments.get i).map (·.state) = some .triggered then s.answer .inUse
      else (s.writeSegment i x).answer .ok

/-- SEGMENT_WRITE (R49). -/
def execSegmentWrite (p : Port) (s : State) : Out := .next (s.take p .segmentWrite segmentWriteBody)

/-- R49. -/
def segmentRemoveBody (i : SegNo) (s : State) : Answer :=
  match s.route.segments.get i with
  | none => s.answer .notFound
  | some x => if x.state = .triggered then s.answer .inUse else (s.setSegment i none).answer .ok

/-- SEGMENT_REMOVE (R49). -/
def execSegmentRemove (p : Port) (s : State) : Out :=
  .next (s.take p .segmentRemove fun bs s => withIndex 256 bs s segmentRemoveBody)

/-- SEGMENT_READ (R38). -/
def execSegmentRead (p : Port) (s : State) : Out :=
  .next (s.take p .segmentRead fun bs s => withIndex 256 bs s fun i s => s.ok (segmentBytes i (s.route.segments.get i)))

end Sys2Proof.Machine
end

