-- ==== Sys2Proof/Machine/Seats.lean ====
section
/-! DEFINITION. The Seat Link's commands and events (R120 to R126, R128, R133). -/

namespace Sys2Proof.Machine

/-! ## SEAT-CONFIG (R120) -/

/-- R120: a seat record brought into line with a configured count. -/
def Seat.configure (n : Nat) (time : Count32) (i : SeatNo) (x : Seat) : Seat :=
  let y : Seat :=
    if n ≤ i.val then (if x.state = .disabled then x else ⟨.disabled, 0, 0, false, x.lastChange⟩)
    else if x.state = .disabled then ⟨.unknown, 0, 0, false, x.lastChange⟩
    else x
  if y.state = x.state ∧ y.selection = x.selection then y else { y with lastChange := time }

/-- R126: LINK-BREAK is filed where every configured seat is OFFLINE now and was not before, even if no seat has left OFFLINE (log 27). -/
def State.linkBreakTest (before : Bool) (s : State) : State :=
  if s.seat.broken && !before then s.fileFault .linkBreak s.seat.count 0 else s

/-- R120: an accepted SEAT-CONFIG. -/
def State.seatConfigure (n holdoff : Nat) (s : State) : State :=
  let before := s.seat.broken
  let s := s.onSeat fun k => { k with
    count := n, holdoff := holdoff
    seats := Tab.ofFn fun i => (k.seats.get i).configure n s.ctl.time i
    pointer := if n ≤ k.pointer then 0 else k.pointer
    poll := k.poll.map fun x => { x with dead := x.dead || decide (n ≤ x.seat.val) } }
  (((s.touch seatConfigRec).recount).expireDue).linkBreakTest before

/-- R120. -/
def seatConfigBody (bs : List Byte) (s : State) : Answer :=
  match bs with
  | [c, h0, h1] =>
    if c.toNat = 0 then s.answer .badArgument
    else
      let s := s.seatConfigure (min 80 c.toNat) (min 60000 (natLE [h0, h1]))
      s.ok (seatConfigBytes s.seat)
  | _ => s.answer .badArgument

/-- SEAT_CONFIG (R120). -/
def execSeatConfig (p : Port) (s : State) : Out := .next (s.take p .seatConfig seatConfigBody)

/-! ## SEAT-READ and SEAT-SUMMARY (R133) -/

/-- R133: a seat record. -/
def seatBytes (x : Seat) : List Byte :=
  [byteOf (seatStateCode x.state), byteOf x.selection, byteOf x.misses, flagByte x.nodeFault] ++ bytesLE 4 x.lastChange.toNat

/-- SEAT_READ (R133). -/
def execSeatRead (p : Port) (s : State) : Out :=
  .next (s.take p .seatRead fun bs s => withIndex 80 bs s fun i s => s.ok (seatBytes (s.seat.seats.get i)))

/-- R133: the number of configured seats in a state. -/
def SeatLink.countState (k : SeatLink) (x : SeatState) : Nat :=
  ((indices 80).filter fun i => decide (i.val < k.count) && (k.seats.get i).state == x).length

/-- R133: the milliseconds left in a programme's holdoff, 0 when none runs. -/
def State.holdLeft (s : State) (p : Prog) : Nat :=
  match s.seat.hold.get p with
  | some t => s.seat.holdoff - s.since t
  | none => 0

/-- R133: a programme's part of the summary. -/
def State.summaryBytes (s : State) (p : Prog) : List Byte :=
  byteOf (s.seat.occ.get p) ::
    (if s.progOn p then byteOf (activityCode ((s.seat.act.get p).getD .awake)) :: bytesLE 2 (s.holdLeft p) else [])

/-- R133: what SEAT-SUMMARY answers. -/
def State.seatSummaryBytes (s : State) : List Byte :=
  seatConfigBytes s.seat ++ [byteOf s.seat.pointer, flagByte s.polling, byteOf (s.seat.countState .unknown),
    byteOf (s.seat.countState .active), byteOf (s.seat.countState .idle), byteOf (s.seat.countState .offline)] ++
    langProgs.flatMap s.summaryBytes

/-- SEAT_SUMMARY (R133). -/
def execSeatSummary (p : Port) (s : State) : Out :=
  .next (s.take p .seatSummary fun bs s => noArgs bs s fun s => s.ok s.seatSummaryBytes)

/-! ## Polls (R121 to R126) -/

/-- R121: a poll begins to the seat that the pointer names, and the pointer advances. -/
def State.pollBegin (s : State) : State :=
  match s.seat.poll, toIndex 80 s.seat.pointer with
  | none, some i =>
    if s.polling then
      s.onSeat fun k => { k with
        poll := some ⟨i, false⟩, pointer := if k.count ≤ k.pointer + 1 then 0 else k.pointer + 1 }
    else s
  | _, _ => s

/-- POLL_BEGIN (R121). -/
def execPollBegin (s : State) : Out := .next s.pollBegin

/-- SEAT-CHANGED. -/
def State.postSeat (i : SeatNo) (s : State) : State :=
  let x := s.seat.seats.get i
  s.post .seatChanged i.val (seatStateCode x.state) x.selection

/-- R125: a poll ends with no valid reply. -/
def State.noReply (i : SeatNo) (s : State) : State :=
  let x := s.seat.seats.get i
  let before := s.seat.broken
  let misses := if x.misses < 3 then x.misses + 1 else x.misses
  if x.misses = 2 ∧ (x.state = .unknown ∨ x.state = .active ∨ x.state = .idle) then
    let s := (s.setSeat i { x with misses := misses, state := .offline }).postSeat i
    ((s.fileFault .nodeSilent i.val 0).recount).linkBreakTest before
  else s.setSeat i { x with misses := misses }

/-- R192: what a valid reply carries. -/
structure Reply where
  plugIn : Bool
  press  : Bool
  fault  : Bool
  sel    : Nat
deriving DecidableEq, Repr

/-- R122, R192: a valid reply of the seat polled, the low byte of its CRC first (log 30). -/
def replyOf (i : SeatNo) : List Byte → Option Reply
  | [n, st, sel, c0, c1] =>
    if n.toNat = i.val ∧ [c0, c1] = crcField [n, st, sel] then
      some ⟨st.getLsbD 0, st.getLsbD 1, st.getLsbD 2, if 12 < sel.toNat then 0 else sel.toNat⟩
    else none
  | _ => none

/-- R123: the node-fault flag of a valid reply. -/
def State.nodeFaultStep (i : SeatNo) (fault : Bool) (s : State) : State :=
  let x := s.seat.seats.get i
  let t := s.setSeat i { x with nodeFault := fault }
  if fault && !x.nodeFault then t.fileFault .nodeFault i.val 0 else t

/-- R122: a valid reply. -/
def State.validReply (i : SeatNo) (r : Reply) (s : State) : State :=
  let s := s.nodeFaultStep i r.fault
  let x := s.seat.seats.get i
  let y := { x with
    misses := 0, selection := r.sel, state := if r.plugIn && decide (1 ≤ r.sel) then .active else .idle }
  let t := s.setSeat i y
  let t := if y.state = x.state ∧ y.selection = x.selection then t else t.postSeat i
  let t := t.recount
  if r.press then (t.requestStop 1 i.val).1 else t

/-- R121: the poll in progress ends; its outcome is applied unless it is to be discarded. -/
def State.pollEnds (f : SeatNo → State → State) (s : State) : State :=
  match s.seat.poll with
  | none => s
  | some x =>
    let s := s.onSeat fun k => { k with poll := none }
    if x.dead || (s.seat.seats.get x.seat).state == .disabled then s else f x.seat s

/-- R122, R125: the arrival of a node's bytes. A reply that is not valid is no reply. -/
def State.seatReply (bs : List Byte) (s : State) : State :=
  s.pollEnds fun i s =>
    match replyOf i bs with
    | some r => s.validReply i r
    | none => s.noReply i

/-- SEAT_REPLY (R122). -/
def execSeatReply (bs : List Byte) (s : State) : Out := (s.seatReply bs).done

/-- REPLY_WINDOW_CLOSE (R125). -/
def execReplyWindowClose (s : State) : Out := .next (s.pollEnds State.noReply)

/-! ## HOLDOFF_EXPIRY (R128) -/

/-- HOLDOFF_EXPIRY (R128): a running holdoff that is due expires; otherwise the event cannot take place (log 2). -/
def execHoldoffExpiry (p : Prog) (s : State) : Out := .next (if s.holdDue p then s.expireHold p else s)

end Sys2Proof.Machine
end

