-- ==== Sys2Proof/Machine/Dispatch.lean ====
section
/-! DEFINITION. One arm for each row of spec/opcode_table.json, each a direct call of its meaning. -/

namespace Sys2Proof.Machine

/-- A command's or event's effect on everything but the queue of events that wait. -/
def exec (i : Instr) (s : State) : Host.Outcome State Fault Refusal :=
  match i with
  | .transaction p bytes => Sys2Proof.Machine.execTransaction p bytes s
  | .conditionalTest p => Sys2Proof.Machine.execConditionalTest p s
  | .identify p => Sys2Proof.Machine.execIdentify p s
  | .eventRead p => Sys2Proof.Machine.execEventRead p s
  | .eventMask p => Sys2Proof.Machine.execEventMask p s
  | .reserve p => Sys2Proof.Machine.execReserve p s
  | .reservationRead p => Sys2Proof.Machine.execReservationRead p s
  | .park p => Sys2Proof.Machine.execPark p s
  | .unpark p => Sys2Proof.Machine.execUnpark p s
  | .restart p => Sys2Proof.Machine.execRestart p s
  | .loadOpen p => Sys2Proof.Machine.execLoadOpen p s
  | .loadData p => Sys2Proof.Machine.execLoadData p s
  | .loadClose p => Sys2Proof.Machine.execLoadClose p s
  | .loadAbort p => Sys2Proof.Machine.execLoadAbort p s
  | .clipDelete p => Sys2Proof.Machine.execClipDelete p s
  | .clipPin p => Sys2Proof.Machine.execClipPin p s
  | .clipUnpin p => Sys2Proof.Machine.execClipUnpin p s
  | .clipQuery p => Sys2Proof.Machine.execClipQuery p s
  | .storeStatus p => Sys2Proof.Machine.execStoreStatus p s
  | .position p => Sys2Proof.Machine.execPosition p s
  | .jump p => Sys2Proof.Machine.execJump p s
  | .routeClear p => Sys2Proof.Machine.execRouteClear p s
  | .cursorRead p => Sys2Proof.Machine.execCursorRead p s
  | .stopWrite p => Sys2Proof.Machine.execStopWrite p s
  | .stopRemove p => Sys2Proof.Machine.execStopRemove p s
  | .stopSkip p => Sys2Proof.Machine.execStopSkip p s
  | .stopRequest p => Sys2Proof.Machine.execStopRequest p s
  | .stopRead p => Sys2Proof.Machine.execStopRead p s
  | .segmentWrite p => Sys2Proof.Machine.execSegmentWrite p s
  | .segmentRemove p => Sys2Proof.Machine.execSegmentRemove p s
  | .segmentRead p => Sys2Proof.Machine.execSegmentRead p s
  | .commentaryRead p => Sys2Proof.Machine.execCommentaryRead p s
  | .announce p => Sys2Proof.Machine.execAnnounce p s
  | .announceCancel p => Sys2Proof.Machine.execAnnounceCancel p s
  | .announceRead p => Sys2Proof.Machine.execAnnounceRead p s
  | .liveOn p => Sys2Proof.Machine.execLiveOn p s
  | .liveOff p => Sys2Proof.Machine.execLiveOff p s
  | .programmeWrite p => Sys2Proof.Machine.execProgrammeWrite p s
  | .programmeRead p => Sys2Proof.Machine.execProgrammeRead p s
  | .mixCountClear p => Sys2Proof.Machine.execMixCountClear p s
  | .duckWrite p => Sys2Proof.Machine.execDuckWrite p s
  | .duckRead p => Sys2Proof.Machine.execDuckRead p s
  | .loudnessWrite p => Sys2Proof.Machine.execLoudnessWrite p s
  | .loudnessRead p => Sys2Proof.Machine.execLoudnessRead p s
  | .seatConfig p => Sys2Proof.Machine.execSeatConfig p s
  | .seatRead p => Sys2Proof.Machine.execSeatRead p s
  | .seatSummary p => Sys2Proof.Machine.execSeatSummary p s
  | .layerWrite p => Sys2Proof.Machine.execLayerWrite p s
  | .layerRead p => Sys2Proof.Machine.execLayerRead p s
  | .lightSet p => Sys2Proof.Machine.execLightSet p s
  | .lightStatus p => Sys2Proof.Machine.execLightStatus p s
  | .cueStart p => Sys2Proof.Machine.execCueStart p s
  | .cueStop p => Sys2Proof.Machine.execCueStop p s
  | .faultRead p => Sys2Proof.Machine.execFaultRead p s
  | .faultClear p => Sys2Proof.Machine.execFaultClear p s
  | .faultEnable p => Sys2Proof.Machine.execFaultEnable p s
  | .faultResume p => Sys2Proof.Machine.execFaultResume p s
  | .powerOnReset => Sys2Proof.Machine.execPowerOnReset s
  | .parkLineActive => Sys2Proof.Machine.execParkLineActive s
  | .parkLineInactive => Sys2Proof.Machine.execParkLineInactive s
  | .timeBaseTick upsets => Sys2Proof.Machine.execTimeBaseTick upsets s
  | .liveTimeout c => Sys2Proof.Machine.execLiveTimeout c s
  | .holdoffExpiry p => Sys2Proof.Machine.execHoldoffExpiry p s
  | .micPeriodEnd c frame => Sys2Proof.Machine.execMicPeriodEnd c frame s
  | .pollBegin => Sys2Proof.Machine.execPollBegin s
  | .seatReply bytes => Sys2Proof.Machine.execSeatReply bytes s
  | .replyWindowClose => Sys2Proof.Machine.execReplyWindowClose s
  | .blockStart p => Sys2Proof.Machine.execBlockStart p s
  | .blockDeadline p => Sys2Proof.Machine.execBlockDeadline p s
  | .dramGrant => Sys2Proof.Machine.execDramGrant s
  | .burstCompletion noise => Sys2Proof.Machine.execBurstCompletion noise s
  | .lightFrame => Sys2Proof.Machine.execLightFrame s
  | .lampLinkAnswer ack => Sys2Proof.Machine.execLampLinkAnswer ack s

end Sys2Proof.Machine
end

