-- ==== Sys2Proof/Safety.lean ====
section
/-! DEFINITION. The terms in which statements about the hub are made: a command in hand and its response, good parity, and the
invariants of a safe hub. -/

namespace Sys2Proof.Machine

/-! ## A command in hand, and its response (R179, R180) -/

/-- Port `p` has command `c` in hand as `h`, and its owning block may take it: a conditional write has passed its test, and passes it still
(R161, R164). -/
def State.holds (s : State) (p : Port) (c : Command) (h : InHand) : Prop :=
  (s.ports.get p).slot = .inHand h ∧ h.command = c ∧ (h.conditional = true → h.tested = true ∧ s.testPasses p h = true)

/-- Port `p`'s slot READY with a response to the command that was in hand as `h` (R180). -/
def State.withReply (p : Port) (h : InHand) (st : Status) (payload : List Byte) (s : State) : State :=
  s.onPort p fun ps => { ps with slot := .ready ⟨h.tag, st, payload⟩ }

/-- A write by port `p` refused with a status: the port's own reservation is cleared (R160), and nothing else has changed. -/
def State.refusedWrite (p : Port) (h : InHand) (st : Status) (s : State) : State := (s.dropResv p).withReply p h st []

/-- No stored link value and no clip map entry fails its parity, and no failure waits to be filed (R28). -/
def State.parityGood (s : State) : Prop := s.store.badLinks = [] ∧ s.store.badMap = [] ∧ s.store.noted = []

/-- A name that R157 gives a reservable record: its index lies within its class. -/
def RecName.real (r : RecName) : Prop := r.idx < recClassSize r.cls

/-! ## Invariants -/

/-- The queues, buffers and counters stay within the capacities that the manual gives them. -/
structure CapacitiesHold (s : State) : Prop where
  /-- R182: an event queue holds 16 records. -/
  events : ∀ p, (s.ports.get p).queue.length ≤ 16
  /-- R56: a commentary queue holds 4 items. -/
  commentary : ∀ p, (s.queueOf p).length ≤ 4
  /-- R77: the announcement queue holds 8 items. -/
  announce : s.ann.queue.length ≤ 8
  /-- R114: the mirror buffer holds 2 blocks. -/
  mirror : s.mix.mirror.length ≤ 2
  /-- R26: the scrub queue holds 8 requests. -/
  scrub : s.store.scrub.length ≤ 8
  /-- R111: a clamped-block count stops at 65,535. -/
  clamped : ∀ p, s.mix.clamped.get p ≤ 65535
  /-- R115: an underrun streak is below 16. -/
  streak : ∀ p, s.mix.streak.get p ≤ 15
  /-- R125: a miss count stops at 3. -/
  misses : ∀ i, (s.seat.seats.get i).misses ≤ 3

/-- Duck gains and their targets are at most 4096 (R105, R109), and every sample put out is a 16-bit sample (R110). -/
structure AudioBounded (s : State) : Prop where
  gains : ∀ p v, (s.voice p v).d ≤ 4096 ∧ (s.voice p v).target ≤ 4096
  blocks : ∀ p b, s.mix.block.get p = some b → ∀ v, b.target.get v ≤ 4096
  out : ∀ p, ∀ x ∈ s.mix.out.get p, -32768 ≤ x ∧ x ≤ 32767

/-- The seat table and its configuration agree (R119 to R121). -/
structure SeatsConfigured (s : State) : Prop where
  count : 1 ≤ s.seat.count ∧ s.seat.count ≤ 80
  holdoff : s.seat.holdoff ≤ 60000
  pointer : s.seat.pointer < s.seat.count
  /-- R119: a seat is DISABLED exactly when it is not configured. -/
  disabled : ∀ i, (s.seat.seats.get i).state = .disabled ↔ s.seat.count ≤ i.val
  selection : ∀ i, (s.seat.seats.get i).selection ≤ 12

/-- The decision and the holdoff of programme `p` agree with its occupancy (R128, R129): a programme that is OFF has no decision and
no holdoff; one that is ON and occupied is AWAKE with no holdoff; one that is ON and not occupied is AWAKE while a holdoff runs and
DORMANT without one. -/
def decisionAgrees (s : State) (p : Prog) : Prop :=
  if s.progOn p then
    if 0 < s.seat.occ.get p then s.seat.act.get p = some .awake ∧ s.seat.hold.get p = none
    else if (s.seat.hold.get p).isSome then s.seat.act.get p = some .awake
    else s.seat.act.get p = some .dormant
  else s.seat.act.get p = none ∧ s.seat.hold.get p = none

/-- What the Seat Link keeps for programme `p` agrees with the seat table: its occupancy is the number of seats that are ACTIVE and
select it (R127), and its decision agrees with that. -/
def activityAgrees (s : State) (p : Prog) : Prop :=
  s.seat.occ.get p = s.seat.count127 p ∧ decisionAgrees s p

/-- R99, R100: a programme record is legal. -/
def progLegal (p : Prog) (x : ProgRec) : Prop :=
  (∀ v, x.gains.get v ≤ 4096) ∧ x.master ≤ 8192 ∧
    if p = 0 then x.on = true ∧ x.lang = 0 ∧ x.guide = false ∧ x.mirror ≤ 12
    else 1 ≤ x.lang ∧ x.lang ≤ 63 ∧ x.mirror = 0

/-- R103: the targets of a ducker are at most 4096, and a class that the table does not hold for it stays without one. -/
def duckRowLegal (held : Quad Bool) (row : DuckRow) : Prop :=
  ∀ v, (row.get v).isSome = held.get v ∧ ∀ t, row.get v = some t → t ≤ 4096

/-- R104: a group of the loudness record is legal. -/
def loudLegal (g : LoudGroup) : Prop := g.k ≤ 64 ∧ g.v0 ≤ 120 ∧ 4096 ≤ g.lmax ∧ g.lmax ≤ 8192

/-- Every setting that a master writes lies within its range (R99, R100, R103, R104, R166, R183). -/
structure SettingsLegal (s : State) : Prop where
  progs : ∀ p, progLegal p (s.mix.progs.get p)
  /-- R100: at most one programme has the guide flag set. -/
  guide : ∀ p q, (s.mix.progs.get p).guide = true → (s.mix.progs.get q).guide = true → p = q
  duckAnnounce : duckRowLegal ⟨true, false, true, true⟩ s.mix.duck.announce
  duckDriver : duckRowLegal ⟨true, true, false, true⟩ s.mix.duck.liveDriver
  duckGuide : duckRowLegal ⟨true, true, false, true⟩ s.mix.duck.liveGuide
  duckStep : 1 ≤ s.mix.duck.r ∧ s.mix.duck.r ≤ 512
  headset : loudLegal s.mix.loud.headset
  pa : loudLegal s.mix.loud.pa
  faultMasks : ∀ i, (s.faults.banks.get i).mask.toNat < 2 ^ bankSize i
  eventMasks : ∀ p k, (s.ports.get p).mask.getLsbD k = true → 1 ≤ k ∧ k ≤ 18

/-- The sparse tables are in canonical form (Machine/Memory.lean): the DRAM (R1), the page link table (R2) and the wrong bits (log 5). -/
structure TablesCanonical (s : State) : Prop where
  dram : Memory.wf s.store.dram = true
  links : sparseWf Link.free s.store.links = true
  errs : sparseWf none s.store.dramErr = true

/-- The invariant of a hub: its capacities, its sound, its seat table, and each language programme's activity. -/
structure Sound (s : State) : Prop where
  caps : CapacitiesHold s
  audio : AudioBounded s
  seats : SeatsConfigured s
  activity : ∀ p, p ≠ 0 → activityAgrees s p

/-! ## The settings, and which events may change them -/

/-- What masters set, and the hub itself never changes. -/
structure Settings where
  progs      : Tab ProgRec 13
  duck       : DuckTable
  loud       : Loudness
  dim        : Nat
  floorC     : Colour
  fallback   : Colour
  seats      : Nat
  holdoff    : Nat
  faultMasks : Tab (BitVec 8) 6
  eventMasks : Tab (BitVec 24) 3
deriving DecidableEq, Repr

/-- The settings of a state. -/
def State.settings (s : State) : Settings where
  progs      := s.mix.progs
  duck       := s.mix.duck
  loud       := s.mix.loud
  dim        := s.light.dim
  floorC     := s.light.floorC
  fallback   := s.light.fallback
  seats      := s.seat.count
  holdoff    := s.seat.holdoff
  faultMasks := s.faults.banks.map (·.mask)
  eventMasks := s.ports.map (·.mask)

/-- The events that may change a setting: the writes of the settings, and the two resets. -/
def setsSettings : Instr → Bool
  | .programmeWrite _ | .duckWrite _ | .loudnessWrite _ | .lightSet _ | .seatConfig _ | .faultEnable _ | .eventMask _
  | .restart _ | .powerOnReset => true
  | _ => false

/-! ## The order of points along the route (R35) -/

/-- R35: among the points of one distance those of stops come before those of segments. -/
def Point.rank : Point → Nat
  | .approach _ => 0
  | .arrival _ _ => 0
  | .trigger _ => 1

/-- The index of a point's stop or segment. -/
def Point.index : Point → Nat
  | .approach i => i.val
  | .arrival i _ => i.val
  | .trigger i => i.val

/-- R35: one gathered point is evaluated before another: by distance, then stops before segments, then by index. -/
def pointBefore (x y : Nat × Point) : Prop :=
  x.1 < y.1 ∨ x.1 = y.1 ∧ (x.2.rank < y.2.rank ∨ x.2.rank = y.2.rank ∧ x.2.index < y.2.index)

end Sys2Proof.Machine
end

