-- ==== Sys2Proof/Certificates/Slice0/Obligations.lean ====
section
/-! DEFINITION. The statements about the hub, each formalising what the manual says a command, an event or the whole hub does. -/

section

open Sys2Proof Sys2Proof.Machine

/-! ## The hub as a machine -/

/-- Model's choice where the queue is empty (log 3): the hub idles. Otherwise the event at the front takes place with the queue's rest. -/
def Obligations.StepTakesTheFrontEvent : Prop :=
  ∀ s : State, (∀ c rest, s.pending = c :: rest → step s = exec c { s with pending := rest }) ∧ (s.pending = [] → step s = .next s)

/-! ## Frames and transactions -/

/-- Sections 11.1 and 11.2, R179, R190: a frame laid out by the manual passes every check, and is read as what was sent; bytes behind its
CRC are ignored. Every command code is told apart, and no bit of the tag, the flag, the length or the payload is lost. R179 and R190, the
frames that are not taken: on a port with no command in hand the response that waited has been clocked out, the slot holds the error, and,
for a sync, length or CRC error, BAD-FRAME is filed with the port and the error. -/
def Obligations.FramesReadBackAndDamageIsRefused : Prop :=
  (∀ (tag : Byte) (c : Command) (cond : Bool) (payload extra : List Byte),
     payload.length ≤ 400 → (cond = true → c.kind = .write) →
       checkFrame (encodeFrame tag c cond payload ++ extra) = .taken tag c cond payload) ∧
  (∀ (p : Port) (s : State), (∀ h, (s.ports.get p).slot ≠ .inHand h) →
     (∀ (b : Byte) (rest : List Byte), b ≠ 0xFF#8 → b ≠ 0xA5#8 →
       exec (.transaction p (b :: rest)) s =
         .next (((s.clock p (b :: rest).length).reply p (rest.headD 0) .badFrame).fileFault .badFrame p.val 0)) ∧
     (∀ rest : List Byte, rest.length < 4 →
       exec (.transaction p (0xA5#8 :: rest)) s =
         .next (((s.clock p (rest.length + 1)).reply p (rest.headD 0) .badFrame).fileFault .badFrame p.val 1)) ∧
     (∀ (tag code lo hi : Byte) (rest : List Byte), 400 < lo.toNat + 256 * hi.toNat ∨ rest.length < lo.toNat + 256 * hi.toNat + 2 →
       exec (.transaction p (0xA5#8 :: tag :: code :: lo :: hi :: rest)) s =
         .next (((s.clock p (rest.length + 5)).reply p tag .badFrame).fileFault .badFrame p.val 1)) ∧
     (∀ (tag code : Byte) (payload crc extra : List Byte), payload.length ≤ 400 → crc.length = 2 →
       crc ≠ crcField (tag :: code :: (bytesLE 2 payload.length ++ payload)) →
       exec (.transaction p (0xA5#8 :: tag :: code :: (bytesLE 2 payload.length ++ payload ++ crc ++ extra))) s =
         .next (((s.clock p (payload.length + crc.length + extra.length + 5)).reply p tag .badFrame).fileFault .badFrame p.val 2)) ∧
     (∀ (tag code : Byte) (payload extra : List Byte), payload.length ≤ 400 → (∀ c : Command, c.code ≠ code.toNat % 128) →
       exec (.transaction p (0xA5#8 :: tag :: code :: (bytesLE 2 payload.length ++ payload ++
           crcField (tag :: code :: (bytesLE 2 payload.length ++ payload)) ++ extra))) s =
         .next ((s.clock p (payload.length + extra.length + 7)).reply p tag .unknownCommand)) ∧
     (∀ (tag : Byte) (c : Command) (payload extra : List Byte), payload.length ≤ 400 → c.kind ≠ .write →
       exec (.transaction p (encodeFrame tag c true payload ++ extra)) s =
         .next ((s.clock p (payload.length + extra.length + 7)).reply p tag .badArgument)))

/-- R178 and R179: with the slot EMPTY or READY a good frame is taken in hand, its conditional test still to come, and a poll leaves the
slot EMPTY; under IN-HAND whatever arrives is discarded, and neither the slot nor anything else changes but what is clocked out. R178:
what a transaction of `n` bytes clocks out, and that clocking out changes the data-out pin of its own port alone (and the model's count of
free bytes, log 6). The bytes behind a response are left open. -/
def Obligations.TransactionsFollowTheSlot : Prop :=
  (∀ (p : Port) (s : State),
     ((∀ h, (s.ports.get p).slot ≠ .inHand h) →
       (∀ (tag : Byte) (c : Command) (cond : Bool) (payload extra : List Byte), payload.length ≤ 400 → (cond = true → c.kind = .write) →
         exec (.transaction p (encodeFrame tag c cond payload ++ extra)) s =
           .next ((s.clock p (payload.length + extra.length + 7)).onPort p fun ps =>
             { ps with slot := .inHand ⟨tag, c, cond, false, payload⟩ })) ∧
       (∀ rest : List Byte, exec (.transaction p (0xFF#8 :: rest)) s =
         .next ((s.clock p (rest.length + 1)).onPort p fun ps => { ps with slot := .empty }))) ∧
     (∀ h, (s.ports.get p).slot = .inHand h → ∀ bytes : List Byte,
       exec (.transaction p bytes) s = .next (s.clock p bytes.length))) ∧
  (∀ (p : Port) (n : Nat) (s : State),
     (∃ d f, d.length = n ∧ s.clock p n = { s.onPort p (fun ps => { ps with dout := d }) with fillSeq := f }) ∧
     ((s.ports.get p).slot = .empty → (((s.clock p n).ports.get p).dout) = List.replicate n 0) ∧
     (∀ r, (s.ports.get p).slot = .ready r → ∀ k, k < n → k < (responseBytes r).length →
       ((s.clock p n).ports.get p).dout[k]? = (responseBytes r)[k]?) ∧
     (∀ h, (s.ports.get p).slot = .inHand h → ∀ k, k < n → k < 7 →
       ((s.clock p n).ports.get p).dout[k]? = (responseBytes ⟨h.tag, .inHand, []⟩)[k]?))

/-! ## Reservations -/

/-- R160's table: the reservable record that a write names. R161: the test of a conditional write passes exactly when the port's
reservation stands on the record that the command names. A command that fails is answered RESERVATION-LOST, its port's reservation is
cleared, and nothing else changes; one that passes goes to its owning block, its reservation standing until it is taken (log 25). R161,
R164: the test and its outcome belong to the moment of the taking. A write that passed, but whose reservation has since been cleared by a
write or a device update of its record, or a STOP-REQUEST whose next stop has become another, is answered RESERVATION-LOST and writes
nothing. -/
def Obligations.ConditionalWritesAreTested : Prop :=
  (∀ (s : State) (h : InHand),
     (h.command = .position ∨ h.command = .jump ∨ h.command = .routeClear → s.targetOf h = some ⟨.cursor, 0⟩) ∧
     (h.command = .stopWrite ∨ h.command = .stopRemove ∨ h.command = .stopSkip → ∀ b rest, h.payload = b :: rest →
       s.targetOf h = if b.toNat < 64 then some ⟨.stop, b.toNat⟩ else none) ∧
     (h.command = .stopRequest → s.targetOf h = match s.route.cursor.nextStop with
       | some i => some ⟨.stop, i.val⟩
       | none => none) ∧
     (h.command = .segmentWrite ∨ h.command = .segmentRemove → ∀ b rest, h.payload = b :: rest →
       s.targetOf h = some ⟨.segment, b.toNat⟩) ∧
     (h.command = .programmeWrite → ∀ b rest, h.payload = b :: rest →
       s.targetOf h = if b.toNat < 13 then some ⟨.programme, b.toNat⟩ else none) ∧
     (h.command = .duckWrite → s.targetOf h = some ⟨.duck, 0⟩) ∧
     (h.command = .loudnessWrite → s.targetOf h = some ⟨.loudness, 0⟩) ∧
     (h.command = .layerWrite → ∀ b rest, h.payload = b :: rest →
       s.targetOf h = if b.toNat < 4 then some ⟨.layer, b.toNat⟩ else none) ∧
     (h.command = .seatConfig → s.targetOf h = some ⟨.seatConfig, 0⟩) ∧
     (h.command.kind = .write → h.command ∉ [Command.position, .jump, .routeClear, .stopWrite, .stopRemove, .stopSkip, .stopRequest,
       .segmentWrite, .segmentRemove, .programmeWrite, .duckWrite, .loudnessWrite, .layerWrite, .seatConfig] → s.targetOf h = none)) ∧
  (∀ (p : Port) (s : State) (h : InHand), (s.ports.get p).slot = .inHand h → h.conditional = true → h.tested = false →
     (∀ r, s.targetOf h = some r → (s.ports.get p).resv = some r →
       exec (.conditionalTest p) s =
         .next (s.onPort p fun ps => { ps with slot := .inHand { h with tested := true } })) ∧
     ((∀ r, s.targetOf h = some r → (s.ports.get p).resv ≠ some r) →
       exec (.conditionalTest p) s =
         .next (s.onPort p fun ps => { ps with resv := none, slot := .ready ⟨h.tag, .reservationLost, []⟩ }))) ∧
  (∀ (p : Port) (s : State) (h : InHand), (s.ports.get p).slot = .inHand h → h.conditional = true → h.tested = true → s.store.noted = [] →
     (∀ r, s.targetOf h = some r → (s.ports.get p).resv ≠ some r) →
     let lost := fun (c : Command) (i : Instr) => h.command = c → exec i s =
       .next (s.onPort p fun ps => { ps with resv := none, slot := .ready ⟨h.tag, .reservationLost, []⟩ })
     lost .position (.position p) ∧ lost .jump (.jump p) ∧ lost .routeClear (.routeClear p) ∧ lost .stopWrite (.stopWrite p) ∧
     lost .stopRemove (.stopRemove p) ∧ lost .stopSkip (.stopSkip p) ∧ lost .stopRequest (.stopRequest p) ∧
     lost .segmentWrite (.segmentWrite p) ∧ lost .segmentRemove (.segmentRemove p) ∧ lost .programmeWrite (.programmeWrite p) ∧
     lost .duckWrite (.duckWrite p) ∧ lost .loudnessWrite (.loudnessWrite p) ∧ lost .layerWrite (.layerWrite p) ∧
     lost .seatConfig (.seatConfig p))

/-- R159: RESERVE of a record that R157 names sets the port's reservation and answers the record's content; anything else is refused and
leaves the reservation as it was. -/
def Obligations.ReserveAnswersTheRecord : Prop :=
  ∀ (p : Port) (s : State) (h : InHand), s.holds p .reserve h →
    (∀ (b i : Byte) (c : RecClass), h.payload = [b, i] → recClassOf b.toNat = some c → i.toNat < recClassSize c →
      exec (.reserve p) s =
        .next (((s.onPort p fun ps => { ps with resv := some ⟨c, i.toNat⟩ }).withReply p h .ok (s.recordBytes ⟨c, i.toNat⟩)))) ∧
    ((∀ (b i : Byte) (c : RecClass), h.payload = [b, i] → recClassOf b.toNat = some c → recClassSize c ≤ i.toNat) →
      exec (.reserve p) s = .next (s.withReply p h .badArgument []))

/-- R158, R162, R163: whatever event takes place, a reservation that stands before and after it names a record whose content has not
changed. So a conditional write that passes its test writes over the content that RESERVE answered. -/
def Obligations.StandingReservationGuardsItsRecord : Prop :=
  ∀ (i : Instr) (s t : State), exec i s = .next t → ∀ (p : Port) (r : RecName), r.idx < recClassSize r.cls →
    (s.ports.get p).resv = some r → (t.ports.get p).resv = some r → t.recordBytes r = s.recordBytes r

/-! ## Events -/

/-- R182: each port whose mask selects the kind receives a posted event, stamped with the time base, at the tail of its queue, or, with 16
records there, drops it and sets its overrun flag. Nothing else changes. R184: a port's ATN line is asserted while its queue holds a
record or its overrun flag is set; an EVENT-READ that takes everything with the flag clear deasserts it, one with the flag set asserts it
again where the port selects FAULT and EVENT-OVERRUN is enabled, a record that joins asserts it, and power-on asserts every line. -/
def Obligations.EventsArePostedAndSignalled : Prop :=
  (∀ (s : State) (k : EventKind) (a b c : Nat),
     { s.post k a b c with ports := s.ports } = s ∧
     ∀ p, ((s.post k a b c).ports.get p) =
       if (s.ports.get p).mask.getLsbD (eventKindCode k) = true then
         if (s.ports.get p).queue.length < 16 then
           { s.ports.get p with queue := (s.ports.get p).queue ++ [⟨k, a, b, c, s.ctl.time⟩] }
         else { s.ports.get p with overrun := true }
       else s.ports.get p) ∧
  ((∀ (s : State) (p : Port), s.atn p = true ↔ (s.ports.get p).queue ≠ [] ∨ (s.ports.get p).overrun = true) ∧
   (∀ (p : Port) (s : State) (h : InHand), s.holds p .eventRead h →
     ∀ b : Byte, h.payload = [b] → 1 ≤ b.toNat → b.toNat ≤ 16 → (s.ports.get p).queue.length ≤ b.toNat →
       ∃ t, exec (.eventRead p) s = .next t ∧ (t.atn p = true ↔
         (s.ports.get p).overrun = true ∧ (s.ports.get p).mask.getLsbD 16 = true ∧ (s.faults.banks.get 5).mask.getLsbD 1 = true)) ∧
   (∀ (s : State) (k : EventKind) (a b c : Nat) (p : Port), (s.ports.get p).mask.getLsbD (eventKindCode k) = true →
     (s.post k a b c).atn p = true) ∧
   (∀ s : State, ∃ t, exec .powerOnReset s = .next t ∧ ∀ p, t.atn p = true))

/-- R183, EVENT-READ: up to the count asked for leave the head of the port's own queue and are answered in order with what is left; an
overrun flag that was set becomes clear, and EVENT-OVERRUN is then filed. R183, EVENT-MASK: a mask that names kinds 1 to 18 alone becomes
the port's own; any other is refused. The write clears the port's own reservation (R160). -/
def Obligations.EventCommandsActOnTheirPort : Prop :=
  (∀ (p : Port) (s : State) (h : InHand), s.holds p .eventRead h →
     (∀ b : Byte, h.payload = [b] → 1 ≤ b.toNat → b.toNat ≤ 16 →
       (let q := (s.ports.get p).queue
        let u := s.onPort p fun ps => { ps with queue := q.drop b.toNat, overrun := false }
        let answer := byteOf (q.take b.toNat).length :: ((q.take b.toNat).flatMap eventBytes ++
         [byteOf (q.drop b.toNat).length, flagByte (s.ports.get p).overrun])
        exec (.eventRead p) s = .next (((if (s.ports.get p).overrun then u.fileFault .eventOverrun p.val 0 else u)).withReply p h .ok answer))) ∧
     ((∀ b : Byte, h.payload = [b] → b.toNat = 0 ∨ 16 < b.toNat) → exec (.eventRead p) s = .next (s.withReply p h .badArgument []))) ∧
  (∀ (p : Port) (s : State) (h : InHand), s.holds p .eventMask h →
     (∀ b0 b1 b2 : Byte, h.payload = [b0, b1, b2] → b0.getLsbD 0 = false → b2.toNat < 8 →
       exec (.eventMask p) s = .next (((s.dropResv p).onPort p fun ps => { ps with mask := b2 ++ b1 ++ b0 }).withReply p h .ok [b0, b1, b2])) ∧
     ((∀ b0 b1 b2 : Byte, h.payload = [b0, b1, b2] → b0.getLsbD 0 = true ∨ 8 ≤ b2.toNat) →
       exec (.eventMask p) s = .next (s.refusedWrite p h .badArgument)))

/-! ## Reads -/

/-- R38, R97, R102, R103, R104, R133, R155, R159, R10: a read that carries no argument answers what it names and changes nothing else;
with a payload it is refused (R191). What each answer holds is said in section 11.4 and in the record layouts, but for the layout of
optional fields and of a reservation that may be none, which is deduced (log 9; for LIGHT-STATUS also log 29, for ANNOUNCE-READ log 26:
the model's choices). R181 and section 11.3: IDENTIFY answers the model code and the figures of 00_scope.md section 2, one by one, the
time base and the operating state, and changes nothing else. -/
def Obligations.PlainReadsAnswer : Prop :=
  (∀ (p : Port) (s : State) (h : InHand),
     let answers := fun (t : Host.Outcome State Fault Refusal) (content : List Byte) =>
       (h.payload = [] → t = .next (s.withReply p h .ok content)) ∧ (h.payload ≠ [] → t = .next (s.withReply p h .badArgument []))
     (s.holds p .cursorRead h → answers (exec (.cursorRead p) s)
       ([flagByte s.route.cursor.set] ++ bytesLE 4 s.route.cursor.distance ++ [byteOf s.route.cursor.speed,
         byteOf (stopNum s.route.cursor.nextStop), byteOf (originCode s.route.cursor.lastMover)])) ∧
     (s.holds p .duckRead h → answers (exec (.duckRead p) s) (duckBytes s.mix.duck)) ∧
     (s.holds p .loudnessRead h → answers (exec (.loudnessRead p) s) (loudnessBytes s.mix.loud)) ∧
     (s.holds p .seatSummary h → answers (exec (.seatSummary p) s) s.seatSummaryBytes) ∧
     (s.holds p .announceRead h → answers (exec (.announceRead p) s) s.announceBytes) ∧
     (s.holds p .lightStatus h → answers (exec (.lightStatus p) s) s.lightStatusBytes) ∧
     (s.holds p .reservationRead h → answers (exec (.reservationRead p) s) (match (s.ports.get p).resv with
       | none => [0]
       | some r => [1, byteOf (recClassCode r.cls), byteOf r.idx])) ∧
     (s.parityGood → s.holds p .storeStatus h → answers (exec (.storeStatus p) s) s.store.statusBytes)) ∧
  (∀ (p : Port) (s : State) (h : InHand), s.holds p .identify h →
     (h.payload = [] → exec (.identify p) s = .next (s.withReply p h .ok
       (bytesLE 2 0x5A31 ++ bytesLE 2 3120 ++ bytesLE 1 1 ++ bytesLE 2 4096 ++ bytesLE 1 192 ++ bytesLE 2 3072 ++ bytesLE 1 3 ++
         bytesLE 1 64 ++ bytesLE 2 256 ++ bytesLE 1 13 ++ bytesLE 1 80 ++ bytesLE 1 48 ++ bytesLE 1 4 ++ bytesLE 1 3 ++
         bytesLE 1 16 ++ bytesLE 2 400 ++ bytesLE 4 s.ctl.time.toNat ++ [byteOf (opStateCode s.ctl.op)]))) ∧
     (h.payload ≠ [] → exec (.identify p) s = .next (s.withReply p h .badArgument [])))

/-- R38, R75, R102, R133, R137, R173: a read of one record answers the record at the index that its payload byte names; an index out of
range, or a payload of another length, is refused BAD-ARGUMENT (R191). Nothing else changes. The bytes of optional fields (a fault record,
a clip map entry, the activity) are deduced (log 9). R75: COMMENTARY-READ answers for programmes 1 to 12 and refuses every other; the
activity it answers is the one the mixer uses, and CLIP-QUERY's entries stand in ascending order (the model's choices, log 26). R10:
CLIP-QUERY answers how many entries the clip ID has, and each of them. Neither changes anything else. -/
def Obligations.RecordReadsAnswer : Prop :=
  (∀ (p : Port) (s : State) (h : InHand),
     let answers := fun (n : Nat) (t : Host.Outcome State Fault Refusal) (content : Fin n → List Byte) =>
       (∀ i : Fin n, h.payload = [byteOf i.val] → t = .next (s.withReply p h .ok (content i))) ∧
       ((∀ i : Fin n, h.payload ≠ [byteOf i.val]) → t = .next (s.withReply p h .badArgument []))
     (s.holds p .stopRead h → answers 64 (exec (.stopRead p) s) fun i => stopBytes i (s.route.stops.get i)) ∧
     (s.holds p .segmentRead h → answers 256 (exec (.segmentRead p) s) fun i => segmentBytes i (s.route.segments.get i)) ∧
     (s.holds p .layerRead h → answers 4 (exec (.layerRead p) s) fun i => layerBytes i (s.light.layers.get i)) ∧
     (s.holds p .programmeRead h → answers 13 (exec (.programmeRead p) s) s.programmeReadBytes) ∧
     (s.holds p .seatRead h → answers 80 (exec (.seatRead p) s) fun i =>
       [byteOf (seatStateCode (s.seat.seats.get i).state), byteOf (s.seat.seats.get i).selection, byteOf (s.seat.seats.get i).misses,
         flagByte (s.seat.seats.get i).nodeFault] ++ bytesLE 4 (s.seat.seats.get i).lastChange.toNat) ∧
     (s.holds p .faultRead h → answers 6 (exec (.faultRead p) s) fun i =>
       faultBytes (s.faults.banks.get i).record ++
         [(s.faults.banks.get i).mask, flagByte s.faults.pending, byteOf (opStateCode s.ctl.op)])) ∧
  (∀ (p : Port) (s : State) (h : InHand),
     (s.holds p .commentaryRead h →
       (∀ i : Prog, i ≠ 0 → h.payload = [byteOf i.val] →
         exec (.commentaryRead p) s = .next (s.withReply p h .ok ([flagByte (s.progOn i)] ++
           (if s.progOn i then [byteOf (activityCode (if s.mix.awake.get i then .awake else .dormant))] else []) ++
           [flagByte s.com.window, byteOf (s.queueOf i).length] ++ (s.queueOf i).flatMap itemBytes))) ∧
       ((∀ i : Prog, i ≠ 0 → h.payload ≠ [byteOf i.val]) →
         exec (.commentaryRead p) s = .next (s.withReply p h .badArgument []))) ∧
     (s.parityGood → s.holds p .clipQuery h →
       (∀ b0 b1 : Byte, h.payload = [b0, b1] → ∃ l : List (EntryNo × Entry),
         exec (.clipQuery p) s = .next (s.withReply p h .ok (byteOf l.length :: l.flatMap fun x => entryBytes x.1 x.2)) ∧
         (l.map Prod.fst).Pairwise (· < ·) ∧
         ∀ n e, (n, e) ∈ l ↔ s.store.map.get n = some e ∧ e.clip = b0.toNat + 256 * b1.toNat) ∧
       (h.payload.length ≠ 2 → exec (.clipQuery p) s = .next (s.withReply p h .badArgument []))))

/-- Sections 11.3 and 11.4: what a read of a record answers, less the fields that no write carries, is exactly the payload of a write of
that record: no field is lost, none changes its place or its width. -/
def Obligations.RecordsReadBackAsWritten : Prop :=
  let clip := fun (n : Nat) => n < 65536
  let clipField := fun (o : Option Nat) => o ≠ some 0 ∧ ∀ n, o = some n → clip n
  let langs := fun (l : List (Nat × Nat)) => l.length ≤ 12 ∧ ∀ x ∈ l, x.1 < 256 ∧ clip x.2
  let colour := fun (c : Colour) => c.r < 256 ∧ c.g < 256 ∧ c.b < 256
  (∀ (i : StopNo) (x : Stop) (w : List Byte) (b0 b1 : Byte), x.a < 2 ^ 32 → x.b < 2 ^ 32 → langs x.langs → clipField x.dflt →
    x.pa.length ≤ 3 → (∀ c ∈ x.pa, clip c) → clipField x.chime → clipField x.cue → stopBytes i (some x) = w ++ [b0, b1] →
      stopOf w = some (i.val, { x with request := false, state := .ahead })) ∧
  (∀ (i : SegNo) (x : Segment) (w : List Byte) (b0 b1 b2 : Byte), x.t < 2 ^ 32 → x.late < 65536 → x.priority < 256 → langs x.langs →
    clipField x.cue → segmentBytes i (some x) = w ++ [b0, b1, b2] →
      segmentOf w = some (i.val, { x with state := .armed, outstanding := 0, played := 0 })) ∧
  (∀ (q : Prog) (x : ProgRec), x.lang < 256 → (∀ v, x.gains.get v < 65536) → x.master < 65536 → clipField x.bed → x.mirror < 256 →
      programmeOf (programmeBytes q x) = some (q.val, x)) ∧
  (∀ d : DuckTable, (∀ row ∈ [d.announce, d.liveDriver, d.liveGuide], ∀ v t, row.get v = some t → t < 65536) →
    d.announce.announce = none → d.liveDriver.live = none → d.liveGuide.live = none →
    (∀ v, v ≠ .announce → (d.announce.get v).isSome) → (∀ v, v ≠ .live → (d.liveDriver.get v).isSome) →
    (∀ v, v ≠ .live → (d.liveGuide.get v).isSome) → d.r < 65536 → duckOf (duckBytes d) = some d) ∧
  (∀ l : Loudness, (∀ g ∈ [l.headset, l.pa], g.k < 256 ∧ g.v0 < 256 ∧ g.lmax < 65536) → loudnessOf (loudnessBytes l) = some l) ∧
  (∀ (k : LayerNo) (y : Layer), y.cells.length ≤ 96 → (∀ c ∈ y.cells, ∀ x, c = some x → colour x) → y.offset < 256 → colour y.fillC →
      layerOf (layerBytes k y) = some (k.val, y))

/-! ## The Clip Store -/

/-- R6: a lookup by clip ID and accepted kinds. A clip that stands READY in an accepted kind is found, and its entry gains a use and the
next sequence number; otherwise the answer is ABSENT with its reason and nothing changes. R2, R3, R7: a freed chain joins the tail of the
free page list in chain order, each of its pages takes the link value FREE, and no other link and nothing else of the Clip Store changes.
A use given up on an entry that is not RETIRING, or is still in use, is counted off; the last use of a RETIRING entry frees the entry with
its chain. -/
def Obligations.LookupsAndFreedChains : Prop :=
  (∀ (st : Store) (clip : Nat) (accept : ClipKind → Bool), st.badMap = [] →
     ((∀ n e, st.map.get n = some e → ¬(e.standing = true ∧ e.clip = clip)) → st.lookup clip accept = (st, .absent .none)) ∧
     (∀ n e, st.map.get n = some e → e.clip = clip →
       (∀ m, m < n → ∀ f, st.map.get m = some f → ¬(f.standing = true ∧ f.clip = clip)) →
       (e.state = .damaged → st.lookup clip accept = (st, .absent .damaged)) ∧
       (e.state = .ready → accept e.kind = false → st.lookup clip accept = (st, .absent .kind)) ∧
       (e.state = .ready → accept e.kind = true → st.lookup clip accept =
         ({ st with
             seq := st.seq + 1
             map := st.map.set n (some { e with useCount := e.useCount + 1, lastUse := some (st.seq + 1) }) },
           .found ⟨n, clip, e.kind, e.byteLen, e.firstPage.getD 0⟩)))) ∧
  (∀ st : Store, st.badMap = [] → st.badLinks = [] → sparseWf Link.free st.links = true →
     (∀ q : Page,
       (st.freeChain (some q)).freeList = st.freeList ++ st.chain q ∧
       (∀ x : Page, linkOf (st.freeChain (some q)).links x = if x ∈ st.chain q then .free else linkOf st.links x) ∧
       { st.freeChain (some q) with freeList := st.freeList, links := st.links } = st) ∧
     (∀ n e, st.map.get n = some e →
       (e.state ≠ .retiring ∨ 1 < e.useCount →
         st.release n = { st with map := st.map.set n (some { e with useCount := e.useCount - 1 }) }) ∧
       (e.state = .retiring → e.useCount ≤ 1 → st.release n = { st.freeChain e.firstPage with map := st.map.set n none })))

/-- R20, R21: an eviction frees the candidate that stands first in eviction order and posts CLIP-EVICTED with its clip ID and page count;
with no candidate there is none. The order is DAMAGED before READY, then languages that no AWAKE programme carries, then last use, then
entry number. R99: a programme that has stopped being the mirror source counts as AWAKE until its next block start. -/
def Obligations.EvictionTakesTheFirstCandidate : Prop :=
  ∀ s : State, s.store.badMap = [] →
    let unheard := fun (lang : Nat) => lang ≠ 0 ∧
      ∀ q : Prog, q ≠ 0 → s.progOn q = true → s.awakeNow q = true ∨ s.mix.leaving.get q = true → (s.mix.progs.get q).lang ≠ lang
    let key := fun (n : EntryNo) (e : Entry) =>
      (if e.state = .damaged then 0 else 1, if unheard e.lang then 0 else 1, (e.lastUse.getD 0).toNat, n.val)
    ((∀ n e, s.store.map.get n = some e → e.candidate = false) → s.evict = none) ∧
    (∀ n e, s.store.map.get n = some e → e.candidate = true → ∃ m f,
      s.store.map.get m = some f ∧ f.candidate = true ∧
      (∀ k g, s.store.map.get k = some g → g.candidate = true → k ≠ m →
        let a := key m f
        let b := key k g
        a.1 < b.1 ∨ a.1 = b.1 ∧ (a.2.1 < b.2.1 ∨ a.2.1 = b.2.1 ∧ (a.2.2.1 < b.2.2.1 ∨ a.2.2.1 = b.2.2.1 ∧ a.2.2.2 < b.2.2.2))) ∧
      s.evict = some ((s.onStore fun st => st.freeEntry m).post .clipEvicted f.clip (f.pageCount.getD 0) 0))

/-- R12, LOAD-OPEN: with its slot CLOSED, legal arguments, the clip ID neither loading nor RETIRING, the lowest empty entry becomes the
LOADING entry and the slot OPEN; with the clip map full an eviction makes the room. Each refusal changes nothing. -/
def Obligations.LoadOpenTakesASlot : Prop :=
  ∀ (p : Port) (s : State) (h : InHand) (c0 c1 l n0 n1 n2 n3 : Byte) (kind : ClipKind) (pin : Bool),
    let clip := natLE [c0, c1]
    let len := natLE [n0, n1, n2, n3]
    let load := fun n => LoadSlot.opened ⟨n, clip, kind, len, pin, 0, none⟩
    let entry := some ⟨clip, kind, l.toNat, .loading, false, none, none, len, 0, none, some p⟩
    let legal := clip ≠ 0 ∧ l.toNat ≤ 63 ∧ 1 ≤ len ∧ len ≤ 4194304 ∧ (kind = .cue ∨ len % 2 = 0)
    let clash := (∃ q, q ≠ p ∧ ∃ x, (s.store.slots.get q).load = some x ∧ x.clip = clip) ∨
      ∃ n e, s.store.map.get n = some e ∧ e.state = .retiring ∧ e.clip = clip
    s.holds p .loadOpen h → s.parityGood →
    (h.payload.length ≠ 9 → s.store.slots.get p = .closed → exec (.loadOpen p) s = .next (s.refusedWrite p h .badArgument)) ∧
    (h.payload = [c0, c1, byteOf (clipKindCode kind), l, n0, n1, n2, n3, flagByte pin] →
      ((s.store.slots.get p ≠ .closed → exec (.loadOpen p) s = .next (s.refusedWrite p h .refusedState)) ∧
      (s.store.slots.get p = .closed →
        (¬legal → exec (.loadOpen p) s = .next (s.refusedWrite p h .badArgument)) ∧
        (legal → clash → exec (.loadOpen p) s = .next (s.refusedWrite p h .inUse)) ∧
        (legal → ¬clash →
          (∀ n, s.store.map.get n = none → (∀ m, m < n → s.store.map.get m ≠ none) → exec (.loadOpen p) s =
            .next (((s.dropResv p).onStore fun st => { st with map := st.map.set n entry, slots := st.slots.set p (load n) }).withReply
              p h .ok [])) ∧
          ((∀ n, ∃ e, s.store.map.get n = some e ∧ e.candidate = false) →
            exec (.loadOpen p) s = .next (s.refusedWrite p h .full)) ∧
          ((∀ n, s.store.map.get n ≠ none) → (∃ n e, s.store.map.get n = some e ∧ e.candidate = true) →
            ∃ n e t, s.store.map.get n = some e ∧ e.candidate = true ∧ exec (.loadOpen p) s = .next t ∧
              t.store.map.get n = entry ∧ t.store.slots.get p = load n ∧ (t.ports.get p).slot = .ready ⟨h.tag, .ok, []⟩)))))

/-- R13, R15, LOAD-DATA: its refusals, in order; and a piece that lies within one line of a page of the chain: it joins the line, which
becomes eligible with its 64th byte or the clip's last, and the received count rises. Nothing else changes. R2, R14: a piece that reaches
beyond the pages of the chain first takes the page at the head of the free page list, which becomes the END page of the chain and the link
of the page that was last; with no free page and nothing to evict LOAD-DATA is refused FULL. -/
def Obligations.LoadDataFillsLinesAndPages : Prop :=
  (∀ (p : Port) (s : State) (h : InHand), s.holds p .loadData h → s.parityGood →
     ((∀ l, s.store.slots.get p ≠ .opened l) → exec (.loadData p) s = .next (s.refusedWrite p h .refusedState)) ∧
     (∀ l, s.store.slots.get p = .opened l →
       (h.payload.length < 5 ∨ 260 < h.payload.length → exec (.loadData p) s = .next (s.refusedWrite p h .badArgument)) ∧
       (∀ (o0 o1 o2 o3 : Byte) (piece : List Byte), h.payload = o0 :: o1 :: o2 :: o3 :: piece → piece ≠ [] → piece.length ≤ 256 →
         let off := natLE [o0, o1, o2, o3]
         (off ≠ l.received → exec (.loadData p) s = .next (s.refusedWrite p h .outOfOrder)) ∧
         (off = l.received → l.len < off + piece.length → exec (.loadData p) s = .next (s.refusedWrite p h .badArgument)) ∧
         (off = l.received → off + piece.length ≤ l.len →
           (4 ≤ s.store.filling.length + s.store.eligible.length → (∀ w ∈ s.store.filling ++ s.store.eligible, w.slot ≠ some p) →
             exec (.loadData p) s = .next (s.refusedWrite p h .wait)) ∧
           (∀ (c : Chain) (page : Page), l.chain = some c → off / 4096 < c.count → (s.store.chain c.first)[off / 4096]? = some page →
             off % 64 + piece.length ≤ 64 →
             let line : Fin 64 := ⟨off % 4096 / 64, by omega⟩
             let lay := fun (before : List Byte) (rest : List WriteLine) (st : Store) =>
               let w : WriteLine := ⟨some p, page, line, before ++ piece ++ List.replicate (64 - (before.length + piece.length)) 0,
                 before.length + piece.length⟩
               if before.length + piece.length = 64 ∨ off + piece.length = l.len then
                 { st with
                   filling := rest, eligible := st.eligible ++ [w]
                   slots := st.slots.set p (.opened { l with received := l.received + piece.length }) }
               else
                 { st with
                   filling := rest ++ [w]
                   slots := st.slots.set p (.opened { l with received := l.received + piece.length }) }
             ((∀ w ∈ s.store.filling ++ s.store.eligible, ¬(w.slot = some p ∧ w.page = page ∧ w.line = line)) →
               s.store.filling.length + s.store.eligible.length < 4 → exec (.loadData p) s =
                 .next (((s.dropResv p).onStore (lay [] s.store.filling)).withReply p h .ok [])) ∧
             (∀ (x : WriteLine) (a b : List WriteLine), s.store.filling = a ++ x :: b → x.slot = some p → x.page = page → x.line = line →
               (∀ w ∈ a ++ b, ¬(w.slot = some p ∧ w.page = page ∧ w.line = line)) → exec (.loadData p) s =
                 .next (((s.dropResv p).onStore (lay (x.data.take x.filled) (a ++ b))).withReply p h .ok []))))))) ∧
  (∀ (p : Port) (s : State) (h : InHand) (l : Load) (o0 o1 o2 o3 : Byte) (piece : List Byte),
     let off := natLE [o0, o1, o2, o3]
     let count := (l.chain.map (·.count)).getD 0
     s.holds p .loadData h → s.parityGood → sparseWf Link.free s.store.links = true → s.store.slots.get p = .opened l →
     h.payload = o0 :: o1 :: o2 :: o3 :: piece → piece ≠ [] → piece.length ≤ 256 → off = l.received → off + piece.length ≤ l.len →
     (off + piece.length - 1) / 64 + 1 - off / 64 + s.store.filling.length + s.store.eligible.length ≤ 4 →
     count ≤ (off + piece.length - 1) / 4096 →
       (∀ q rest, s.store.freeList = q :: rest → (∀ c, l.chain = some c → c.last ≠ q) → ∃ t, exec (.loadData p) s = .next t ∧
         (t.ports.get p).slot = .ready ⟨h.tag, .ok, []⟩ ∧ t.store.freeList = rest ∧ t.store.map = s.store.map ∧
         t.store.dram = s.store.dram ∧ linkOf t.store.links q = .last ∧
         (∀ c, l.chain = some c → linkOf t.store.links c.last = .next q) ∧
         (∀ x : Page, x ≠ q → (∀ c, l.chain = some c → x ≠ c.last) → linkOf t.store.links x = linkOf s.store.links x) ∧
         t.store.slots.get p = .opened { l with
           received := l.received + piece.length, chain := some ⟨(l.chain.map (·.first)).getD q, q, count + 1⟩ }) ∧
       (s.store.freeList = [] → (∀ n e, s.store.map.get n = some e → e.candidate = false) →
         exec (.loadData p) s = .next (s.refusedWrite p h .full)))

/-- R17, R18, LOAD-CLOSE: refused in a slot that is not OPEN, or SHORT; ACCEPTED otherwise. While lines of the slot are pending the slot
is CLOSING; with none the load completes at once: the standing entry of the clip ID leaves its state, the new one becomes READY with the
sequence number as it stands, pinned where that was asked for and fits, the slot closes and the loading port alone is told. R19,
LOAD-ABORT: in an OPEN slot the LOADING entry and the chain are freed, the slot's pending lines leave the write buffer and the slot
closes; a line whose burst is in progress stays, and belongs to no slot. It is TOO-LATE in CLOSING. A payload is refused BAD-ARGUMENT
before the slot's state is tested (deduced, log 18). -/
def Obligations.LoadsAreClosedAndAborted : Prop :=
  (∀ (p : Port) (s : State) (h : InHand), s.holds p .loadClose h → s.parityGood →
     (h.payload ≠ [] → exec (.loadClose p) s = .next (s.refusedWrite p h .badArgument)) ∧
     (h.payload = [] →
     ((∀ l, s.store.slots.get p ≠ .opened l) → exec (.loadClose p) s = .next (s.refusedWrite p h .refusedState)) ∧
     (∀ l, s.store.slots.get p = .opened l →
       (l.received < l.len → exec (.loadClose p) s = .next (s.refusedWrite p h .short)) ∧
       (l.len ≤ l.received →
         (s.store.pendingOf p ≠ [] → exec (.loadClose p) s = .next (((s.dropResv p).onStore fun st =>
           { st with slots := st.slots.set p (.closing l) }).withReply p h .accepted [])) ∧
         (s.store.pendingOf p = [] → ∀ e, s.store.map.get l.entry = some e → e.state = .loading →
           let count := (l.chain.map (·.count)).getD 0
           (∀ n f, s.store.map.get n = some f → f.state = .ready ∨ f.state = .damaged → f.clip = l.clip →
             (∀ m g, m ≠ n → s.store.map.get m = some g → g.state = .ready ∨ g.state = .damaged → g.clip ≠ l.clip) →
             let total := if f.pinned then s.store.pinTotal - f.pageCount.getD 0 else s.store.pinTotal
             let pinned := l.pin && decide (total + count ≤ 3072)
             ∃ t, exec (.loadClose p) s = .next t ∧
               t.store.map = (s.store.map.set n (if f.useCount = 0 then none else some { f with pinned := false, state := .retiring })).set
                 l.entry (some { e with
                   state := .ready, pinned := pinned, firstPage := l.chain.map (·.first), pageCount := some count,
                   lastUse := some s.store.seq, loader := none }) ∧
               t.store.pinTotal = total + (if pinned then count else 0) ∧ t.store.slots = s.store.slots.set p .closed ∧
               (t.ports.get p).slot = .ready ⟨h.tag, .accepted, []⟩) ∧
           ((∀ n f, s.store.map.get n = some f → f.state = .ready ∨ f.state = .damaged → f.clip ≠ l.clip) →
           let fits := decide (s.store.pinTotal + count ≤ 3072)
           exec (.loadClose p) s = .next ((((s.dropResv p).onStore fun st =>
             { st with
               map := st.map.set l.entry (some { e with
                 state := .ready, pinned := l.pin && fits, firstPage := l.chain.map (·.first), pageCount := some count,
                 lastUse := some st.seq, loader := none })
               pinTotal := st.pinTotal + if l.pin && fits then count else 0
               slots := st.slots.set p .closed }).postTo p .loadDone l.clip count
                 (if l.pin = false then 0 else if s.store.pinTotal + count ≤ 3072 then 1 else 2)).withReply p h .accepted []))))))) ∧
  (∀ (p : Port) (s : State) (h : InHand), s.holds p .loadAbort h → s.parityGood →
     (h.payload ≠ [] → exec (.loadAbort p) s = .next (s.refusedWrite p h .badArgument)) ∧
     (h.payload = [] →
       (s.store.slots.get p = .closed → exec (.loadAbort p) s = .next (s.refusedWrite p h .refusedState)) ∧
       (∀ l, s.store.slots.get p = .closing l → exec (.loadAbort p) s = .next (s.refusedWrite p h .tooLate)) ∧
       (∀ l, s.store.slots.get p = .opened l → ∀ e, s.store.map.get l.entry = some e → e.firstPage = none →
         ∃ t, exec (.loadAbort p) s = .next t ∧
           (t.ports.get p) = { s.ports.get p with resv := none, slot := .ready ⟨h.tag, .ok, []⟩ } ∧
           (∀ q, q ≠ p → t.ports.get q = s.ports.get q) ∧
           t.store.slots = s.store.slots.set p .closed ∧ t.store.map = s.store.map.set l.entry none ∧
           t.store.freeList = s.store.freeList ++ s.store.loadPages l ∧
           t.store.filling = s.store.filling.filter (fun w => w.slot != some p) ∧
           (s.store.draining = false → t.store.eligible = s.store.eligible.filter fun w => w.slot != some p) ∧
           (s.store.draining = true → ∀ w rest, s.store.eligible = w :: rest → t.store.eligible =
             (if w.slot = some p then { w with slot := none } else w) :: rest.filter fun w => w.slot != some p) ∧
           { t with store := s.store, ports := s.ports } = s ∧
           { t.store with
             slots := s.store.slots, map := s.store.map, freeList := s.store.freeList, links := s.store.links
             filling := s.store.filling, eligible := s.store.eligible } = s.store)))

/-- R18 step 1, R9: a standing entry that is replaced or deleted loses its pin; with no use it is freed, its pages joining the free page
list in chain order, and with uses it is RETIRING and keeps its chain. R8: pins are counted in pages, against the limit of 3072. R8, R9:
CLIP-DELETE, CLIP-PIN and CLIP-UNPIN of a clip ID with no entry in READY or DAMAGED are refused NOT-FOUND, and with a payload that is not
two bytes BAD-ARGUMENT (R191). -/
def Obligations.ClipsAreDeletedAndPinned : Prop :=
  (∀ (p : Port) (s : State) (h : InHand) (c0 c1 : Byte) (n : EntryNo) (e : Entry),
     let clip := natLE [c0, c1]
     let entry := fun (x : Option Entry) (total : Nat) (t : State) =>
       t.onStore fun st => { st with map := st.map.set n x, pinTotal := total }
     let pages := e.pageCount.getD 0
     let total := if e.pinned then s.store.pinTotal - pages else s.store.pinTotal
     h.payload = [c0, c1] → s.parityGood → s.store.map.get n = some e → e.state = .ready ∨ e.state = .damaged → e.clip = clip →
     (∀ m f, m ≠ n → s.store.map.get m = some f → f.state = .ready ∨ f.state = .damaged → f.clip ≠ clip) →
       (s.holds p .clipDelete h →
         (e.useCount ≠ 0 → exec (.clipDelete p) s =
           .next ((entry (some { e with pinned := false, state := .retiring }) total (s.dropResv p)).withReply p h .ok [])) ∧
         (e.useCount = 0 → exec (.clipDelete p) s =
           .next ((entry none total ((s.dropResv p).onStore fun st => st.freeChain e.firstPage)).withReply p h .ok []))) ∧
       (s.holds p .clipPin h →
         (e.pinned = true → exec (.clipPin p) s = .next ((s.dropResv p).withReply p h .ok [])) ∧
         (e.pinned = false → 3072 < s.store.pinTotal + pages → exec (.clipPin p) s = .next (s.refusedWrite p h .full)) ∧
         (e.pinned = false → s.store.pinTotal + pages ≤ 3072 → exec (.clipPin p) s =
           .next ((entry (some { e with pinned := true }) (s.store.pinTotal + pages) (s.dropResv p)).withReply p h .ok []))) ∧
       (s.holds p .clipUnpin h → exec (.clipUnpin p) s =
           .next ((entry (some { e with pinned := false }) total (s.dropResv p)).withReply p h .ok []))) ∧
  (∀ (p : Port) (s : State) (h : InHand), s.parityGood →
     let refused := fun (st : Status) =>
       (s.holds p .clipDelete h → exec (.clipDelete p) s = .next (s.refusedWrite p h st)) ∧
       (s.holds p .clipPin h → exec (.clipPin p) s = .next (s.refusedWrite p h st)) ∧
       (s.holds p .clipUnpin h → exec (.clipUnpin p) s = .next (s.refusedWrite p h st))
     (∀ c0 c1 : Byte, h.payload = [c0, c1] →
       (∀ m f, s.store.map.get m = some f → f.state = .ready ∨ f.state = .damaged → f.clip ≠ natLE [c0, c1]) → refused .notFound) ∧
     (h.payload.length ≠ 2 → refused .badArgument))

/-! ## The DRAM -/

/-- R16, R22, R27: one burst at a time. A grant, for a voice whose use is given up within the block too (the model's choice, log 28),
takes the head line of the lowest programme whose fetch waits, else of the lowest cue player, else the head scrub request, which is
discarded where no READY, DAMAGED or RETIRING entry's chain holds its page, else the oldest eligible line of the write buffer. With the
DRAM busy or nobody waiting it does not take place (log 2). -/
def Obligations.GrantsGoByPriority : Prop :=
  ∀ s : State, s.parityGood →
    let start := fun (b : Burst) (t : State) => t.onStore fun st => { st with burst := some b }
    let holds := fun (page : Page) (n : EntryNo) (e : Entry) => linkOf s.store.links page ≠ .free ∧ s.store.map.get n = some e ∧
      e.state ≠ .loading ∧ ∃ q, e.firstPage = some q ∧ page ∈ s.store.chain q
    (s.store.burst ≠ none → exec .dramGrant s = .next s) ∧
    (s.store.burst = none →
      (∀ (p : Prog) (b : Block) (v : Voice) (r : LineReq) (rest : List (Voice × LineReq)) (x : BlockSource),
        s.mix.block.get p = some b → b.want = (v, r) :: rest → b.src.get v = some x →
        (∀ q, q < p → ∀ c, s.mix.block.get q = some c → c.want = []) → exec .dramGrant s =
          .next (start ⟨.fetch p v x.bind r, true⟩ (s.onMix fun m => { m with block := m.block.set p (some { b with want := rest }) }))) ∧
      ((∀ q c, s.mix.block.get q = some c → c.want = []) →
        (∀ (k : PlayerNo) (y : Player) (r : LineReq) (rest : List LineReq), s.light.players.get k = some y → y.want = r :: rest →
          (∀ j, j < k → ∀ z, s.light.players.get j = some z → z.want = []) → exec .dramGrant s =
            .next (start ⟨.cue k y.bind r, true⟩ (s.onLight fun g => { g with players := g.players.set k (some { y with want := rest }) }))) ∧
        ((∀ j z, s.light.players.get j = some z → z.want = []) →
          (∀ (page : Page) (w : WordNo) (rest : List (Page × WordNo)), s.store.scrub = (page, w) :: rest →
            (∀ n e, holds page n e → (∀ m f, m < n → ¬holds page m f) → exec .dramGrant s =
              .next (start ⟨.scrub page w n e.clip, true⟩ (s.onStore fun st => { st with scrub := rest }))) ∧
            ((∀ n e, ¬holds page n e) → exec .dramGrant s = .next (s.onStore fun st => { st with scrub := rest }))) ∧
          (s.store.scrub = [] →
            (∀ w rest, s.store.eligible = w :: rest → exec .dramGrant s = .next (start ⟨.drain w, true⟩ s)) ∧
            (s.store.eligible = [] → exec .dramGrant s = .next s)))))

/-- R1, R16: the completion of a drain writes the line's 64 bytes to its place in the DRAM and no other byte, clears the wrong bits of its
eight words alone, and the line leaves the write buffer. R16, R17, R18: the drain of a CLOSING slot's last pending line completes its
load. -/
def Obligations.DrainsWriteAndCompleteALoad : Prop :=
  (∀ (noise : List (Fin 8 × WordError)) (s : State) (w : WriteLine) (rest : List WriteLine), s.parityGood →
     s.store.burst = some ⟨.drain w, true⟩ → s.store.eligible = w :: rest → w.data.length = 64 → Memory.wf s.store.dram = true →
     sparseWf none s.store.dramErr = true →
       ∃ t, exec (.burstCompletion noise) s = .next t ∧ t.store.burst = none ∧ t.store.eligible = rest ∧
         (∀ k, k < 64 → Memory.read t.store.dram (w.page.val * 4096 + w.line.val * 64 + k) = w.data.getD k 0) ∧
         (∀ a, a < w.page.val * 4096 + w.line.val * 64 ∨ w.page.val * 4096 + w.line.val * 64 + 64 ≤ a →
           Memory.read t.store.dram a = Memory.read s.store.dram a) ∧
         (∀ (q : Page) (k : WordNo), errorOf t.store.dramErr q k.val =
           if q = w.page ∧ k.val / 8 = w.line.val then none else errorOf s.store.dramErr q k.val)) ∧
  (∀ (noise : List (Fin 8 × WordError)) (s : State) (w : WriteLine) (rest : List WriteLine) (p : Port) (l : Load) (e : Entry),
     s.parityGood → s.store.burst = some ⟨.drain w, true⟩ → s.store.eligible = w :: rest → w.slot = some p →
     s.store.slots.get p = .closing l → (∀ x ∈ s.store.filling ++ rest, x.slot ≠ some p) →
     s.store.map.get l.entry = some e → e.state = .loading →
       ∃ t f, exec (.burstCompletion noise) s = .next t ∧ t.store.slots.get p = .closed ∧ t.store.map.get l.entry = some f ∧
         f.state = .ready ∧ f.clip = e.clip ∧ f.firstPage = l.chain.map (·.first) ∧ f.pageCount = some ((l.chain.map (·.count)).getD 0) ∧
         f.lastUse = some s.store.seq ∧ f.loader = none ∧ (∀ q, q ≠ p → t.ports.get q = s.ports.get q) ∧
         (((s.ports.get p).queue.length < 16 ∧ ∃ outcome, (t.ports.get p).queue = (s.ports.get p).queue ++
             [⟨.loadDone, l.clip, (l.chain.map (·.count)).getD 0, outcome, s.ctl.time⟩]) ∨
           (16 ≤ (s.ports.get p).queue.length ∧ (t.ports.get p).overrun = true)))

/-- R23, R115, R149: a fetched line whose eight words are sound is delivered whole to the block or the player that wants it, whether or
not a use is still held (the model's choice, log 28), and with the last line wanted the programme's underrun streak becomes 0; data that
are no longer wanted are discarded. R27: a scrub writes a word with one wrong bit back corrected, leaves a sound word alone, and treats a
word with two wrong bits as a read does; nothing else changes. -/
def Obligations.FetchesAndScrubsReadTheDram : Prop :=
  (∀ (s : State), s.store.noted = [] →
     let sound := fun (r : LineReq) => ∀ i : Fin 8, errorOf s.store.dramErr r.page (r.line.val * 8 + i.val) = none
     let idle := s.onStore fun st => { st with burst := none }
     (∀ (p : Prog) (v : Voice) (x : Binding) (r : LineReq) (b : Block), s.store.burst = some ⟨.fetch p v x r, true⟩ → sound r →
       s.mix.block.get p = some b → ∃ words : List (Option (List Byte)),
         words.length = 8 ∧
         (∀ i k, i < 8 → k < 8 → ((words.getD i none).bind fun l => l[k]?) =
           some (Memory.read s.store.dram (r.page.val * 4096 + r.line.val * 64 + i * 8 + k))) ∧
         exec (.burstCompletion []) s = .next (idle.onMix fun m =>
           { m with
             block := m.block.set p (some { b with got := b.got ++ [⟨v, r.clipLine, words⟩] })
             streak := if b.want = [] then m.streak.set p 0 else m.streak })) ∧
     (∀ (k : PlayerNo) (x : Binding) (r : LineReq) (y : Player), s.store.burst = some ⟨.cue k x r, true⟩ → sound r →
       s.light.players.get k = some y → y.want ≠ [] → ∃ words : List (Option (List Byte)),
         words.length = 8 ∧
         (∀ i j, i < 8 → j < 8 → ((words.getD i none).bind fun l => l[j]?) =
           some (Memory.read s.store.dram (r.page.val * 4096 + r.line.val * 64 + i * 8 + j))) ∧
         exec (.burstCompletion []) s = .next (idle.onLight fun g =>
           { g with players := g.players.set k (some { y with got := y.got ++ [⟨r.clipLine, words⟩] }) })) ∧
     (∀ (noise : List (Fin 8 × WordError)) (b : Burst), s.store.burst = some b → b.wanted = false → (∀ w, b.job ≠ .drain w) →
       exec (.burstCompletion noise) s = .next idle)) ∧
  (∀ (noise : List (Fin 8 × WordError)) (s : State) (page : Page) (w : WordNo) (n : EntryNo) (clip : Nat), s.parityGood →
     s.store.burst = some ⟨.scrub page w n clip, true⟩ →
       let idle := s.onStore fun st => { st with burst := none }
       let err := s.store.readError noise page w
       (err = none → exec (.burstCompletion noise) s = .next idle) ∧
       (err = some .single → exec (.burstCompletion noise) s = .next (idle.onStore fun st =>
         { st with dramErr := setError st.dramErr page w.val none })) ∧
       (err = some .double → ∀ e, s.store.map.get n = some e → e.state = .ready → e.clip = clip → exec (.burstCompletion noise) s =
         .next (((idle.fileFault .eccUncorrected clip page.val).onStore fun st =>
           { st with map := st.map.set n (some { e with state := .damaged }) }).post .clipDamaged clip 0 0)))

/-- R24, R25, R26: a word read for a consumer. A sound word is delivered. A word with one wrong bit is delivered corrected, ECC-CORRECTED
is filed, and a scrub of it is requested, which merges with a like request, joins the queue, or, with 8 requests there, is dropped with
SCRUB-OVERFLOW. A word with two wrong bits is delivered marked, ECC-UNCORRECTED is filed, and a READY entry of the clip becomes DAMAGED,
with CLIP-DAMAGED posted; an entry that holds another clip by then is not touched (deduced, log 22). -/
def Obligations.ReadsAreChecked : Prop :=
  ∀ (noise : List (Fin 8 × WordError)) (b : Binding) (r : LineReq) (s : State) (done : List (Option (List Byte))) (i : Fin 8),
    let w := wordOfLine r.line i
    let err := s.store.readError noise r.page w
    (err = none → State.readWord noise b r (s, done) i = (s, done ++ [some (s.wordBytes r.page w)])) ∧
    (err = some .single →
      let t := s.fileFault .eccCorrected r.page.val w.val
      State.readWord noise b r (s, done) i =
        (if (r.page, w) ∈ s.store.scrub then t
          else if s.store.scrub.length < 8 then t.onStore fun st => { st with scrub := st.scrub ++ [(r.page, w)] }
          else t.fileFault .scrubOverflow r.page.val w.val,
          done ++ [some (s.wordBytes r.page w)])) ∧
    (err = some .double → s.store.badMap = [] →
      let t := s.fileFault .eccUncorrected b.clip r.page.val
      (∀ e, s.store.map.get b.entry = some e → e.state = .ready → e.clip = b.clip → State.readWord noise b r (s, done) i =
        ((t.onStore fun st => { st with map := st.map.set b.entry (some { e with state := .damaged }) }).post .clipDamaged b.clip 0 0,
          done ++ [none])) ∧
      ((∀ e, s.store.map.get b.entry = some e → e.state = .ready → e.clip ≠ b.clip) →
        State.readWord noise b r (s, done) i = (t, done ++ [none])))

/-- R1, R16, R189: the bytes of the DRAM change only at the completion of a drain, and then only within the line drained, and at the
power-on reset. -/
def Obligations.DramChangesOnlyByDrains : Prop :=
  ∀ (i : Instr) (s t : State), exec i s = .next t → Memory.wf s.store.dram = true → ∀ a,
    Memory.read t.store.dram a ≠ Memory.read s.store.dram a →
      i = .powerOnReset ∨ ∃ noise w x, i = .burstCompletion noise ∧ s.store.burst = some ⟨.drain w, x⟩ ∧
        lineAddress w.page w.line ≤ a ∧ a < lineAddress w.page w.line + w.data.length

/-- R28: the reads of the two tables check parity, and each failed check is filed with the entry's number or the page as detail, critical as
it is; the value stays wrong until it is written. Which reads an operation makes, and that their failures are filed at its event's end, is
the model's reading of R28 (log 7). Searches of the clip map (CLIP-QUERY, LOAD-OPEN, a lookup, an eviction) meet every entry that fails, a
release and an uncorrectable word the entry they name; a chain freed and the lines of a fetch meet the link values followed, and a scrub's
grant its page's link value, and, in the search for the page's owner, the map. With the critical-pending flag clear one failure sets it;
with it set the hub enters FALLBACK; in FALLBACK every failure is filed and nothing else comes of it. -/
def Obligations.ParityFailuresAreFiled : Prop :=
  (∀ (p : Port) (s : State) (h : InHand), s.holds p .clipQuery h → h.payload.length = 2 → s.store.noted = [] →
    let reply := s.withReply p h .ok (s.store.queryBytes (natLE h.payload))
    (∀ n, s.store.badMap = [n] → s.faults.pending = false →
      exec (.clipQuery p) s = .next (reply.fileFault .mapParity n.val 0) ∧
      ((s.faults.banks.get 0).mask.getLsbD 4 = true → (reply.fileFault .mapParity n.val 0).faults.pending = true)) ∧
    (s.store.badMap ≠ [] → s.faults.pending = true → (s.faults.banks.get 0).mask.getLsbD 4 = true →
      ∃ t, exec (.clipQuery p) s = .next t ∧ t.ctl.op = .fallback) ∧
    (s.ctl.op = .fallback →
      exec (.clipQuery p) s = .next (s.store.badMap.foldl (fun t n => t.fileFault .mapParity n.val 0) reply))) ∧
  (∀ (p : Port) (s : State) (h : InHand) (x : LoadOpenArgs), s.holds p .loadOpen h → loadOpenOf h.payload = some x →
    loadOpenLegal x = true → s.store.slots.get p = .closed → s.store.noted = [] → s.ctl.op = .fallback →
    (s.store.loadBusy p x.clip = true →
      exec (.loadOpen p) s = .next (s.store.badMap.foldl (fun t n => t.fileFault .mapParity n.val 0) (s.refusedWrite p h .inUse))) ∧
    (s.store.loadBusy p x.clip = false → (∀ n, ∃ e, s.store.map.get n = some e ∧ e.candidate = false) →
      exec (.loadOpen p) s = .next ((s.store.badMap ++ s.store.badMap).foldl (fun t n => t.fileFault .mapParity n.val 0)
        (s.refusedWrite p h .full)))) ∧
  (∀ (s : State) (page : Page) (w : WordNo) (rest : List (Page × WordNo)), s.store.burst = none →
    (∀ q c, s.mix.block.get q = some c → c.want = []) → (∀ j z, s.light.players.get j = some z → z.want = []) →
    s.store.scrub = (page, w) :: rest → linkOf s.store.links page = .free → page ∈ s.store.badLinks → s.store.noted = [] →
    s.faults.pending = false →
      exec .dramGrant s = .next ((s.onStore fun st => { st with scrub := rest }).fileFault .linkParity page.val 0)) ∧
  (∀ st : Store,
    let entries := st.badMap.map ParityPlace.map
    let entry := fun (n : EntryNo) => if n ∈ st.badMap then [ParityPlace.map n] else []
    let links := fun (l : List Page) => (l.filter (· ∈ st.badLinks)).map ParityPlace.link
    (∀ clip accept, (st.lookup clip accept).1.noted = st.noted ++ entries) ∧
    (∀ q, (st.freeChain (some q)).noted = st.noted ++ links (st.chain q)) ∧
    (∀ n e, st.map.get n = some e →
      (e.state ≠ .retiring ∨ 1 < e.useCount → (st.release n).noted = st.noted ++ entry n) ∧
      (∀ q, e.state = .retiring → e.useCount ≤ 1 → e.firstPage = some q →
        (st.release n).noted = st.noted ++ entry n ++ links (st.chain q))) ∧
    (∀ b hi, (st.readTo b hi).noted = st.noted ++ links ((st.chain b.first).take (hi / 4096))) ∧
    (∀ page, linkOf st.links page ≠ .free → ∀ n ∈ st.badMap, ParityPlace.map n ∈ (st.readOwner page).noted) ∧
    (∀ n e, (st.putEntry n e).badMap = st.badMap.filter (· ≠ n)) ∧
    (∀ p v, (st.putLink p v).badLinks = st.badLinks.filter (· ≠ p))) ∧
  (∀ s t : State, s.evict = some t → ∃ n e, s.store.map.get n = some e ∧ e.candidate = true ∧
    t.store.noted = s.store.noted ++ s.store.badMap.map ParityPlace.map ++ (match e.firstPage with
      | some q => ((s.store.chain q).filter (· ∈ s.store.badLinks)).map ParityPlace.link
      | none => [])) ∧
  (∀ (s : State) (n : EntryNo) (clip : Nat) (page : Page), n ∈ s.store.badMap →
    (s.eccUncorrected n clip page).store.noted = s.store.noted ++ [ParityPlace.map n])

/-! ## The route -/

/-- R35, R44: a forward move gathers exactly the points p with old < p ≤ new of the two tables, a stop's approach point being left out
where its arrival point is gathered too; and it evaluates them in ascending distance, stops before segments, and then by index. -/
def Obligations.PointsAreGatheredInOrder : Prop :=
  ∀ (r : Route) (old new : Nat),
    (r.gather old new).Pairwise pointBefore ∧
    (∀ d i, (d, Point.approach i) ∈ r.gather old new ↔ ∃ x, r.stops.get i = some x ∧ d = x.a ∧ (old < x.a ∧ x.a ≤ new) ∧
      ¬(old < x.b ∧ x.b ≤ new)) ∧
    (∀ d i both, (d, Point.arrival i both) ∈ r.gather old new ↔ ∃ x, r.stops.get i = some x ∧ d = x.b ∧ (old < x.b ∧ x.b ≤ new) ∧
      (both = true ↔ old < x.a ∧ x.a ≤ new)) ∧
    (∀ d i, (d, Point.trigger i) ∈ r.gather old new ↔ ∃ x, r.segments.get i = some x ∧ d = x.t ∧ old < x.t ∧ x.t ≤ new)

/-- R32, R33: POSITION is refused BAD-ARGUMENT above 262,143 m. Taken while the cursor is UNSET it is a first fix: the cursor becomes SET
at the distance, stops in AHEAD already reached become PASSED and segments in ARMED already passed MISSED, with no event and no item; the
speed, 120 at most, and the last mover are taken, and the next stop is worked out afresh. R34: a POSITION below the cursor's distance is
held: neither the distance nor the tables change, and only more than 30 m is filed as BACKSTEP, with the held and the offered distance;
the speed and the last mover are taken. -/
def Obligations.PositionFixesAndHolds : Prop :=
  (∀ (p : Port) (s : State) (h : InHand) (d0 d1 d2 d3 v : Byte), s.holds p .position h → s.parityGood → h.payload = [d0, d1, d2, d3, v] →
     let d := natLE [d0, d1, d2, d3]
     (262143 < d → exec (.position p) s = .next (s.refusedWrite p h .badArgument)) ∧
     (d ≤ 262143 → s.route.cursor.set = false → ∃ t, exec (.position p) s = .next t ∧
       t.route.cursor = ⟨true, d, min v.toNat 120, t.route.firstOpenStop, some p⟩ ∧
       (∀ i, t.route.stops.get i = (s.route.stops.get i).map fun x =>
         if x.state = .ahead ∧ x.b ≤ d then { x with state := .passed, request := false } else x) ∧
       (∀ i, t.route.segments.get i = (s.route.segments.get i).map fun x =>
         if x.state = .armed ∧ x.t ≤ d then { x with state := .missed } else x) ∧
       (t.ports.get p).slot = .ready ⟨h.tag, .ok, fixBytes t.route.cursor⟩ ∧
       { t with route := s.route, ports := s.ports, faults := s.faults } = s ∧
       (v.toNat ≤ 120 → t.faults = s.faults ∧ ∀ q, (t.ports.get q).queue = (s.ports.get q).queue) ∧
       (120 < v.toNat → (t.faults.banks.get 2) = (s.faults.banks.get 2).file .overspeed ((s.faults.banks.get 2).mask.getLsbD 1) v.toNat 0
         s.ctl.time))) ∧
  (∀ (p : Port) (s : State) (h : InHand) (d0 d1 d2 d3 v : Byte), s.holds p .position h → s.parityGood → h.payload = [d0, d1, d2, d3, v] →
     natLE [d0, d1, d2, d3] ≤ 262143 → s.route.cursor.set = true → natLE [d0, d1, d2, d3] < s.route.cursor.distance →
       let d := natLE [d0, d1, d2, d3]
       let c := { s.route.cursor with speed := min v.toNat 120, lastMover := some p }
       let a := (s.dropResv p).touch cursorRec
       let u := (if 120 < v.toNat then a.fileFault .overspeed v.toNat 0 else a).onRoute fun r => { r with cursor := c }
       let w := if 30 < s.route.cursor.distance - d then u.fileFault .backstep s.route.cursor.distance d else u
       exec (.position p) s = .next (w.withReply p h .ok (fixBytes c)))

/-- R35, R42 to R44, R51, R52: a forward move. The cursor takes the distance and the next stop is worked out afresh. A stop in AHEAD or
APPROACHING whose arrival point is crossed becomes CALLED or PASSED with its request flag cleared; one in AHEAD whose approach point alone
is crossed becomes APPROACHING, unless it is REQUEST-ONLY and not requested; every other stop keeps its record. A segment in ARMED that is
crossed becomes MISSED where the new distance lies beyond its late window, and is TRIGGERED otherwise; one that is not crossed stays
ARMED. -/
def Obligations.ForwardMovesSettleThePoints : Prop :=
  ∀ (p : Port) (s : State) (h : InHand) (d0 d1 d2 d3 v : Byte), s.holds p .position h → s.parityGood → h.payload = [d0, d1, d2, d3, v] →
    let d := natLE [d0, d1, d2, d3]
    let old := s.route.cursor.distance
    d ≤ 262143 → s.route.cursor.set = true → old ≤ d →
      ∃ t, exec (.position p) s = .next t ∧
        t.route.cursor = ⟨true, d, min v.toNat 120, t.route.firstOpenStop, some p⟩ ∧
        (t.ports.get p).slot = .ready ⟨h.tag, .ok, fixBytes t.route.cursor⟩ ∧
        (∀ i, s.route.stops.get i = none → t.route.stops.get i = none) ∧
        (∀ i x, s.route.stops.get i = some x →
          let a := old < x.a ∧ x.a ≤ d
          let b := old < x.b ∧ x.b ≤ d
          (b → x.state = .ahead ∨ x.state = .approaching → t.route.stops.get i = some { x with
            request := false
            state := if x.state = .approaching ∨ x.request = true ∨ (old < x.a ∧ x.a ≤ d ∧ x.requestOnly = false) then .called
              else .passed }) ∧
          (a → ¬b → x.state = .ahead → t.route.stops.get i = some (if x.requestOnly = true ∧ x.request = false then x
            else { x with state := .approaching })) ∧
          (¬a → ¬b → t.route.stops.get i = some x) ∧
          (x.state = .called ∨ x.state = .passed ∨ x.state = .skipped → t.route.stops.get i = some x)) ∧
        (∀ i x, s.route.segments.get i = some x → x.state = .armed → ∃ y, t.route.segments.get i = some y ∧
          { y with state := x.state, outstanding := x.outstanding, played := x.played } = x ∧
          (¬(old < x.t ∧ x.t ≤ d) → y = x) ∧
          (old < x.t → x.t ≤ d → x.late < d - x.t → y.state = .missed) ∧
          (old < x.t → x.t ≤ d → d - x.t ≤ x.late → y.state = .triggered ∨ y.state = .finished))

/-- R31: while the cursor is SET its distance decreases only by a JUMP, or with a ROUTE-CLEAR or a reset, which leave it UNSET. -/
def Obligations.DistanceFallsOnlyByJump : Prop :=
  ∀ (i : Instr) (s t : State), exec i s = .next t → s.route.cursor.set = true →
    (t.route.cursor.set = true → t.route.cursor.distance < s.route.cursor.distance → ∃ p, i = .jump p) ∧
    (t.route.cursor.set = false → (∃ p, i = .routeClear p ∨ i = .restart p) ∨ i = .powerOnReset)

/-- R36, JUMP: waiting commentary and waiting stop items are dropped, the cursor becomes SET at the distance with its speed kept, stops
and segments beyond it are AHEAD and ARMED again, those it has passed are PASSED or MISSED, and nothing is triggered. A stop that becomes
PASSED keeps its request flag (deduced, log 17). A distance above 262,143 is refused. R37, ROUTE-CLEAR: both tables are EMPTY and the
cursor UNSET, waiting commentary and stop items are dropped, and the PLAYING items that stay are orphaned. -/
def Obligations.JumpAndRouteClearMoveTheCursor : Prop :=
  (∀ (p : Port) (s : State) (h : InHand), s.holds p .jump h → s.parityGood →
     (h.payload.length ≠ 4 ∨ 262143 < natLE h.payload → exec (.jump p) s = .next (s.refusedWrite p h .badArgument)) ∧
     (h.payload.length = 4 → natLE h.payload ≤ 262143 → ∃ t, exec (.jump p) s = .next t ∧
       let d := natLE h.payload
       t.route.cursor = ⟨true, d, s.route.cursor.speed, t.route.firstOpenStop, some p⟩ ∧
       (t.ports.get p).slot = .ready ⟨h.tag, .ok, fixBytes t.route.cursor⟩ ∧
       (∀ i, t.route.stops.get i = (s.route.stops.get i).map fun x =>
         if d < x.b then { x with state := .ahead, request := false }
         else if x.state = .ahead ∨ x.state = .approaching then { x with state := .passed } else x) ∧
       (∀ i, s.route.segments.get i = none → t.route.segments.get i = none) ∧
       (∀ i x, s.route.segments.get i = some x → x.state ≠ .triggered → t.route.segments.get i = some
         (if d < x.t then { x with state := .armed, outstanding := 0, played := 0 }
           else if x.state = .armed then { x with state := .missed } else x)) ∧
       (∀ q, q ≠ 0 → ∀ x ∈ t.queueOf q, x.playing = true ∧ x.trig ≤ d) ∧
       (∀ x ∈ t.ann.queue, x.kind = .cab ∨ x.kind = .safety))) ∧
  (∀ (p : Port) (s : State) (h : InHand), s.holds p .routeClear h → s.parityGood →
     (h.payload ≠ [] → exec (.routeClear p) s = .next (s.refusedWrite p h .badArgument)) ∧
     (h.payload = [] → ∃ t, exec (.routeClear p) s = .next t ∧
       t.route.cursor = ⟨false, 0, 0, none, none⟩ ∧ (∀ i, t.route.stops.get i = none) ∧ (∀ i, t.route.segments.get i = none) ∧
       (t.ports.get p).slot = .ready ⟨h.tag, .ok, []⟩ ∧
       (∀ q, q ≠ 0 → ∀ x ∈ t.queueOf q, x.playing = true ∧ x.orphaned = true) ∧ (∀ x ∈ t.ann.queue, x.kind = .cab ∨ x.kind = .safety)))

/-- R40, STOP-WRITE: an accepted one stores the record, AHEAD while the coach has not reached it and PASSED otherwise, its request flag
clear, clears every reservation on it, and works the next stop out afresh. Refusals, in order: BAD-ARGUMENT, IN-USE, ORDER; they change
nothing. -/
def Obligations.StopWriteStoresTheStop : Prop :=
  ∀ (p : Port) (s : State) (h : InHand), s.holds p .stopWrite h →
    let legal := fun (k : Nat) (x : Stop) => k ≤ 63 ∧ x.a < x.b ∧ x.b ≤ 262143 ∧ 1 ≤ x.langs.length ∧
      (∀ y ∈ x.langs, 1 ≤ y.1 ∧ y.1 ≤ 63 ∧ y.2 ≠ 0) ∧ (x.langs.map Prod.fst).Nodup ∧
      1 ≤ x.pa.length ∧ x.pa.length ≤ 3 ∧ ∀ c ∈ x.pa, c ≠ 0
    ((∀ k x, stopOf h.payload = some (k, x) → ¬legal k x) → exec (.stopWrite p) s = .next (s.refusedWrite p h .badArgument)) ∧
    (∀ (i : StopNo) (x : Stop), stopOf h.payload = some (i.val, x) → legal i.val x →
      let approaching := ∃ y, s.route.stops.get i = some y ∧ y.state = .approaching
      let order := ∃ j y, s.route.stops.get j = some y ∧ (j < i ∧ x.a ≤ y.a ∨ i < j ∧ y.a ≤ x.a)
      (approaching → exec (.stopWrite p) s = .next (s.refusedWrite p h .inUse)) ∧
      (¬approaching → order → exec (.stopWrite p) s = .next (s.refusedWrite p h .order)) ∧
      (¬approaching → ¬order → ∃ t, exec (.stopWrite p) s = .next t ∧
        t.route.stops = s.route.stops.set i (some { x with
          request := false
          state := if s.route.cursor.set = false ∨ s.route.cursor.distance < x.b then .ahead else .passed }) ∧
        t.route.segments = s.route.segments ∧
        t.route.cursor = { s.route.cursor with nextStop := t.route.firstOpenStop } ∧
        (t.ports.get p).slot = .ready ⟨h.tag, .ok, []⟩ ∧
        (∀ q, (t.ports.get q).resv ≠ some (stopRec i) ∧ (t.ports.get q).queue = (s.ports.get q).queue) ∧
        { t with route := s.route, ports := s.ports } = s))

/-- R41, R47: STOP-REMOVE empties a stop that is not APPROACHING; STOP-SKIP makes one in AHEAD or APPROACHING SKIPPED with its request
flag clear. Both drop the stop's waiting items, work the next stop out afresh, and touch no other stop and, outside PARK-PENDING (where
the last item's removal may let the hub rest, which empties the commentary queues), no segment. R46, STOP-REQUEST: a payload is refused
BAD-ARGUMENT before all else (deduced, log 18); NOT-FOUND without a next stop; OK with the stop's index otherwise. A flag already set
changes nothing; else the flag is set, STOP-REQUESTED is posted, and a stop whose approach the coach is in becomes APPROACHING at once. -/
def Obligations.StopsAreRemovedSkippedAndRequested : Prop :=
  (∀ (p : Port) (s : State) (h : InHand), s.parityGood →
     let after := fun (i : StopNo) (x : Option Stop) (t : State) =>
       t.route.stops = s.route.stops.set i x ∧ t.route.cursor = { s.route.cursor with nextStop := t.route.firstOpenStop } ∧
       (t.ports.get p).slot = .ready ⟨h.tag, .ok, []⟩ ∧ t.ann.queue = s.ann.queue.filter fun y => y.stop != some i
     (s.holds p .stopRemove h →
       ((∀ i : StopNo, h.payload ≠ [byteOf i.val]) → exec (.stopRemove p) s = .next (s.refusedWrite p h .badArgument)) ∧
       (∀ i : StopNo, h.payload = [byteOf i.val] →
         (s.route.stops.get i = none → exec (.stopRemove p) s = .next (s.refusedWrite p h .notFound)) ∧
         (∀ x, s.route.stops.get i = some x →
           (x.state = .approaching → exec (.stopRemove p) s = .next (s.refusedWrite p h .inUse)) ∧
           (x.state ≠ .approaching → ∃ t, exec (.stopRemove p) s = .next t ∧ after i none t ∧
             (s.ctl.op ≠ .parkPending → t.route.segments = s.route.segments))))) ∧
     (s.holds p .stopSkip h →
       ((∀ i : StopNo, h.payload ≠ [byteOf i.val]) → exec (.stopSkip p) s = .next (s.refusedWrite p h .badArgument)) ∧
       (∀ i : StopNo, h.payload = [byteOf i.val] →
         (s.route.stops.get i = none → exec (.stopSkip p) s = .next (s.refusedWrite p h .notFound)) ∧
         (∀ x, s.route.stops.get i = some x →
           (x.state ≠ .ahead → x.state ≠ .approaching → exec (.stopSkip p) s = .next (s.refusedWrite p h .refusedState)) ∧
           (x.state = .ahead ∨ x.state = .approaching → ∃ t, exec (.stopSkip p) s = .next t ∧
             after i (some { x with state := .skipped, request := false }) t ∧ (s.ctl.op ≠ .parkPending → t.route.segments = s.route.segments)))))) ∧
  (∀ (p : Port) (s : State) (h : InHand), s.holds p .stopRequest h → s.parityGood →
     (h.payload ≠ [] → exec (.stopRequest p) s = .next (s.refusedWrite p h .badArgument)) ∧
     (h.payload = [] →
       (s.route.cursor.nextStop = none → exec (.stopRequest p) s = .next (s.refusedWrite p h .notFound)) ∧
       (∀ i x, s.route.cursor.nextStop = some i → s.route.stops.get i = some x →
         (x.request = true → exec (.stopRequest p) s = .next ((s.dropResv p).withReply p h .ok [byteOf i.val])) ∧
         (x.request = false →
           let near := x.state = .ahead ∧ s.route.cursor.set = true ∧ x.a ≤ s.route.cursor.distance ∧ s.route.cursor.distance < x.b
           (¬near → exec (.stopRequest p) s = .next (((((s.dropResv p).touch (stopRec i)).onRoute fun r =>
             { r with stops := r.stops.set i (some { x with request := true }) }).post .stopRequested i.val 0 p.val).withReply p h .ok
               [byteOf i.val])) ∧
           (near → ∃ t, exec (.stopRequest p) s = .next t ∧
             t.route.stops = s.route.stops.set i (some { x with request := true, state := .approaching }) ∧
             (t.ports.get p).slot = .ready ⟨h.tag, .ok, [byteOf i.val]⟩)))))

/-- R49: SEGMENT-WRITE stores a record, ARMED while the coach has not reached it and MISSED otherwise, with no item outstanding, and
clears every reservation on it; SEGMENT-REMOVE empties one. A TRIGGERED record is IN-USE for both. -/
def Obligations.SegmentsAreWrittenAndRemoved : Prop :=
  ∀ (p : Port) (s : State) (h : InHand),
    let legal := fun (x : Segment) => x.t ≤ 262143 ∧ x.late ≤ 2000 ∧ x.priority ≤ 3 ∧ 1 ≤ x.langs.length ∧
      (∀ y ∈ x.langs, 1 ≤ y.1 ∧ y.1 ≤ 63 ∧ y.2 ≠ 0) ∧ (x.langs.map Prod.fst).Nodup
    let triggered := fun (i : SegNo) => ∃ y, s.route.segments.get i = some y ∧ y.state = .triggered
    let put := fun (i : SegNo) (x : Option Segment) =>
      (((s.dropResv p).touch (segmentRec i)).onRoute fun r => { r with segments := r.segments.set i x }).withReply p h .ok []
    (s.holds p .segmentWrite h →
      ((∀ k x, segmentOf h.payload = some (k, x) → ¬legal x) → exec (.segmentWrite p) s = .next (s.refusedWrite p h .badArgument)) ∧
      (∀ (i : SegNo) (x : Segment), segmentOf h.payload = some (i.val, x) → legal x →
        (triggered i → exec (.segmentWrite p) s = .next (s.refusedWrite p h .inUse)) ∧
        (¬triggered i → exec (.segmentWrite p) s = .next (put i (some { x with
          state := if s.route.cursor.set = false ∨ s.route.cursor.distance < x.t then .armed else .missed
          outstanding := 0, played := 0 }))))) ∧
    (s.holds p .segmentRemove h →
      (h.payload.length ≠ 1 → exec (.segmentRemove p) s = .next (s.refusedWrite p h .badArgument)) ∧
      (∀ i : SegNo, h.payload = [byteOf i.val] →
        (s.route.segments.get i = none → exec (.segmentRemove p) s = .next (s.refusedWrite p h .notFound)) ∧
        (triggered i → exec (.segmentRemove p) s = .next (s.refusedWrite p h .inUse)) ∧
        (s.route.segments.get i ≠ none → ¬triggered i → exec (.segmentRemove p) s = .next (put i none))))

/-! ## Commentary and announcements -/

/-- R60: an item joins its programme's queue behind every item whose trigger distance is at or below its own. A full queue first gives up
its oldest WAITING item of a priority at or below the new one's; where it has none the new item is dropped and its use given up. No other
programme's queue changes. -/
def Obligations.CommentaryItemsJoinTheirQueue : Prop :=
  ∀ (p : Prog) (x : Item) (s : State),
    (∀ q, q ≠ p → (s.placeItem p x).1.queueOf q = s.queueOf q) ∧
    ((s.queueOf p).length < 4 → (s.placeItem p x).2 = true ∧ ∃ a b, s.queueOf p = a ++ b ∧ (s.placeItem p x).1.queueOf p = a ++ x :: b ∧
      (∀ y ∈ a, y.trig ≤ x.trig) ∧ ∀ y ∈ b.head?, x.trig < y.trig) ∧
    (4 ≤ (s.queueOf p).length →
      ((∀ y ∈ s.queueOf p, y.playing = true ∨ x.priority < y.priority) →
        s.placeItem p x = (s.onStore fun st => st.release x.bind.entry, false)) ∧
      (∀ u y v, s.queueOf p = u ++ y :: v → (∀ z ∈ u, z.playing = true ∨ x.priority < z.priority) → y.playing = false →
        y.priority ≤ x.priority → (s.placeItem p x).2 = true ∧ ∃ a b, u ++ v = a ++ b ∧
          (s.placeItem p x).1.queueOf p = a ++ x :: b ∧ (∀ z ∈ a, z.trig ≤ x.trig) ∧ ∀ z ∈ b.head?, x.trig < z.trig))

/-- R77: the number that the counter gives the next item is one that no waiting item and no current announcement holds, from 1 to 65535.
R78, R80, R91: a stop item handed on takes a number; in STANDBY and FALLBACK it is dropped with STATE, in FALLBACK at a full queue too
(the model's choice where R80 and R82 part, log 27), at a full queue with FULL, and else joins at the tail, where it waits while an
announcement is current or the DRIVER channel is ON. -/
def Obligations.StopItemsAreNumberedAndArrive : Prop :=
  (∀ (s : State), s.ann.queue.length ≤ 8 → s.ann.nextNumber ≤ 65535 →
     s.takeNumber.2 = s.ann.nextNumber ∧
     (∀ x ∈ s.ann.queue, x.number ≠ s.takeNumber.1.ann.nextNumber) ∧
     (∀ c, s.ann.current = some c → c.item.number ≠ s.takeNumber.1.ann.nextNumber) ∧
     1 ≤ s.takeNumber.1.ann.nextNumber ∧ s.takeNumber.1.ann.nextNumber ≤ 65535 ∧
     { s.takeNumber.1 with ann := s.ann } = s ∧ { s.takeNumber.1.ann with nextNumber := s.ann.nextNumber } = s.ann) ∧
  (∀ (s : State) (mk : Nat → AnnItem),
     let n := s.ann.nextNumber
     let dropped := fun (r : DropReason) => s.takeNumber.1.post .announceDropped (mk n).number (stopNum (mk n).stop) (dropCode r)
     (s.ctl.op = .standby ∨ s.ctl.op = .fallback → s.stopItemArrives mk = dropped .state) ∧
     (s.ctl.op = .run ∨ s.ctl.op = .parkPending →
       (8 ≤ s.ann.queue.length → s.stopItemArrives mk = dropped .full) ∧
       (s.ann.queue.length < 8 → s.ann.current ≠ none ∨ s.ann.live.driver ≠ none →
         s.stopItemArrives mk = s.takeNumber.1.onAnn fun a => { a with queue := a.queue ++ [mk n] }) ∧
       (s.ann.queue = [] → s.ann.current = none → s.ann.live.driver = none →
         ∃ c, (s.stopItemArrives mk).ann.current = some c ∧ c.item = mk n ∧ c.phase = .leadIn ∧
           (s.stopItemArrives mk).ann.ducker = true ∧ (s.stopItemArrives mk).com.window = true)))

/-- R79, R80, R83, ANNOUNCE: its refusals in order; an accepted item takes the next number and enters the queue, a SAFETY item behind the
last SAFETY item and a CAB item at the tail, and is answered OK with its number. With nothing in its way it becomes current at once, in
LEAD-IN, with the ducker active and the window open. R90, ANNOUNCE-CANCEL: a waiting item leaves the queue, CANCELLED; the current
announcement, in LEAD-IN or SPEAKING, goes to TAIL with its voices stopping and the ducker inactive at once; in TAIL nothing changes; any
other number is NOT-FOUND. -/
def Obligations.AnnouncementsEnterAndAreCancelled : Prop :=
  (∀ (p : Port) (s : State) (h : InHand), s.holds p .announce h → s.parityGood →
     let legal := fun (x : AnnounceArgs) => (x.kind = .cab ∨ x.kind = .safety) ∧ (∀ y ∈ x.langs, 1 ≤ y.1 ∧ y.1 ≤ 63 ∧ y.2 ≠ 0) ∧
       (x.langs.map Prod.fst).Nodup ∧ 1 ≤ x.pa.length ∧ x.pa.length ≤ 3 ∧ ∀ c ∈ x.pa, c ≠ 0
     ((∀ x, announceOf h.payload = some x → ¬legal x) → exec (.announce p) s = .next (s.refusedWrite p h .badArgument)) ∧
     (∀ x, announceOf h.payload = some x → legal x →
       let n := s.ann.nextNumber
       let item : AnnItem := ⟨n, x.kind, none, none, x.langs, x.dflt, x.pa, x.chime, none, some p⟩
       let numbered := (s.dropResv p).onAnn fun a => { a with nextNumber := s.takeNumber.1.ann.nextNumber }
       (s.ctl.op = .standby ∨ x.kind = .cab ∧ s.ctl.op = .fallback → exec (.announce p) s = .next (s.refusedWrite p h .refusedState)) ∧
       (s.ctl.op = .run ∨ s.ctl.op = .parkPending ∨ s.ctl.op = .fallback ∧ x.kind = .safety →
         (8 ≤ s.ann.queue.length → x.kind = .cab ∨ (∀ y ∈ s.ann.queue, y.kind = .safety) →
           exec (.announce p) s = .next (s.refusedWrite p h .full)) ∧
         (s.ann.queue.length < 8 → s.ann.current ≠ none ∨ s.ann.live.driver ≠ none → ∀ a b, s.ann.queue = a ++ b →
           (x.kind = .cab → b = []) → (x.kind = .safety → (∀ y ∈ a, y.kind = .safety) ∧ ∀ y ∈ b.head?, y.kind ≠ .safety) →
           exec (.announce p) s = .next ((numbered.onAnn fun z => { z with queue := a ++ item :: b }).withReply p h .ok (bytesLE 2 n))) ∧
         (8 ≤ s.ann.queue.length → x.kind = .safety → s.ann.current ≠ none ∨ s.ann.live.driver ≠ none → ∀ a b y,
           s.ann.queue = a ++ b ++ [y] → (∀ z ∈ a, z.kind = .safety) → (∀ z ∈ b ++ [y], z.kind ≠ .safety) →
           exec (.announce p) s = .next (((numbered.onAnn fun z => { z with queue := a ++ item :: b }).post .announceDropped
             y.number (stopNum y.stop) 0).withReply p h .ok (bytesLE 2 n))) ∧
         (s.ann.queue = [] → s.ann.current = none → s.ann.live.driver = none → ∃ t c, exec (.announce p) s = .next t ∧
           t.ann.queue = [] ∧ t.ann.current = some c ∧ c.item = item ∧ c.phase = .leadIn ∧ t.ann.ducker = true ∧ t.com.window = true ∧
           (t.ports.get p).slot = .ready ⟨h.tag, .ok, bytesLE 2 n⟩)))) ∧
  (∀ (p : Port) (s : State) (h : InHand), s.holds p .announceCancel h → s.parityGood →
     (h.payload.length ≠ 2 → exec (.announceCancel p) s = .next (s.refusedWrite p h .badArgument)) ∧
     (h.payload.length = 2 →
       let n := natLE h.payload
       (∀ a x b, s.ann.queue = a ++ x :: b → x.number = n → (∀ y ∈ a ++ b, y.number ≠ n) → s.ctl.op ≠ .parkPending →
         exec (.announceCancel p) s = .next ((((s.dropResv p).onAnn fun z => { z with queue := a ++ b }).post .announceDropped
           x.number (stopNum x.stop) 4).withReply p h .ok [])) ∧
       ((∀ x ∈ s.ann.queue, x.number ≠ n) →
         (∀ c, s.ann.current = some c → c.item.number = n →
           (c.phase = .tail → exec (.announceCancel p) s = .next ((s.dropResv p).withReply p h .ok [])) ∧
           (c.phase ≠ .tail → ∃ t, exec (.announceCancel p) s = .next t ∧ t.ann.ducker = false ∧ t.ann.queue = s.ann.queue ∧
             t.ann.current = some { c with
               ending := .cancelled, phase := .tail, voices := Tab.map (fun v => { v with stopping := true }) c.voices } ∧
             (t.ports.get p).slot = .ready ⟨h.tag, .ok, []⟩ ∧ { t with ann := s.ann, ports := s.ports } = s)) ∧
         ((∀ c, s.ann.current = some c → c.item.number ≠ n) → exec (.announceCancel p) s = .next (s.refusedWrite p h .notFound)))))

/-- R83: no announcement becomes current while the DRIVER live channel is ON, but in the event that turns it OFF. -/
def Obligations.NoAnnouncementStartsUnderTheDriver : Prop :=
  ∀ (i : Instr) (s t : State), exec i s = .next t → s.ann.live.driver ≠ none → ∀ c, t.ann.current = some c →
    (∃ b, s.ann.current = some b ∧ b.item = c.item) ∨ (∃ p, i = .liveOff p) ∨ i = .liveTimeout .driver

/-! ## Live speech -/

/-- R92, R93: LIVE-ON turns a channel ON, or renews its own port's start time; LIVE-OFF turns its own port's channel OFF. Each refusal
changes nothing. An announcement that waits may start when DRIVER turns OFF (R83); with none waiting, nothing else changes. R94: a channel
times out 90,000 ms after its start time, modulo 2^32: it turns OFF and LIVE-TIMEOUT is posted with the channel and its owner. Before
that, and on a channel that is OFF, the event does not take place (log 2). -/
def Obligations.LiveChannelsTurnOnAndOff : Prop :=
  (∀ (p : Port) (s : State) (h : InHand),
     let off := fun (c : Channel) (a : Announcer) => { a with live := a.live.set c none, lost := a.lost.set c false }
     (s.holds p .liveOn h →
       ((∀ c, h.payload ≠ [byteOf (channelCode c)]) → exec (.liveOn p) s = .next (s.refusedWrite p h .badArgument)) ∧
       (∀ c, h.payload = [byteOf (channelCode c)] →
         (s.ctl.op = .standby → exec (.liveOn p) s = .next (s.refusedWrite p h .refusedState)) ∧
         (s.ctl.op ≠ .standby →
           ((∃ l, s.ann.live.get c = some l ∧ l.owner ≠ p) → exec (.liveOn p) s = .next (s.refusedWrite p h .inUse)) ∧
           ((∀ l, s.ann.live.get c = some l → l.owner = p) → exec (.liveOn p) s = .next (((s.dropResv p).onAnn fun a =>
             { a with live := a.live.set c (some ⟨p, s.ctl.time⟩) }).withReply p h .ok (bytesLE 4 s.ctl.time.toNat)))))) ∧
     (s.holds p .liveOff h → s.parityGood →
       ((∀ c, h.payload ≠ [byteOf (channelCode c)]) → exec (.liveOff p) s = .next (s.refusedWrite p h .badArgument)) ∧
       (∀ c, h.payload = [byteOf (channelCode c)] →
         (s.ann.live.get c = none → exec (.liveOff p) s = .next (s.refusedWrite p h .notActive)) ∧
         (∀ l, s.ann.live.get c = some l →
           (l.owner ≠ p → exec (.liveOff p) s = .next (s.refusedWrite p h .notOwner)) ∧
           (l.owner = p → ∃ t, exec (.liveOff p) s = .next t ∧ t.ann.live = s.ann.live.set c none ∧ t.ann.lost.get c = false ∧
             (t.ports.get p).slot = .ready ⟨h.tag, .ok, []⟩ ∧
             (s.ann.queue = [] → s.ctl.op ≠ .parkPending →
               t = ((s.dropResv p).onAnn (off c)).withReply p h .ok [])))))) ∧
  (∀ (c : Channel) (s : State), s.parityGood →
     (s.ann.live.get c = none → exec (.liveTimeout c) s = .next s) ∧
     (∀ l, s.ann.live.get c = some l →
       ((s.ctl.time - l.start).toNat < 90000 → exec (.liveTimeout c) s = .next s) ∧
       (90000 ≤ (s.ctl.time - l.start).toNat → ∃ t, exec (.liveTimeout c) s = .next t ∧ t.ann.live = s.ann.live.set c none ∧
         t.ann.lost.get c = false ∧
         (s.ann.queue = [] → s.ctl.op ≠ .parkPending →
           t = (s.onAnn fun a => { a with live := a.live.set c none, lost := a.lost.set c false }).post .liveTimeout
             (channelCode c) l.owner.val 0))))

/-- R96: at the end of a microphone period the channel's frame is the one that arrived, which clears the lost-input mark, or none; a frame
missing on a channel that is ON with the mark clear files LIVE-INPUT-LOST with the channel and sets the mark. -/
def Obligations.MicPeriodsDeliverFrames : Prop :=
  ∀ (c : Channel) (s : State),
    (∀ frame : List (BitVec 16), exec (.micPeriodEnd c (some frame)) s = .next (s.onAnn fun a =>
      { a with frames := a.frames.set c (some (frame.map fun x => x.toInt)), lost := a.lost.set c false })) ∧
    (let u := s.onAnn (fun a => { a with frames := a.frames.set c none });
      (s.ann.live.get c = none ∨ s.ann.lost.get c = true → exec (.micPeriodEnd c none) s = .next u) ∧
      (s.ann.live.get c ≠ none → s.ann.lost.get c = false → exec (.micPeriodEnd c none) s =
        .next ((u.fileFault .liveInputLost (channelCode c) 0).onAnn fun a => { a with lost := a.lost.set c true })))

/-! ## Programmes -/

/-- R100, R101, PROGRAMME-WRITE: a record out of range is refused. An accepted one is stored with its gains at most 4096 and its master at
most 8192 and answered as stored; a guide flag set takes the flag from every other programme. A programme switched OFF loses its queue,
its announcement and bed voices and its decision; one switched ON starts AWAKE with its voices unbound at full gain. A programme that
stays ON or OFF, or programme 0 with its mirror source kept, changes nothing but records. R99: a change of the mirror source empties the
mirror buffer; the new source is AWAKE at once, and the former one stays so until its next block start. -/
def Obligations.ProgrammeWriteStoresTheRecord : Prop :=
  ∀ (p : Port) (s : State) (h : InHand), s.holds p .programmeWrite h → s.parityGood →
    let legal := fun (k : Nat) (x : ProgRec) => if k = 0 then x.on = true ∧ x.lang = 0 ∧ x.guide = false ∧ x.mirror ≤ 12
      else k ≤ 12 ∧ 1 ≤ x.lang ∧ x.lang ≤ 63 ∧ x.mirror = 0
    ((∀ k x, programmeOf h.payload = some (k, x) → ¬legal k x) → exec (.programmeWrite p) s = .next (s.refusedWrite p h .badArgument)) ∧
    (∀ (k : Prog) (x : ProgRec), programmeOf h.payload = some (k.val, x) → legal k.val x →
      let y := { x with gains := ⟨min 4096 x.gains.commentary, min 4096 x.gains.announce, min 4096 x.gains.live, min 4096 x.gains.bed⟩
                        master := min 8192 x.master }
      ∃ t, exec (.programmeWrite p) s = .next t ∧ (t.ports.get p).slot = .ready ⟨h.tag, .ok, programmeBytes k y⟩ ∧
        t.mix.progs.get k = y ∧
        (∀ q, q ≠ k → t.mix.progs.get q =
          if q ≠ 0 ∧ x.guide = true then { s.mix.progs.get q with guide := false } else s.mix.progs.get q) ∧
        (∀ q, (t.ports.get q).resv ≠ some (programmeRec k)) ∧
        t.route.cursor.set = s.route.cursor.set ∧ t.route.cursor.distance = s.route.cursor.distance ∧ t.route.stops = s.route.stops ∧
        t.store.dram = s.store.dram ∧ t.ctl.time = s.ctl.time ∧
        (s.progOn k = x.on → k ≠ 0 ∨ (s.mix.progs.get 0).mirror = x.mirror →
          { t with mix := s.mix, ports := s.ports } = s ∧ { t.mix with progs := s.mix.progs } = s.mix) ∧
        (k = 0 → (s.mix.progs.get 0).mirror ≠ x.mirror → t.mix.mirror = [] ∧
          (∀ q : Prog, q.val = x.mirror → t.mix.awake.get q = true) ∧
          (∀ q : Prog, q ≠ 0 → q.val = (s.mix.progs.get 0).mirror → t.mix.awake.get q = s.mix.awake.get q ∧ t.mix.leaving.get q = true ∧
            t.storeAwake q = true)) ∧
        (k ≠ 0 → s.progOn k = true → x.on = false → t.queueOf k = [] ∧ (t.voice k .bed).bind = none ∧
          (t.voice k .announce).bind = none ∧ t.seat.act.get k = none ∧ t.seat.hold.get k = none) ∧
        (k ≠ 0 → s.progOn k = false → x.on = true → (∀ v, (t.voice k v).bind = none ∧ (t.voice k v).d = 4096) ∧
          (t.seat.act.get k = some .awake ∨ s.seat.holdoff = 0 ∧ s.seat.occ.get k = 0)))

/-- R102, R103, R104: DUCK-WRITE and LOUDNESS-WRITE store their record with every value clamped into its range, clear every reservation on
it and answer it as stored; MIX-COUNT-CLEAR answers a programme's clamped-block count and sets it to 0. Nothing else changes. -/
def Obligations.MixSettingsAreStored : Prop :=
  ∀ (p : Port) (s : State) (h : InHand),
    (s.holds p .duckWrite h →
      (duckOf h.payload = none → exec (.duckWrite p) s = .next (s.refusedWrite p h .badArgument)) ∧
      (∀ x, duckOf h.payload = some x →
        let row := fun (r : DuckRow) => (⟨r.commentary.map (min 4096), r.announce.map (min 4096), r.live.map (min 4096),
          r.bed.map (min 4096)⟩ : DuckRow)
        let y : DuckTable := ⟨row x.announce, row x.liveDriver, row x.liveGuide, max 1 (min 512 x.r)⟩
        exec (.duckWrite p) s = .next ((((s.dropResv p).touch duckRec).onMix fun m => { m with duck := y }).withReply p h .ok
          (duckBytes y)))) ∧
    (s.holds p .loudnessWrite h →
      (loudnessOf h.payload = none → exec (.loudnessWrite p) s = .next (s.refusedWrite p h .badArgument)) ∧
      (∀ x, loudnessOf h.payload = some x →
        let group := fun (g : LoudGroup) => (⟨min 64 g.k, min 120 g.v0, max 4096 (min 8192 g.lmax)⟩ : LoudGroup)
        let y : Loudness := ⟨group x.headset, group x.pa⟩
        exec (.loudnessWrite p) s = .next ((((s.dropResv p).touch loudnessRec).onMix fun m => { m with loud := y }).withReply p h .ok
          (loudnessBytes y)))) ∧
    (s.holds p .mixCountClear h →
      ((∀ i : Prog, h.payload ≠ [byteOf i.val]) → exec (.mixCountClear p) s = .next (s.refusedWrite p h .badArgument)) ∧
      (∀ i : Prog, h.payload = [byteOf i.val] → exec (.mixCountClear p) s =
        .next (((s.dropResv p).onMix fun m => { m with clamped := m.clamped.set i 0 }).withReply p h .ok
          (bytesLE 2 (s.mix.clamped.get i)))))

/-- R109, R95: a duck target is the least target of the active duckers that lower the voice's class, or 4096 where none does; the ANNOUNCE
ducker is active on every programme, LIVE-DRIVER while DRIVER is ON on all, and LIVE-GUIDE, with DRIVER OFF, on programme 0 and the guide
programme. Each sample moves a gain by at most r toward its target and stops there: after n samples it has moved n times r, or arrived.
R109, R110, R111: the mixer's arithmetic, sample by sample. The duck gains step once before each sample; each voice's term, and the sum by
master and loudness, is divided by 2^24 and floored; the sample put out is clamped to 16 bits, and the samples clamped are counted. -/
def Obligations.DuckGainsRampAndBlocksAreMixed : Prop :=
  ((∀ (s : State) (p : Prog) (row : DuckRow), row ∈ s.duckRows p ↔
     s.ann.ducker = true ∧ row = s.mix.duck.announce ∨ s.ann.live.driver ≠ none ∧ row = s.mix.duck.liveDriver ∨
       s.ann.live.driver = none ∧ s.ann.live.guide ≠ none ∧ (p = 0 ∨ (s.mix.progs.get p).guide = true) ∧ row = s.mix.duck.liveGuide) ∧
   (∀ (s : State) (p : Prog) (v : Voice),
     (∀ row ∈ s.duckRows p, ∀ x, row.get v = some x → (s.duckTargets p).get v ≤ x) ∧
     (s.duckTargets p).get v ≤ 4096 ∧
     ((s.duckTargets p).get v = 4096 ∨ ∃ row ∈ s.duckRows p, row.get v = some ((s.duckTargets p).get v))) ∧
   (∀ r target d n : Nat, (stepDuck r target)^[n] d = if d ≤ target then min target (d + n * r) else max target (d - n * r))) ∧
  (∀ (b : Block) (l : List (Quad Int)) (d : Quad Nat),
     let gain := fun (v : Voice) (n : Nat) => (stepDuck b.r (b.target.get v))^[n + 1] (d.get v)
     let term := fun (x : Quad Int) (n : Nat) (v : Voice) => x.get v * (b.gains.get v : Int) * (gain v n : Int) / 2 ^ 24
     let raw := fun (x : Quad Int) (n : Nat) =>
       (term x n .commentary + term x n .announce + term x n .live + term x n .bed) * (b.master : Int) * (b.loud : Int) / 2 ^ 24
     (b.mix l d).out = l.zipIdx.map (fun x => max (-32768) (min 32767 (raw x.1 x.2))) ∧
     (b.mix l d).clamped = (l.zipIdx.filter fun x => decide (raw x.1 x.2 < -32768 ∨ 32767 < raw x.1 x.2)).length ∧
     (∀ v, (b.mix l d).ducks.get v = (stepDuck b.r (b.target.get v))^[l.length] (d.get v)))

/-- R106, R63, R104, R116: a block start settles the block. A programme that is OFF has a silent one. For one that is ON the block takes
its gains, master, duck step and targets, its loudness factor and its microphone frame as they stand, and whether it is AWAKE; and the
head of its commentary queue, WAITING and not held back, becomes PLAYING on the COMMENTARY voice. A former mirror source takes the Seat
Link's decision from here on. With a block in progress the event does not take place (log 2). -/
def Obligations.BlockStartSettlesTheBlock : Prop :=
  ∀ (p : Prog) (s : State), s.parityGood →
    (s.mix.block.get p ≠ none → exec (.blockStart p) s = .next s) ∧
    (s.mix.block.get p = none → ∃ t b, exec (.blockStart p) s = .next t ∧ t.mix.block.get p = some b ∧ t.ann.fresh.get p = true ∧
      (∀ q, q ≠ p → t.mix.block.get q = s.mix.block.get q ∧ t.mix.voices.get q = s.mix.voices.get q ∧ t.queueOf q = s.queueOf q) ∧
      t.mix.out = s.mix.out ∧ t.route.stops = s.route.stops ∧ t.seat = s.seat ∧ t.light = s.light ∧ t.ctl = s.ctl ∧
      (s.progOn p = false → b.on = false ∧ b.want = [] ∧ t.mix.streak.get p = 0) ∧
      (s.progOn p = true →
        b.on = true ∧ b.awake = s.awakeNow p ∧ t.mix.awake.get p = s.awakeNow p ∧ t.mix.leaving.get p = false ∧
        b.gains = (s.mix.progs.get p).gains ∧
        b.master = (s.mix.progs.get p).master ∧ b.r = s.mix.duck.r ∧ b.target = s.duckTargets p ∧
        b.loud = (let g := if p = 0 then s.mix.loud.pa else s.mix.loud.headset
          min g.lmax (4096 + g.k * ((if s.route.cursor.set then s.route.cursor.speed else 0) - g.v0))) ∧
        b.live = (match s.liveFeed p with
          | some c => (s.ann.frames.get c).getD []
          | none => []) ∧
        (b.awake = false ∨ s.ctl.op = .standby → b.want = []) ∧
        (∀ x rest, s.queueOf p = x :: rest → x.playing = false → x.hold = false ∨ s.com.window = false →
          t.queueOf p = { x with playing := true, paused := false, pos := 0 } :: rest ∧
          (t.voice p .commentary).bind = some x.bind ∧ (t.voice p .commentary).pos = 0 ∧ (t.voice p .commentary).paused = false)))

/-- R106, R107, R110, R115, R116: a deadline ends the block in progress and puts 192 samples out, each a 16-bit one, all 0 where the block
does not sound; a COMMENTARY or BED voice that plays on has moved by what its kind consumes. An incomplete fetch counts in the underrun
streak and is filed as UNDERRUN with the programme and the streak: FAULT is posted where the kind is enabled, ahead of the block's other
events (the model's order, log 13), and an empty bank record takes it. At the sixteenth in a row UNDERRUN-STREAK is filed after UNDERRUN,
and any record that is not uncorrected gives way to it; the streak becomes 0, and the fault, critical where it is enabled, sets the
critical-pending flag or takes the hub to FALLBACK. With no block in progress the event does not take place (log 2). -/
def Obligations.DeadlinesPutTheBlockOut : Prop :=
  ∀ (p : Prog) (s : State), s.parityGood →
    (s.mix.block.get p = none → exec (.blockDeadline p) s = .next s) ∧
    (∀ b, s.mix.block.get p = some b → ∃ t, exec (.blockDeadline p) s = .next t ∧ t.mix.block.get p = none ∧
      (t.mix.out.get p).length = 192 ∧ (∀ x ∈ t.mix.out.get p, -32768 ≤ x ∧ x ≤ 32767) ∧
      (∀ q, q ≠ p → t.mix.out.get q = s.mix.out.get q ∧ t.mix.block.get q = s.mix.block.get q) ∧
      t.route.stops = s.route.stops ∧ t.mix.progs = s.mix.progs ∧
      (b.on = false ∨ b.awake = false ∨ b.mode = .zero → t.mix.out.get p = List.replicate 192 0) ∧
      (b.want = [] → s.store.burst = none →
        t.mix.streak.get p = s.mix.streak.get p ∧
        (s.ctl.op ≠ .parkPending → b.on = true → b.cut = false → ∀ v y, v = .commentary ∨ v = .bed → b.src.get v = some y →
          (s.voice p v).started = true → (s.voice p v).bind = some y.bind →
          y.pos + (match y.bind.kind with
            | .speech12 => 192
            | .audio48 => 768
            | _ => 384) < y.bind.len →
          (t.voice p v).bind = some y.bind ∧ (t.voice p v).pos = y.pos + (match y.bind.kind with
            | .speech12 => 192
            | .audio48 => 768
            | _ => 384))) ∧
      (∀ v r rest, b.want = (v, r) :: rest → v ≠ .live →
        let bank := s.faults.banks.get 1
        let events := fun (q : Port) => (s.ports.get q).queue.length
        (s.mix.streak.get p < 15 →
          t.mix.streak.get p = s.mix.streak.get p + 1 ∧
          (bank.mask.getLsbD 1 = true → bank.record = none → ∃ x, (t.faults.banks.get 1).record = some x ∧ x.kind = .underrun ∧
            x.detail1 = p.val ∧ x.detail2 = s.mix.streak.get p + 1 ∧ x.stamp = s.ctl.time)) ∧
        (bank.mask.getLsbD 1 = true → ∀ q : Port, (s.ports.get q).mask.getLsbD (eventKindCode .fault) = true → events q < 16 →
          ∃ captured, (t.ports.get q).queue[events q]? = some ⟨.fault, 1, 1, captured, s.ctl.time⟩) ∧
        (s.mix.streak.get p = 15 →
          t.mix.streak.get p = 0 ∧
          ((∀ x, bank.record = some x → x.uncorrected = false) → ∃ x, (t.faults.banks.get 1).record = some x ∧ x.kind = .underrunStreak ∧
            x.uncorrected = true ∧ x.detail1 = p.val ∧ x.detail2 = 0 ∧ x.stamp = s.ctl.time) ∧
          (bank.mask.getLsbD 2 = true → t.faults.pending = true ∧ (s.faults.pending = true → t.ctl.op = .fallback)))))

/-! ## Seats -/

/-- R119, R120, R127, SEAT-CONFIG: a count of 0 is refused; otherwise the count, 80 at most, and the holdoff, 60,000 ms at most, are
stored and answered. A seat beyond the count is DISABLED with its record cleared, one that comes within it again is UNKNOWN, every other
keeps its record, and the occupancies are counted afresh. -/
def Obligations.SeatConfigSetsTheTable : Prop :=
  ∀ (p : Port) (s : State) (h : InHand), s.holds p .seatConfig h →
    (h.payload.length ≠ 3 → exec (.seatConfig p) s = .next (s.refusedWrite p h .badArgument)) ∧
    (∀ c h0 h1 : Byte, h.payload = [c, h0, h1] →
      (c = 0 → exec (.seatConfig p) s = .next (s.refusedWrite p h .badArgument)) ∧
      (c ≠ 0 → ∃ t, exec (.seatConfig p) s = .next t ∧
        t.seat.count = min 80 c.toNat ∧ t.seat.holdoff = min 60000 (natLE [h0, h1]) ∧
        t.seat.pointer = (if s.seat.pointer < t.seat.count then s.seat.pointer else 0) ∧
        (t.ports.get p).slot = .ready ⟨h.tag, .ok, byteOf t.seat.count :: bytesLE 2 t.seat.holdoff⟩ ∧
        (∀ q, (t.ports.get q).resv ≠ some seatConfigRec) ∧
        (∀ i : SeatNo,
          let x := s.seat.seats.get i
          (t.seat.count ≤ i.val → (t.seat.seats.get i).state = .disabled ∧
            (x.state ≠ .disabled → t.seat.seats.get i = ⟨.disabled, 0, 0, false, s.ctl.time⟩)) ∧
          (i.val < t.seat.count → x.state = .disabled → t.seat.seats.get i = ⟨.unknown, 0, 0, false, s.ctl.time⟩) ∧
          (i.val < t.seat.count → x.state ≠ .disabled → t.seat.seats.get i = x)) ∧
        (∀ q, q ≠ 0 → t.seat.occ.get q = t.seat.count127 q) ∧
        { t with seat := s.seat, ports := s.ports, faults := s.faults } = s))

/-- R121, R125, R128, the timed events of the seat link. A poll begins to the seat at the pointer, which advances round the configured
seats. A poll that no reply ends counts a miss, and at the third the seat of an answering kind is OFFLINE and NODE-SILENT is filed. A
holdoff that is due expires, and the programme is DORMANT. Events whose conditions do not hold do not take place (log 2). -/
def Obligations.PollsAndHoldoffs : Prop :=
  ∀ s : State,
    (∀ i : SeatNo, s.seat.poll = none → s.ctl.op ≠ .standby → s.seat.pointer = i.val → exec .pollBegin s = .next (s.onSeat fun k =>
      { k with poll := some ⟨i, false⟩, pointer := if i.val + 1 < k.count then i.val + 1 else 0 })) ∧
    (s.seat.poll ≠ none ∨ s.ctl.op = .standby → exec .pollBegin s = .next s) ∧
    (s.seat.poll = none → exec .replyWindowClose s = .next s) ∧
    (∀ x, s.seat.poll = some x →
      let idle := s.onSeat fun k => { k with poll := none }
      let y := s.seat.seats.get x.seat
      (x.dead = true ∨ y.state = .disabled → exec .replyWindowClose s = .next idle) ∧
      (x.dead = false → y.state ≠ .disabled →
        (y.misses ≠ 2 ∨ y.state = .offline → exec .replyWindowClose s = .next (idle.onSeat fun k =>
          { k with seats := k.seats.set x.seat { y with misses := if y.misses < 3 then y.misses + 1 else y.misses } })) ∧
        (y.misses = 2 → y.state ≠ .offline → ∃ t, exec .replyWindowClose s = .next t ∧ t.seat.poll = none ∧
          t.seat.seats = s.seat.seats.set x.seat { y with misses := 3, state := .offline, lastChange := s.ctl.time } ∧
          (∀ q, q ≠ 0 → t.seat.occ.get q = t.seat.count127 q) ∧
          { t with seat := s.seat, ports := s.ports, faults := s.faults } = s ∧
          ((s.faults.banks.get 3).record = none → ∃ r, (t.faults.banks.get 3).record = some r ∧
            (r.kind = .nodeSilent ∧ r.detail1 = x.seat.val ∨ r.kind = .linkBreak))))) ∧
    (∀ p : Prog,
      (∀ start, s.seat.hold.get p = some start → s.seat.holdoff ≤ (s.ctl.time - start).toNat → exec (.holdoffExpiry p) s =
        .next ((s.onSeat fun k => { k with hold := k.hold.set p none, act := k.act.set p (some .dormant) }).post .programmeActivity
          p.val 1 (s.seat.occ.get p))) ∧
      ((∀ start, s.seat.hold.get p = some start → (s.ctl.time - start).toNat < s.seat.holdoff) → exec (.holdoffExpiry p) s = .next s))

/-- R122, R123, R127, R192: a valid reply of the seat polled, its CRC low byte first (deduced, log 30), sets its selection, 0 where it
names no programme, its state, ACTIVE where the headset is in and a programme selected and else IDLE, its node-fault flag, and its misses
to 0; occupancies are counted afresh, and a stop press is a stop request on the next stop. Bytes that are not a valid reply count as no
reply, which ends the poll at once (deduced, log 21); outside a poll they do not take place (log 2). -/
def Obligations.SeatRepliesAreTaken : Prop :=
  ∀ (s : State), s.parityGood →
    (∀ bytes, s.seat.poll = none → exec (.seatReply bytes) s = .next s) ∧
    (∀ x, s.seat.poll = some x →
      (∀ bytes, x.dead = true ∨ (s.seat.seats.get x.seat).state = .disabled →
        exec (.seatReply bytes) s = .next (s.onSeat fun k => { k with poll := none })) ∧
      (∀ bytes, (∀ a b, bytes ≠ [byteOf x.seat.val, a, b] ++ crcField [byteOf x.seat.val, a, b]) →
        exec (.seatReply bytes) s = exec .replyWindowClose s) ∧
      (∀ (st sel : Byte), x.dead = false → (s.seat.seats.get x.seat).state ≠ .disabled →
        ∃ t, exec (.seatReply ([byteOf x.seat.val, st, sel] ++ crcField [byteOf x.seat.val, st, sel])) s = .next t ∧
          t.seat.poll = none ∧ (∀ i, i ≠ x.seat → t.seat.seats.get i = s.seat.seats.get i) ∧
          (∀ q, q ≠ 0 → t.seat.occ.get q = t.seat.count127 q) ∧
          (let y := s.seat.seats.get x.seat
            let n := if sel.toNat ≤ 12 then sel.toNat else 0
            let k : SeatState := if st.getLsbD 0 = true ∧ n ≠ 0 then .active else .idle
            t.seat.seats.get x.seat = ⟨k, n, 0, st.getLsbD 2, if y.state = k ∧ y.selection = n then y.lastChange else s.ctl.time⟩) ∧
          (st.getLsbD 1 = false → { t with seat := s.seat, ports := s.ports, faults := s.faults } = s) ∧
          (st.getLsbD 1 = true → ∀ i z, s.route.cursor.nextStop = some i → s.route.stops.get i = some z →
            ∃ w, t.route.stops.get i = some w ∧ w.request = true)))

/-! ## Lights -/

/-- R137, R141: LAYER-WRITE stores a layer, clears every reservation on it and answers it; LIGHT-SET stores the dimming level, the floor
and the fallback colour and answers them. Nothing else changes. Records out of range are refused. -/
def Obligations.LightSettingsAreStored : Prop :=
  ∀ (p : Port) (s : State) (h : InHand),
    (s.holds p .layerWrite h →
      ((∀ k x, layerOf h.payload = some (k, x) → ¬(k ≤ 3 ∧ 1 ≤ x.cells.length ∧ x.cells.length ≤ 96 ∧ x.offset ≤ 95)) →
        exec (.layerWrite p) s = .next (s.refusedWrite p h .badArgument)) ∧
      (∀ (k : LayerNo) (x : Layer), layerOf h.payload = some (k.val, x) → 1 ≤ x.cells.length → x.cells.length ≤ 96 → x.offset ≤ 95 →
        exec (.layerWrite p) s = .next ((((s.dropResv p).touch (layerRec k)).onLight fun g =>
          { g with layers := g.layers.set k x }).withReply p h .ok (layerBytes k x)))) ∧
    (s.holds p .lightSet h →
      (h.payload.length ≠ 7 → exec (.lightSet p) s = .next (s.refusedWrite p h .badArgument)) ∧
      (∀ d fr fg fb kr kg kb : Byte, h.payload = [d, fr, fg, fb, kr, kg, kb] → exec (.lightSet p) s =
        .next (((s.dropResv p).onLight fun g => { g with
          dim := d.toNat, floorC := ⟨fr.toNat, fg.toNat, fb.toNat⟩, fallback := ⟨kr.toNat, kg.toNat, kb.toNat⟩ }).withReply p h .ok
            h.payload)))

/-- R138, R139: a layer's sample at a zone. NORMAL takes one cell a zone, ZOOM2 one cell for two zones and SHRINK2 two cells a zone,
averaged where both are opaque; the offset is added and wrapped round the pattern. INVERT makes an opaque sample TRANSPARENT and a
TRANSPARENT one the fill colour. -/
def Obligations.LayersAreSampled : Prop :=
  ∀ (y : Layer) (z : ZoneNo),
    let n := y.cells.length
    let cell := fun (i : Nat) => y.cells.getD ((i + y.offset) % n) none
    let turned := fun (c : Cell) => if y.invert = false then c else match c with
      | some _ => none
      | none => some y.fillC
    0 < n →
      (y.scale = .normal → y.sample z = turned (cell z.val)) ∧
      (y.scale = .zoom2 → y.sample z = turned (cell (z.val / 2))) ∧
      (y.scale = .shrink2 →
        (∀ a b, cell (2 * z.val) = some a → cell (2 * z.val + 1) = some b →
          y.sample z = turned (some ⟨(a.r + b.r) / 2, (a.g + b.g) / 2, (a.b + b.b) / 2⟩)) ∧
        (∀ a, cell (2 * z.val) = some a → cell (2 * z.val + 1) = none → y.sample z = turned (some a)) ∧
        (∀ b, cell (2 * z.val) = none → cell (2 * z.val + 1) = some b → y.sample z = turned (some b)) ∧
        (cell (2 * z.val) = none → cell (2 * z.val + 1) = none → y.sample z = turned none))

/-- R140, R142, R143: composition. A disabled layer and a TRANSPARENT sample leave the accumulated colour as it is, L0 starts over black,
and channels stay colours. In RUN a stair zone's output is never darker than the floor in any channel, in FALLBACK every zone shows the
fallback colour, no stair below the floor, and in STANDBY every zone is black. R153: a fade. A TRANSPARENT target is TRANSPARENT
throughout; a channel starts at its from value, stays between its two values, and stands at its to value from the fade time on, or at once
with a fade time of 0. -/
def Obligations.ZonesAndFadesAreComputed : Prop :=
  (let le := fun (a b : Colour) => a.r ≤ b.r ∧ a.g ≤ b.g ∧ a.b ≤ b.b
   let white : Colour := ⟨255, 255, 255⟩
   let most := fun (a b : Colour) => (⟨max a.r b.r, max a.g b.g, max a.b b.b⟩ : Colour)
   (∀ (y : Layer) (z : ZoneNo) (acc : Colour), y.enabled = false ∨ y.sample z = none → y.join z acc = acc) ∧
   (∀ (y : Layer) (z : ZoneNo) (acc c : Colour), y.enabled = true → y.sample z = some c →
     (y.combine = .replace → y.join z acc = c) ∧
     (y.combine = .max → y.join z acc = ⟨max acc.r c.r, max acc.g c.g, max acc.b c.b⟩) ∧
     (y.combine = .min → y.join z acc = ⟨min acc.r c.r, min acc.g c.g, min acc.b c.b⟩) ∧
     (y.combine = .add → y.join z acc = ⟨min 255 (acc.r + c.r), min 255 (acc.g + c.g), min 255 (acc.b + c.b)⟩) ∧
     (y.combine = .subtract → y.join z acc = ⟨acc.r - c.r, acc.g - c.g, acc.b - c.b⟩) ∧
     (y.combine = .average → y.join z acc = ⟨(acc.r + c.r) / 2, (acc.g + c.g) / 2, (acc.b + c.b) / 2⟩) ∧
     (y.combine = .scale → y.join z acc = ⟨acc.r * c.r / 255, acc.g * c.g / 255, acc.b * c.b / 255⟩)) ∧
   (∀ (g : Light) (z : ZoneNo),
     (∀ k, (∀ c ∈ (g.layers.get k).cells, ∀ x, c = some x → le x white) ∧ le (g.layers.get k).fillC white) → le (g.composed z) white) ∧
   (∀ (g : Light) (z : ZoneNo),
     g.composed z = (g.layers.get 3).join z ((g.layers.get 2).join z ((g.layers.get 1).join z
       (match (g.layers.get 0).sample z with
         | some c => if (g.layers.get 0).enabled then c else ⟨0, 0, 0⟩
         | none => ⟨0, 0, 0⟩))) ∧
     (44 ≤ z.val → g.output 0 z = most (g.composed z) g.floorC ∧ g.output 1 z = most g.fallback g.floorC ∧
       le g.floorC (g.output 0 z) ∧ le g.floorC (g.output 1 z)) ∧
     (z.val < 44 → g.output 0 z = ⟨(g.composed z).r * g.dim / 255, (g.composed z).g * g.dim / 255, (g.composed z).b * g.dim / 255⟩ ∧
       g.output 1 z = g.fallback) ∧
     g.output 2 z = ⟨0, 0, 0⟩)) ∧
  ((∀ (e f : Nat) (a : Colour), fadeCell e f a none = none) ∧
   (∀ (e f : Nat) (a b : Colour), ∃ c, fadeCell e f a (some b) = some c ∧
     (0 < f → (c.r : Int) = a.r + ((b.r : Int) - a.r) * (min e f : Nat) / f ∧ (c.g : Int) = a.g + ((b.g : Int) - a.g) * (min e f : Nat) / f ∧
       (c.b : Int) = a.b + ((b.b : Int) - a.b) * (min e f : Nat) / f) ∧
     (f ≤ e → c = b) ∧ (e = 0 → 0 < f → c = a) ∧
     (min a.r b.r ≤ c.r ∧ c.r ≤ max a.r b.r) ∧ (min a.g b.g ≤ c.g ∧ c.g ≤ max a.g b.g) ∧ (min a.b b.b ≤ c.b ∧ c.b ≤ max a.b b.b)) ∧
   (∀ e e' f a b : Nat, e ≤ e' →
     (a ≤ b → fadeChannel e f a b ≤ fadeChannel e' f a b) ∧ (b ≤ a → fadeChannel e' f a b ≤ fadeChannel e f a b)))

/-- R146 to R148, CUE-START and CUE-STOP: a start outside RUN is refused; in RUN a player that is STOPPED takes a use on a READY cue, is
PLAYING from its first keyframe and fetches it, or, with no such clip, posts CUE-ABSENT and the command is NOT-FOUND. A stop leaves the
player STOPPED, its use given up, and posts nothing. -/
def Obligations.CuesAreStartedAndStopped : Prop :=
  ∀ (p : Port) (s : State) (h : InHand), s.parityGood →
    (s.holds p .cueStart h →
      (h.payload.length ≠ 3 → exec (.cueStart p) s = .next (s.refusedWrite p h .badArgument)) ∧
      (∀ k c0 c1 : Byte, h.payload = [k, c0, c1] →
        (3 ≤ k.toNat ∨ natLE [c0, c1] = 0 → exec (.cueStart p) s = .next (s.refusedWrite p h .badArgument)) ∧
        (∀ j : PlayerNo, j.val = k.toNat → natLE [c0, c1] ≠ 0 →
          (s.ctl.op = .standby ∨ s.ctl.op = .fallback → exec (.cueStart p) s = .next (s.refusedWrite p h .refusedState)) ∧
          (s.ctl.op = .run ∨ s.ctl.op = .parkPending → s.light.players.get j = none →
            ((∀ n e, s.store.map.get n = some e → e.state = .ready ∨ e.state = .damaged → e.clip ≠ natLE [c0, c1]) →
              exec (.cueStart p) s = .next (((s.dropResv p).post .cueAbsent j.val (natLE [c0, c1]) 0).withReply p h .notFound [])) ∧
            (∀ n e q, s.store.map.get n = some e → e.state = .ready → e.kind = .cue → e.clip = natLE [c0, c1] → e.firstPage = some q →
              (∀ m f, m ≠ n → s.store.map.get m = some f → f.state = .ready ∨ f.state = .damaged → f.clip ≠ natLE [c0, c1]) →
              ∃ t x, exec (.cueStart p) s = .next t ∧ t.light.players.get j = some x ∧
                x.bind = ⟨n, e.clip, .cue, e.byteLen, q⟩ ∧ x.header = none ∧ x.elapsed = 0 ∧ x.next = some 0 ∧ x.applied = none ∧
                x.data = .fetching ∧ x.want = s.store.clipLines x.bind 0 (min 392 (e.byteLen - 1)) ∧
                (∀ i, i ≠ j → t.light.players.get i = s.light.players.get i) ∧
                t.store.map = s.store.map.set n (some { e with useCount := e.useCount + 1, lastUse := some (s.store.seq + 1) }) ∧
                (t.ports.get p).slot = .ready ⟨h.tag, .ok, []⟩))))) ∧
    (s.holds p .cueStop h →
      ((∀ j : PlayerNo, h.payload ≠ [byteOf j.val]) → exec (.cueStop p) s = .next (s.refusedWrite p h .badArgument)) ∧
      (∀ j : PlayerNo, h.payload = [byteOf j.val] →
        (s.light.players.get j = none → exec (.cueStop p) s = .next ((s.dropResv p).withReply p h .ok [])) ∧
        (∀ x, s.light.players.get j = some x → ∃ t, exec (.cueStop p) s = .next t ∧ t.light = { s.light with
            players := s.light.players.set j none } ∧ (t.ports.get p).slot = .ready ⟨h.tag, .ok, []⟩ ∧
          (∀ q, (t.ports.get q).queue = (s.ports.get q).queue) ∧
          (∀ e, s.store.map.get x.bind.entry = some e → e.state ≠ .retiring ∨ 1 < e.useCount →
            t.store.map = s.store.map.set x.bind.entry (some { e with useCount := e.useCount - 1 })))))

/-- R135, R144: a light frame composes the 48 zones as the engine mode says, after the players have moved, and sends them; a frame still
unanswered is first filed as LAMP-LINK 1. The driver chain's answer is stored, and a refusal filed as LAMP-LINK 0; a second answer to one
frame does not take place (log 2). -/
def Obligations.LightFramesAreSent : Prop :=
  ∀ s : State, s.parityGood →
    (∃ t, exec .lightFrame s = .next t ∧ t.light.awaiting = true ∧ t.light.acked = false ∧ t.ctl = s.ctl ∧
      t.light.dim = s.light.dim ∧ t.light.floorC = s.light.floorC ∧ t.light.fallback = s.light.fallback ∧ t.route = s.route ∧
      ∀ z, t.light.zones.get z = t.light.output (match s.ctl.op with
        | .run => 0
        | .parkPending => 0
        | .fallback => 1
        | .standby => 2) z) ∧
    ((∀ k, s.light.players.get k = none) → exec .lightFrame s =
      .next ((if s.light.awaiting then s.fileFault .lampLink 1 0 else s).onLight fun g =>
        { g with zones := Tab.ofFn (g.output s.engineMode), acked := false, awaiting := true })) ∧
    (∀ ack, s.light.awaiting = false → exec (.lampLinkAnswer ack) s = .next s) ∧
    (s.light.awaiting = true →
      exec (.lampLinkAnswer true) s = .next (s.onLight fun g => { g with acked := true, awaiting := false }) ∧
      exec (.lampLinkAnswer false) s =
        .next ((s.onLight fun g => { g with acked := false, awaiting := false }).fileFault .lampLink 0 0))

/-! ## Faults -/

/-- R168, R170, R171 and R169's table: a filing. Where the kind is enabled FAULT is posted, with whether it was captured; the record takes
the fault where the table says so, stamped with the time base, and its overrun is set wherever it was captured before. An enabled critical
fault with the critical-pending flag clear sets the flag and posts FAULT-CRITICAL. Nothing else changes. R172, R73, R91, R113, R143, R187:
a second critical fault before a FAULT-RESUME takes the hub into FALLBACK, whatever state it was in, and ends a park; every commentary
queue is emptied, no item but SAFETY waits, every bed use is given up and every cue player stopped. In FALLBACK a further request changes
nothing. -/
def Obligations.FilingsAndFallbackFollowTheirRules : Prop :=
  (∀ (k : FaultKind) (d1 d2 : Nat) (s : State),
     let i := bankIndex (faultBank k)
     let old := (s.faults.banks.get i).record
     let en := (s.faults.banks.get i).mask.getLsbD (faultNumber k)
     let u := faultUncorrected k
     let got := match old with
       | none => true
       | some o => if o.uncorrected then false else if u then true else if o.enabled then false else en
     let record := if got then some ⟨old.isSome, u, en, faultCritical k, k, d1, d2, s.ctl.time⟩
       else old.map fun o => { o with overrun := true }
     let filed := s.onFaults fun f => { f with banks := f.banks.set i { f.banks.get i with record := record } }
     let posted := filed.post .fault i.val (faultNumber k) (if got then 1 else 0)
     (en = false → s.fileFault k d1 d2 = filed) ∧
     (en = true → faultCritical k = false → s.fileFault k d1 d2 = posted) ∧
     (en = true → faultCritical k = true → s.faults.pending = false → s.fileFault k d1 d2 =
       (posted.onFaults fun f => { f with pending := true }).post .faultCritical i.val (faultNumber k) d1) ∧
     (en = true → faultCritical k = true → s.faults.pending = true → s.fileFault k d1 d2 = posted.enterFallback)) ∧
  (∀ s : State,
     (s.ctl.op = .fallback → s.enterFallback = s) ∧
     (s.ctl.op ≠ .fallback →
       let t := s.enterFallback
       t.ctl = { s.ctl with op := .fallback, hold := none } ∧
       (∀ p, p ≠ 0 → t.queueOf p = []) ∧ (∀ x ∈ t.ann.queue, x.kind = .safety) ∧
       t.ann.queue = s.ann.queue.filter (fun x => x.kind == .safety) ∧
       (∀ p, (t.voice p .bed).bind = none) ∧ (∀ k, t.light.players.get k = none) ∧
       (∀ c, s.ann.current = some c → c.item.kind ≠ .safety → c.phase ≠ .tail → t.ann.ducker = false ∧
         ∃ d, t.ann.current = some d ∧ d.item = c.item ∧ d.phase = .tail ∧ d.ending = .cut) ∧
       (∀ c, s.ann.current = some c → c.item.kind = .safety ∨ c.phase = .tail → t.ann.current = some c) ∧
       (s.ctl.op = .standby → t.seat.pointer = 0) ∧
       t.route.cursor = s.route.cursor ∧ t.route.stops = s.route.stops ∧ t.faults = s.faults ∧ t.mix.progs = s.mix.progs ∧
       ∀ p : Port, (s.ports.get p).mask.getLsbD 18 = true → (s.ports.get p).queue.length < 16 →
         (t.ports.get p).queue[(s.ports.get p).queue.length]? = some ⟨.stateChanged, 3, opStateCode s.ctl.op, 5, s.ctl.time⟩))

/-- R174, R175, R176: FAULT-CLEAR empties a bank's record and answers it, FAULT-ENABLE stores a bank's mask and answers it, FAULT-RESUME
clears the critical-pending flag or is refused NOT-PENDING; a payload is refused BAD-ARGUMENT before that (deduced, log 18). None changes
anything else. With the CONDITIONAL flag each is answered RESERVATION-LOST. -/
def Obligations.FaultCommandsActOnTheRecorder : Prop :=
  ∀ (p : Port) (s : State) (h : InHand),
    (s.holds p .faultClear h →
      ((∀ i : Fin 6, h.payload ≠ [byteOf i.val]) → exec (.faultClear p) s = .next (s.refusedWrite p h .badArgument)) ∧
      (∀ i : Fin 6, h.payload = [byteOf i.val] → exec (.faultClear p) s = .next (((s.dropResv p).onFaults fun f =>
        { f with banks := f.banks.set i { f.banks.get i with record := none } }).withReply p h .ok
          (faultBytes (s.faults.banks.get i).record)))) ∧
    (s.holds p .faultEnable h →
      (h.payload.length ≠ 2 → exec (.faultEnable p) s = .next (s.refusedWrite p h .badArgument)) ∧
      (∀ b m : Byte, h.payload = [b, m] →
        (5 < b.toNat → exec (.faultEnable p) s = .next (s.refusedWrite p h .badArgument)) ∧
        (∀ i : Fin 6, i.val = b.toNat →
          let kinds := [5, 4, 3, 3, 2, 2].getD i.val 0
          (2 ^ kinds ≤ m.toNat → exec (.faultEnable p) s = .next (s.refusedWrite p h .badArgument)) ∧
          (m.toNat < 2 ^ kinds → exec (.faultEnable p) s = .next (((s.dropResv p).onFaults fun f =>
            { f with banks := f.banks.set i { f.banks.get i with mask := m } }).withReply p h .ok [m]))))) ∧
    (s.holds p .faultResume h →
      (h.payload ≠ [] → exec (.faultResume p) s = .next (s.refusedWrite p h .badArgument)) ∧
      (h.payload = [] → s.faults.pending = false → exec (.faultResume p) s = .next (s.refusedWrite p h .notPending)) ∧
      (h.payload = [] → s.faults.pending = true → exec (.faultResume p) s =
        .next (((s.dropResv p).onFaults fun f => { f with pending := false }).withReply p h .ok []))) ∧
    ((s.ports.get p).slot = .inHand h → h.conditional = true → h.tested = false →
      h.command = .faultClear ∨ h.command = .faultEnable ∨ h.command = .faultResume → exec (.conditionalTest p) s =
        .next (s.onPort p fun ps => { ps with resv := none, slot := .ready ⟨h.tag, .reservationLost, []⟩ }))

/-- R169, R172, R177: a captured record stays captured, an uncorrected one stays as it is but for its overrun, and an overrun stays set,
until a FAULT-CLEAR or the power-on reset; and the hub leaves FALLBACK only by RESTART or the power-on reset. -/
def Obligations.FaultsAndFallbackStand : Prop :=
  ∀ (i : Instr) (s t : State), exec i s = .next t →
    ((∀ p, i ≠ .faultClear p) → i ≠ .powerOnReset → ∀ b r, (s.faults.banks.get b).record = some r →
      ∃ q, (t.faults.banks.get b).record = some q ∧ (r.overrun = true → q.overrun = true) ∧
        (r.uncorrected = true → { q with overrun := r.overrun } = r)) ∧
    ((∀ p, i ≠ .restart p) → i ≠ .powerOnReset → s.ctl.op = .fallback → t.ctl.op = .fallback)

/-! ## Operating states and resets -/

/-- R186, R187, the PARK command and UNPARK and the PARK line. A park enters PARK-PENDING, and STANDBY in the same event where the
announcement controller is quiet; in a parked hub it takes the hold over; each release returns the hub to RUN, the line's only where the
line holds it; in FALLBACK commands are refused and the line ignored. With the CONDITIONAL flag the commands are answered
RESERVATION-LOST. A payload of PARK or UNPARK is refused BAD-ARGUMENT before the state is tested (deduced, log 18); the line's going
active while it is active, or inactive while it is inactive, does not take place (log 2). -/
def Obligations.ParkingFollowsItsTable : Prop :=
  ∀ (p : Port) (s : State) (h : InHand), s.parityGood →
    let quiet := s.ann.current = none ∧ s.ann.queue = [] ∧ s.ann.live.driver = none ∧ s.ann.live.guide = none
    let parked := s.ctl.op = .parkPending ∨ s.ctl.op = .standby
    let pending := fun (x : ParkHold) (cause : Nat) (t : State) =>
      (t.onCtl fun c => { c with op := .parkPending, hold := some x }).post .stateChanged 1 0 cause
    let running := fun (cause : Nat) (t : State) =>
      ((t.onCtl fun c => { c with op := .run, hold := none }).post .stateChanged 0 (opStateCode s.ctl.op) cause).onSeat fun k =>
        { k with pointer := if s.ctl.op = .standby then 0 else k.pointer }
    let resting := fun (x : ParkHold) (t : State) => t.ctl.op = .standby ∧ t.ctl.hold = some x ∧ t.ctl.time = s.ctl.time ∧
      (∀ q, q ≠ 0 → t.queueOf q = [] ∧ t.seat.occ.get q = 0) ∧ (∀ q, (t.voice q .bed).bind = none) ∧
      (∀ k, t.light.players.get k = none) ∧ (∀ i, (t.seat.seats.get i).state = .unknown ∨ (t.seat.seats.get i).state = .disabled) ∧
      t.ann = s.ann
    (s.holds p .park h →
      (h.payload ≠ [] → exec (.park p) s = .next (s.refusedWrite p h .badArgument)) ∧
      (h.payload = [] →
        (s.ctl.op = .run → ¬quiet → exec (.park p) s = .next ((pending .command 0 (s.dropResv p)).withReply p h .ok [])) ∧
        (s.ctl.op = .run → quiet → ∃ t, exec (.park p) s = .next t ∧ resting .command t ∧
          (t.ports.get p).slot = .ready ⟨h.tag, .ok, []⟩) ∧
        (parked → exec (.park p) s = .next (((s.dropResv p).onCtl fun c => { c with hold := some .command }).withReply p h .ok [])) ∧
        (s.ctl.op = .fallback → exec (.park p) s = .next (s.refusedWrite p h .refusedState)))) ∧
    (s.holds p .unpark h →
      (h.payload ≠ [] → exec (.unpark p) s = .next (s.refusedWrite p h .badArgument)) ∧
      (h.payload = [] →
        (parked → exec (.unpark p) s = .next ((running 2 (s.dropResv p)).withReply p h .ok [])) ∧
        (¬parked → exec (.unpark p) s = .next (s.refusedWrite p h .refusedState)))) ∧
    (let high := s.onCtl (fun c => { c with parkLine := true });
      (s.ctl.parkLine = true → exec .parkLineActive s = .next s) ∧
      (s.ctl.parkLine = false → s.ctl.op ≠ .run → exec .parkLineActive s = .next high) ∧
      (s.ctl.parkLine = false → s.ctl.op = .run → ¬quiet → exec .parkLineActive s = .next (pending .line 1 high)) ∧
      (s.ctl.parkLine = false → s.ctl.op = .run → quiet → ∃ t, exec .parkLineActive s = .next t ∧ resting .line t ∧
        t.ctl.parkLine = true)) ∧
    (let low := s.onCtl (fun c => { c with parkLine := false });
      (s.ctl.parkLine = false → exec .parkLineInactive s = .next s) ∧
      (s.ctl.parkLine = true → parked → s.ctl.hold = some .line → exec .parkLineInactive s = .next (running 3 low)) ∧
      (s.ctl.parkLine = true → ¬parked ∨ s.ctl.hold ≠ some .line → exec .parkLineInactive s = .next low)) ∧
    ((s.ports.get p).slot = .inHand h → h.conditional = true → h.tested = false → h.command = .park ∨ h.command = .unpark →
      exec (.conditionalTest p) s =
        .next (s.onPort p fun ps => { ps with resv := none, slot := .ready ⟨h.tag, .reservationLost, []⟩ }))

/-- R30, R55, R76, R98, R118, R134, R156, R165, R177, R188, RESTART: what each block keeps and what it loses, the slots of the other
ports, and STATE-CHANGED at the head of each queue that selects it, alone in it where the PARK line is inactive. An active PARK line parks
the hub at once. A payload is refused BAD-ARGUMENT before all else (deduced, log 18). -/
def Obligations.RestartTakesItsValues : Prop :=
  ∀ (p : Port) (s : State) (h : InHand), s.holds p .restart h → s.parityGood →
    (h.payload ≠ [] → exec (.restart p) s = .next (s.refusedWrite p h .badArgument)) ∧
    (h.payload = [] → ∃ t, exec (.restart p) s = .next t ∧
      (t.ports.get p).slot = .ready ⟨h.tag, .ok, []⟩ ∧
      (∀ q, q ≠ p → ∀ r, (s.ports.get q).slot = .ready r → (t.ports.get q).slot = .ready r) ∧
      (∀ q, q ≠ p → (∀ r, (s.ports.get q).slot ≠ .ready r) → (t.ports.get q).slot = .empty) ∧
      (∀ q, (t.ports.get q).mask = (s.ports.get q).mask ∧ (t.ports.get q).resv = none ∧ (t.ports.get q).overrun = false ∧
        ((s.ports.get q).mask.getLsbD 18 = true →
          (t.ports.get q).queue.head? = some ⟨.stateChanged, 0, opStateCode s.ctl.op, 6, s.ctl.time⟩ ∧
          (s.ctl.parkLine = false → (t.ports.get q).queue = [⟨.stateChanged, 0, opStateCode s.ctl.op, 6, s.ctl.time⟩])) ∧
        ((s.ports.get q).mask.getLsbD 18 = false → (t.ports.get q).queue = [])) ∧
      t.ctl.time = s.ctl.time ∧ t.ctl.parkLine = s.ctl.parkLine ∧
      (s.ctl.parkLine = false → t.ctl.op = .run ∧ t.ctl.hold = none) ∧
      (s.ctl.parkLine = true → t.ctl.op = .standby ∧ t.ctl.hold = some .line) ∧
      t.faults.banks = s.faults.banks ∧ t.faults.pending = false ∧
      t.ann = Announcer.reset ∧ t.com = Commentary.reset ∧ t.mix.progs = Mixer.reset.progs ∧ t.mix.duck = DuckTable.reset ∧
      t.mix.loud = Loudness.reset ∧ t.mix.voices = Mixer.reset.voices ∧ t.light.layers = Light.reset.layers ∧
      (∀ k, t.light.players.get k = none) ∧ t.seat.count = 80 ∧ t.seat.holdoff = 10000 ∧
      t.route.cursor.set = false ∧ t.route.cursor.distance = 0 ∧ t.route.cursor.speed = 0 ∧ t.route.cursor.lastMover = none ∧
      (∀ i, t.route.stops.get i = (s.route.stops.get i).map fun x => { x with state := .ahead, request := false }) ∧
      (∀ i, t.route.segments.get i = (s.route.segments.get i).map fun x => { x with state := .armed, outstanding := 0, played := 0 }) ∧
      t.store.dram = s.store.dram ∧ t.store.seq = s.store.seq ∧ t.store.pinTotal = s.store.pinTotal ∧
      (∀ q, t.store.slots.get q = .closed) ∧ t.store.filling = [] ∧ t.store.eligible = [] ∧ t.store.scrub = [] ∧
      (∀ n e, s.store.map.get n = some e → e.state = .ready ∨ e.state = .damaged →
        (∀ q l, (s.store.slots.get q).load = some l → l.entry ≠ n) → t.store.map.get n = some { e with useCount := 0 }) ∧
      (∀ n e, t.store.map.get n = some e → e.state ≠ .retiring))

/-- R3, R29, R54, R76, R98, R103, R104, R118, R119, R134, R156, R165, R177, R181, R185, R189: the power-on reset leaves, whatever the hub
held, its power-on values: with the PARK line inactive those of the model's reset state. That the waiting events, the model's count of
free bytes and the PARK line's level are kept is the model's choice (log 20), and so is the blank DRAM (log 4). R181: a tick of the time
base counts one millisecond, from 4,294,967,295 to 0, and with no stored bit going wrong (the model's own operand, log 5) nothing else
changes. -/
def Obligations.PowerOnAndTheTimeBase : Prop :=
  (∀ s : State, s.ctl.parkLine = false → exec .powerOnReset s = .next { State.reset with pending := s.pending, fillSeq := s.fillSeq }) ∧
  (∀ s : State, s.ctl.parkLine = true → ∃ t, exec .powerOnReset s = .next t ∧ t.ctl.op = .standby ∧ t.ctl.hold = some .line ∧
    t.store = State.reset.store ∧ t.route = State.reset.route ∧ t.com = State.reset.com ∧ t.ann = State.reset.ann ∧
    t.mix = State.reset.mix ∧ t.light = State.reset.light ∧ t.faults = State.reset.faults) ∧
  (let r := State.reset;
    r.ctl.op = .run ∧ r.ctl.hold = none ∧ r.ctl.time = 0 ∧ r.route.cursor = ⟨false, 0, 0, none, none⟩ ∧
    (∀ i, r.route.stops.get i = none) ∧ (∀ i, r.route.segments.get i = none) ∧ (∀ n, r.store.map.get n = none) ∧
    r.store.freeList.map (·.val) = List.range 4096 ∧ (∀ q, linkOf r.store.links q = .free) ∧ (∀ p, r.store.slots.get p = .closed) ∧
    r.store.seq = 0 ∧ r.ann.queue = [] ∧ r.ann.current = none ∧ r.ann.nextNumber = 1 ∧ r.com.window = false ∧
    (∀ p, (r.mix.progs.get p).on = (p == 0) ∧ (r.mix.progs.get p).lang = p.val ∧ (r.mix.progs.get p).gains = ⟨4096, 4096, 4096, 4096⟩ ∧
      (r.mix.progs.get p).master = 4096) ∧
    (∀ i, (r.seat.seats.get i).state = .unknown) ∧ r.seat.count = 80 ∧ r.seat.holdoff = 10000 ∧
    r.light.dim = 255 ∧ r.light.floorC = ⟨60, 60, 60⟩ ∧ r.light.fallback = ⟨80, 80, 80⟩ ∧
    (∀ b k, k < bankSize b → (r.faults.banks.get b).mask.getLsbD k = true) ∧ (∀ b, (r.faults.banks.get b).record = none) ∧
    ∀ p, (r.ports.get p).slot = .empty ∧ (r.ports.get p).queue = [⟨.stateChanged, 0, 0, 7, 0⟩] ∧ (r.ports.get p).resv = none) ∧
  (∀ s : State, exec (.timeBaseTick []) s = .next (s.onCtl fun c => { c with time := c.time + 1 }) ∧
    (s.ctl.time = 0xFFFFFFFF#32 → ∃ t, exec (.timeBaseTick []) s = .next t ∧ t.ctl.time = 0) ∧
    ∀ ups, ∃ t, exec (.timeBaseTick ups) s = .next t ∧ t.ctl.time = s.ctl.time + 1 ∧ { t with ctl := s.ctl, store := s.store } = s)

/-! ## Invariants that every step keeps -/

/-- R1, R2: the DRAM and the page link table keep their canonical form at every step, so that equal memories are equal data, whatever
command or event takes place. -/
def Obligations.TablesStayCanonical : Prop :=
  ∀ s t : State, TablesCanonical s → step s = .next t → TablesCanonical t

/-- R26, R56, R77, R105, R109, R110, R111, R114, R115, R119, R125, R127, R128, R129, R182: at every step the queues, buffers and counters
stay within their capacities, duck gains and samples within their ranges, the seat table agrees with its configuration, and each language
programme's occupancy, decision and holdoff agree with the seat table. -/
def Obligations.EveryStepKeepsTheInvariant : Prop :=
  ∀ s t : State, step s = .next t → Sound s → Sound t

/-- R99, R100, R103, R104, R166, R183: every setting stays within the range that the manual gives it, at every step; and the settings
change only by the command that writes them, and by RESTART and the power-on reset. -/
def Obligations.SettingsStayLegal : Prop :=
  (∀ s t : State, step s = .next t → SettingsLegal s → SettingsLegal t) ∧
  (∀ (i : Instr) (s t : State), exec i s = .next t → setsSettings i = false → t.settings = s.settings)

/-- The power-on reset's state meets every invariant. -/
def Obligations.ResetMeetsTheInvariants : Prop :=
  Sound State.reset ∧ SettingsLegal State.reset ∧ TablesCanonical State.reset

end
end

