-- ==== Sys2Proof/Laws/Memory.lean ====
section
/-! SUPPORT. Laws of the sparse tables: read after write, and the canonical form kept. -/

namespace Sys2Proof.Machine

variable {α : Type}

theorem keysAbove_iff {a : Nat} {m : List (Nat × α)} : keysAbove a m = true ↔ ∀ e ∈ m, a < e.1 := by
  simp [keysAbove]

theorem keysAbove_mono {a b : Nat} (h : a ≤ b) {m : List (Nat × α)} (hb : keysAbove b m = true) : keysAbove a m = true := by
  rw [keysAbove_iff] at *
  exact fun e he => lt_of_le_of_lt h (hb e he)

theorem sparseGet_above (d : α) {a : Nat} {m : List (Nat × α)} (h : keysAbove a m = true) : sparseGet d m a = d := by
  induction m with
  | nil => rfl
  | cons e m ih =>
    rw [keysAbove_iff] at h
    have h1 := h e List.mem_cons_self
    simp only [sparseGet]
    rw [if_neg (by omega)]
    exact ih (keysAbove_iff.2 fun x hx => h x (List.mem_cons_of_mem _ hx))

variable [DecidableEq α] (d : α)

theorem sparseSet_above {a b : Nat} {m : List (Nat × α)} (v : α) (hm : keysAbove b m = true) (h : b < a) :
    keysAbove b (sparseSet d m a v) = true := by
  induction m with
  | nil => simp only [sparseSet]; split <;> simp [keysAbove, h]
  | cons e m ih =>
    obtain ⟨k, w⟩ := e
    simp only [keysAbove, List.all_cons, Bool.and_eq_true, decide_eq_true_eq] at hm ih
    simp only [sparseSet]
    split
    · split <;> simp only [keysAbove, List.all_cons, Bool.and_eq_true, decide_eq_true_eq] <;> tauto
    · split
      · split <;> simp only [keysAbove, List.all_cons, Bool.and_eq_true, decide_eq_true_eq] <;> tauto
      · simp only [keysAbove, List.all_cons, Bool.and_eq_true, decide_eq_true_eq]; exact ⟨hm.1, ih hm.2⟩

/-- A write keeps the canonical form. -/
theorem sparseSet_wf {m : List (Nat × α)} (a : Nat) (v : α) (h : sparseWf d m = true) :
    sparseWf d (sparseSet d m a v) = true := by
  induction m with
  | nil => simp only [sparseSet]; split <;> simp_all [sparseWf, keysAbove]
  | cons e m ih =>
    obtain ⟨k, w⟩ := e
    simp only [sparseWf, Bool.and_eq_true, decide_eq_true_eq] at h
    obtain ⟨⟨hw, hk⟩, hm⟩ := h
    simp only [sparseSet]
    split
    · next hlt =>
      split
      · simp [sparseWf, hw, hk, hm]
      · next hv =>
        simp only [sparseWf, Bool.and_eq_true, decide_eq_true_eq]
        refine ⟨⟨hv, ?_⟩, ⟨hw, hk⟩, hm⟩
        rw [keysAbove_iff] at hk ⊢
        intro x hx
        rcases List.mem_cons.1 hx with rfl | hx
        · exact hlt
        · exact lt_trans hlt (hk x hx)
    · split
      · next heq =>
        subst heq
        split
        · exact hm
        · next hv => simp [sparseWf, hv, hk, hm]
      · simp only [sparseWf, Bool.and_eq_true, decide_eq_true_eq]
        exact ⟨⟨hw, sparseSet_above d v hk (by omega)⟩, ih hm⟩

/-- What a key reads as after a write, in a table in canonical form. -/
theorem sparseGet_set {m : List (Nat × α)} (h : sparseWf d m = true) (a b : Nat) (v : α) :
    sparseGet d (sparseSet d m a v) b = if b = a then v else sparseGet d m b := by
  induction m with
  | nil => simp only [sparseSet]; split <;> split <;> simp_all [sparseGet]
  | cons e m ih =>
    obtain ⟨k, w⟩ := e
    simp only [sparseWf, Bool.and_eq_true, decide_eq_true_eq] at h
    obtain ⟨⟨hw, hk⟩, hm⟩ := h
    simp only [sparseSet]
    split
    · next hlt =>
      have hak : sparseGet d m a = d := sparseGet_above d (keysAbove_mono (by omega) hk)
      split <;> simp only [sparseGet] <;> split_ifs <;> simp_all
    · split
      · next heq =>
        subst heq
        have hak : sparseGet d m a = d := sparseGet_above d hk
        split <;> (simp only [sparseGet]; split_ifs <;> simp_all)
      · have := ih hm
        simp only [sparseGet]; split_ifs <;> simp_all

/-- Read after write in the DRAM. -/
theorem Memory.read_write {m : List Host.Cell} (h : Memory.wf m = true) (a b : Nat) (v : Byte) :
    Memory.read (Memory.write m a v) b = if b = a then v else Memory.read m b := sparseGet_set _ h a b v

/-- A write keeps the DRAM's canonical form. -/
theorem Memory.write_wf {m : List Host.Cell} (h : Memory.wf m = true) (a : Nat) (v : Byte) :
    Memory.wf (Memory.write m a v) = true := sparseSet_wf _ a v h

/-- Writing bytes keeps the DRAM's canonical form. -/
theorem Memory.writeAll_wf {m : List Host.Cell} (h : Memory.wf m = true) (bs : List Byte) (a : Nat) :
    Memory.wf (Memory.writeAll m a bs) = true := by
  induction bs generalizing m a with
  | nil => exact h
  | cons b bs ih => exact ih (Memory.write_wf h a b) (a + 1)

/-- What a byte reads as after bytes have been written. -/
theorem Memory.read_writeAll {m : List Host.Cell} (h : Memory.wf m = true) (bs : List Byte) (a b : Nat) :
    Memory.read (Memory.writeAll m a bs) b = if a ≤ b ∧ b < a + bs.length then bs.getD (b - a) 0 else Memory.read m b := by
  induction bs generalizing m a with
  | nil => simp [Memory.writeAll]
  | cons x bs ih =>
    simp only [Memory.writeAll]
    rw [ih (Memory.write_wf h a x), Memory.read_write h]
    simp only [List.length_cons]
    rcases Nat.lt_trichotomy b a with hb | hb | hb
    · rw [if_neg (by omega), if_neg (by omega), if_neg (by omega)]
    · subst hb; rw [if_neg (by omega), if_pos rfl, if_pos (by omega)]; simp
    · by_cases hc : b < a + 1 + bs.length
      · rw [if_pos (by omega), if_pos (by omega)]
        obtain ⟨k, rfl⟩ : ∃ k, b = a + 1 + k := ⟨b - (a + 1), by omega⟩
        have e1 : a + 1 + k - a = k + 1 := by omega
        have e2 : a + 1 + k - (a + 1) = k := by omega
        rw [e1, e2]; simp
      · rw [if_neg (by omega), if_neg (by omega), if_neg (by omega)]

@[simp] theorem Memory.readMany_length (m : List Host.Cell) (a n : Nat) : (Memory.readMany m a n).length = n := by
  induction n generalizing a with
  | zero => rfl
  | succ n ih => simp [Memory.readMany, ih]

/-- The bytes read from an address upward. -/
theorem Memory.readMany_getElem? (m : List Host.Cell) (a n k : Nat) (h : k < n) :
    (Memory.readMany m a n)[k]? = some (Memory.read m (a + k)) := by
  induction n generalizing a k with
  | zero => omega
  | succ n ih =>
    cases k with
    | zero => simp [Memory.readMany]
    | succ k => simp only [Memory.readMany, List.getElem?_cons_succ]; rw [ih (a + 1) k (by omega), Nat.add_right_comm]; rfl

/-- What a page's link value reads as after one is set. -/
theorem linkOf_setLink {l : List (Nat × Link)} (h : sparseWf Link.free l = true) (p q : Page) (v : Link) :
    linkOf (setLink l p v) q = if q = p then v else linkOf l q := by
  unfold linkOf setLink
  rw [sparseGet_set _ h]
  simp only [Fin.ext_iff]

end Sys2Proof.Machine
end

