-- ==== Sys2Proof/Laws/State.lean ====
section
/-! SUPPORT. One lemma for each field of State and each update of one part of it. -/

namespace Sys2Proof.Machine

variable (s : State)

@[simp] theorem State.onStore_store (f : Store → Store) : (s.onStore f).store = f s.store := rfl
@[simp] theorem State.onStore_route (f : Store → Store) : (s.onStore f).route = s.route := rfl
@[simp] theorem State.onStore_com (f : Store → Store) : (s.onStore f).com = s.com := rfl
@[simp] theorem State.onStore_ann (f : Store → Store) : (s.onStore f).ann = s.ann := rfl
@[simp] theorem State.onStore_mix (f : Store → Store) : (s.onStore f).mix = s.mix := rfl
@[simp] theorem State.onStore_seat (f : Store → Store) : (s.onStore f).seat = s.seat := rfl
@[simp] theorem State.onStore_light (f : Store → Store) : (s.onStore f).light = s.light := rfl
@[simp] theorem State.onStore_faults (f : Store → Store) : (s.onStore f).faults = s.faults := rfl
@[simp] theorem State.onStore_ports (f : Store → Store) : (s.onStore f).ports = s.ports := rfl
@[simp] theorem State.onStore_ctl (f : Store → Store) : (s.onStore f).ctl = s.ctl := rfl
@[simp] theorem State.onStore_fillSeq (f : Store → Store) : (s.onStore f).fillSeq = s.fillSeq := rfl
@[simp] theorem State.onStore_pending (f : Store → Store) : (s.onStore f).pending = s.pending := rfl
@[simp] theorem State.onRoute_store (f : Route → Route) : (s.onRoute f).store = s.store := rfl
@[simp] theorem State.onRoute_route (f : Route → Route) : (s.onRoute f).route = f s.route := rfl
@[simp] theorem State.onRoute_com (f : Route → Route) : (s.onRoute f).com = s.com := rfl
@[simp] theorem State.onRoute_ann (f : Route → Route) : (s.onRoute f).ann = s.ann := rfl
@[simp] theorem State.onRoute_mix (f : Route → Route) : (s.onRoute f).mix = s.mix := rfl
@[simp] theorem State.onRoute_seat (f : Route → Route) : (s.onRoute f).seat = s.seat := rfl
@[simp] theorem State.onRoute_light (f : Route → Route) : (s.onRoute f).light = s.light := rfl
@[simp] theorem State.onRoute_faults (f : Route → Route) : (s.onRoute f).faults = s.faults := rfl
@[simp] theorem State.onRoute_ports (f : Route → Route) : (s.onRoute f).ports = s.ports := rfl
@[simp] theorem State.onRoute_ctl (f : Route → Route) : (s.onRoute f).ctl = s.ctl := rfl
@[simp] theorem State.onRoute_fillSeq (f : Route → Route) : (s.onRoute f).fillSeq = s.fillSeq := rfl
@[simp] theorem State.onRoute_pending (f : Route → Route) : (s.onRoute f).pending = s.pending := rfl
@[simp] theorem State.onCom_store (f : Commentary → Commentary) : (s.onCom f).store = s.store := rfl
@[simp] theorem State.onCom_route (f : Commentary → Commentary) : (s.onCom f).route = s.route := rfl
@[simp] theorem State.onCom_com (f : Commentary → Commentary) : (s.onCom f).com = f s.com := rfl
@[simp] theorem State.onCom_ann (f : Commentary → Commentary) : (s.onCom f).ann = s.ann := rfl
@[simp] theorem State.onCom_mix (f : Commentary → Commentary) : (s.onCom f).mix = s.mix := rfl
@[simp] theorem State.onCom_seat (f : Commentary → Commentary) : (s.onCom f).seat = s.seat := rfl
@[simp] theorem State.onCom_light (f : Commentary → Commentary) : (s.onCom f).light = s.light := rfl
@[simp] theorem State.onCom_faults (f : Commentary → Commentary) : (s.onCom f).faults = s.faults := rfl
@[simp] theorem State.onCom_ports (f : Commentary → Commentary) : (s.onCom f).ports = s.ports := rfl
@[simp] theorem State.onCom_ctl (f : Commentary → Commentary) : (s.onCom f).ctl = s.ctl := rfl
@[simp] theorem State.onCom_fillSeq (f : Commentary → Commentary) : (s.onCom f).fillSeq = s.fillSeq := rfl
@[simp] theorem State.onCom_pending (f : Commentary → Commentary) : (s.onCom f).pending = s.pending := rfl
@[simp] theorem State.onAnn_store (f : Announcer → Announcer) : (s.onAnn f).store = s.store := rfl
@[simp] theorem State.onAnn_route (f : Announcer → Announcer) : (s.onAnn f).route = s.route := rfl
@[simp] theorem State.onAnn_com (f : Announcer → Announcer) : (s.onAnn f).com = s.com := rfl
@[simp] theorem State.onAnn_ann (f : Announcer → Announcer) : (s.onAnn f).ann = f s.ann := rfl
@[simp] theorem State.onAnn_mix (f : Announcer → Announcer) : (s.onAnn f).mix = s.mix := rfl
@[simp] theorem State.onAnn_seat (f : Announcer → Announcer) : (s.onAnn f).seat = s.seat := rfl
@[simp] theorem State.onAnn_light (f : Announcer → Announcer) : (s.onAnn f).light = s.light := rfl
@[simp] theorem State.onAnn_faults (f : Announcer → Announcer) : (s.onAnn f).faults = s.faults := rfl
@[simp] theorem State.onAnn_ports (f : Announcer → Announcer) : (s.onAnn f).ports = s.ports := rfl
@[simp] theorem State.onAnn_ctl (f : Announcer → Announcer) : (s.onAnn f).ctl = s.ctl := rfl
@[simp] theorem State.onAnn_fillSeq (f : Announcer → Announcer) : (s.onAnn f).fillSeq = s.fillSeq := rfl
@[simp] theorem State.onAnn_pending (f : Announcer → Announcer) : (s.onAnn f).pending = s.pending := rfl
@[simp] theorem State.onMix_store (f : Mixer → Mixer) : (s.onMix f).store = s.store := rfl
@[simp] theorem State.onMix_route (f : Mixer → Mixer) : (s.onMix f).route = s.route := rfl
@[simp] theorem State.onMix_com (f : Mixer → Mixer) : (s.onMix f).com = s.com := rfl
@[simp] theorem State.onMix_ann (f : Mixer → Mixer) : (s.onMix f).ann = s.ann := rfl
@[simp] theorem State.onMix_mix (f : Mixer → Mixer) : (s.onMix f).mix = f s.mix := rfl
@[simp] theorem State.onMix_seat (f : Mixer → Mixer) : (s.onMix f).seat = s.seat := rfl
@[simp] theorem State.onMix_light (f : Mixer → Mixer) : (s.onMix f).light = s.light := rfl
@[simp] theorem State.onMix_faults (f : Mixer → Mixer) : (s.onMix f).faults = s.faults := rfl
@[simp] theorem State.onMix_ports (f : Mixer → Mixer) : (s.onMix f).ports = s.ports := rfl
@[simp] theorem State.onMix_ctl (f : Mixer → Mixer) : (s.onMix f).ctl = s.ctl := rfl
@[simp] theorem State.onMix_fillSeq (f : Mixer → Mixer) : (s.onMix f).fillSeq = s.fillSeq := rfl
@[simp] theorem State.onMix_pending (f : Mixer → Mixer) : (s.onMix f).pending = s.pending := rfl
@[simp] theorem State.onSeat_store (f : SeatLink → SeatLink) : (s.onSeat f).store = s.store := rfl
@[simp] theorem State.onSeat_route (f : SeatLink → SeatLink) : (s.onSeat f).route = s.route := rfl
@[simp] theorem State.onSeat_com (f : SeatLink → SeatLink) : (s.onSeat f).com = s.com := rfl
@[simp] theorem State.onSeat_ann (f : SeatLink → SeatLink) : (s.onSeat f).ann = s.ann := rfl
@[simp] theorem State.onSeat_mix (f : SeatLink → SeatLink) : (s.onSeat f).mix = s.mix := rfl
@[simp] theorem State.onSeat_seat (f : SeatLink → SeatLink) : (s.onSeat f).seat = f s.seat := rfl
@[simp] theorem State.onSeat_light (f : SeatLink → SeatLink) : (s.onSeat f).light = s.light := rfl
@[simp] theorem State.onSeat_faults (f : SeatLink → SeatLink) : (s.onSeat f).faults = s.faults := rfl
@[simp] theorem State.onSeat_ports (f : SeatLink → SeatLink) : (s.onSeat f).ports = s.ports := rfl
@[simp] theorem State.onSeat_ctl (f : SeatLink → SeatLink) : (s.onSeat f).ctl = s.ctl := rfl
@[simp] theorem State.onSeat_fillSeq (f : SeatLink → SeatLink) : (s.onSeat f).fillSeq = s.fillSeq := rfl
@[simp] theorem State.onSeat_pending (f : SeatLink → SeatLink) : (s.onSeat f).pending = s.pending := rfl
@[simp] theorem State.onLight_store (f : Light → Light) : (s.onLight f).store = s.store := rfl
@[simp] theorem State.onLight_route (f : Light → Light) : (s.onLight f).route = s.route := rfl
@[simp] theorem State.onLight_com (f : Light → Light) : (s.onLight f).com = s.com := rfl
@[simp] theorem State.onLight_ann (f : Light → Light) : (s.onLight f).ann = s.ann := rfl
@[simp] theorem State.onLight_mix (f : Light → Light) : (s.onLight f).mix = s.mix := rfl
@[simp] theorem State.onLight_seat (f : Light → Light) : (s.onLight f).seat = s.seat := rfl
@[simp] theorem State.onLight_light (f : Light → Light) : (s.onLight f).light = f s.light := rfl
@[simp] theorem State.onLight_faults (f : Light → Light) : (s.onLight f).faults = s.faults := rfl
@[simp] theorem State.onLight_ports (f : Light → Light) : (s.onLight f).ports = s.ports := rfl
@[simp] theorem State.onLight_ctl (f : Light → Light) : (s.onLight f).ctl = s.ctl := rfl
@[simp] theorem State.onLight_fillSeq (f : Light → Light) : (s.onLight f).fillSeq = s.fillSeq := rfl
@[simp] theorem State.onLight_pending (f : Light → Light) : (s.onLight f).pending = s.pending := rfl
@[simp] theorem State.onFaults_store (f : FaultRecorder → FaultRecorder) : (s.onFaults f).store = s.store := rfl
@[simp] theorem State.onFaults_route (f : FaultRecorder → FaultRecorder) : (s.onFaults f).route = s.route := rfl
@[simp] theorem State.onFaults_com (f : FaultRecorder → FaultRecorder) : (s.onFaults f).com = s.com := rfl
@[simp] theorem State.onFaults_ann (f : FaultRecorder → FaultRecorder) : (s.onFaults f).ann = s.ann := rfl
@[simp] theorem State.onFaults_mix (f : FaultRecorder → FaultRecorder) : (s.onFaults f).mix = s.mix := rfl
@[simp] theorem State.onFaults_seat (f : FaultRecorder → FaultRecorder) : (s.onFaults f).seat = s.seat := rfl
@[simp] theorem State.onFaults_light (f : FaultRecorder → FaultRecorder) : (s.onFaults f).light = s.light := rfl
@[simp] theorem State.onFaults_faults (f : FaultRecorder → FaultRecorder) : (s.onFaults f).faults = f s.faults := rfl
@[simp] theorem State.onFaults_ports (f : FaultRecorder → FaultRecorder) : (s.onFaults f).ports = s.ports := rfl
@[simp] theorem State.onFaults_ctl (f : FaultRecorder → FaultRecorder) : (s.onFaults f).ctl = s.ctl := rfl
@[simp] theorem State.onFaults_fillSeq (f : FaultRecorder → FaultRecorder) : (s.onFaults f).fillSeq = s.fillSeq := rfl
@[simp] theorem State.onFaults_pending (f : FaultRecorder → FaultRecorder) : (s.onFaults f).pending = s.pending := rfl
@[simp] theorem State.onCtl_store (f : Control → Control) : (s.onCtl f).store = s.store := rfl
@[simp] theorem State.onCtl_route (f : Control → Control) : (s.onCtl f).route = s.route := rfl
@[simp] theorem State.onCtl_com (f : Control → Control) : (s.onCtl f).com = s.com := rfl
@[simp] theorem State.onCtl_ann (f : Control → Control) : (s.onCtl f).ann = s.ann := rfl
@[simp] theorem State.onCtl_mix (f : Control → Control) : (s.onCtl f).mix = s.mix := rfl
@[simp] theorem State.onCtl_seat (f : Control → Control) : (s.onCtl f).seat = s.seat := rfl
@[simp] theorem State.onCtl_light (f : Control → Control) : (s.onCtl f).light = s.light := rfl
@[simp] theorem State.onCtl_faults (f : Control → Control) : (s.onCtl f).faults = s.faults := rfl
@[simp] theorem State.onCtl_ports (f : Control → Control) : (s.onCtl f).ports = s.ports := rfl
@[simp] theorem State.onCtl_ctl (f : Control → Control) : (s.onCtl f).ctl = f s.ctl := rfl
@[simp] theorem State.onCtl_fillSeq (f : Control → Control) : (s.onCtl f).fillSeq = s.fillSeq := rfl
@[simp] theorem State.onCtl_pending (f : Control → Control) : (s.onCtl f).pending = s.pending := rfl
@[simp] theorem State.onPorts_store (f : PortState → PortState) : (s.onPorts f).store = s.store := rfl
@[simp] theorem State.onPorts_route (f : PortState → PortState) : (s.onPorts f).route = s.route := rfl
@[simp] theorem State.onPorts_com (f : PortState → PortState) : (s.onPorts f).com = s.com := rfl
@[simp] theorem State.onPorts_ann (f : PortState → PortState) : (s.onPorts f).ann = s.ann := rfl
@[simp] theorem State.onPorts_mix (f : PortState → PortState) : (s.onPorts f).mix = s.mix := rfl
@[simp] theorem State.onPorts_seat (f : PortState → PortState) : (s.onPorts f).seat = s.seat := rfl
@[simp] theorem State.onPorts_light (f : PortState → PortState) : (s.onPorts f).light = s.light := rfl
@[simp] theorem State.onPorts_faults (f : PortState → PortState) : (s.onPorts f).faults = s.faults := rfl
@[simp] theorem State.onPorts_ports (f : PortState → PortState) : (s.onPorts f).ports = s.ports.map f := rfl
@[simp] theorem State.onPorts_ctl (f : PortState → PortState) : (s.onPorts f).ctl = s.ctl := rfl
@[simp] theorem State.onPorts_fillSeq (f : PortState → PortState) : (s.onPorts f).fillSeq = s.fillSeq := rfl
@[simp] theorem State.onPorts_pending (f : PortState → PortState) : (s.onPorts f).pending = s.pending := rfl
@[simp] theorem State.onPort_store (p : Port) (f : PortState → PortState) : (s.onPort p f).store = s.store := rfl
@[simp] theorem State.onPort_route (p : Port) (f : PortState → PortState) : (s.onPort p f).route = s.route := rfl
@[simp] theorem State.onPort_com (p : Port) (f : PortState → PortState) : (s.onPort p f).com = s.com := rfl
@[simp] theorem State.onPort_ann (p : Port) (f : PortState → PortState) : (s.onPort p f).ann = s.ann := rfl
@[simp] theorem State.onPort_mix (p : Port) (f : PortState → PortState) : (s.onPort p f).mix = s.mix := rfl
@[simp] theorem State.onPort_seat (p : Port) (f : PortState → PortState) : (s.onPort p f).seat = s.seat := rfl
@[simp] theorem State.onPort_light (p : Port) (f : PortState → PortState) : (s.onPort p f).light = s.light := rfl
@[simp] theorem State.onPort_faults (p : Port) (f : PortState → PortState) : (s.onPort p f).faults = s.faults := rfl
@[simp] theorem State.onPort_ports (p : Port) (f : PortState → PortState) : (s.onPort p f).ports = s.ports.modify p f := rfl
@[simp] theorem State.onPort_ctl (p : Port) (f : PortState → PortState) : (s.onPort p f).ctl = s.ctl := rfl
@[simp] theorem State.onPort_fillSeq (p : Port) (f : PortState → PortState) : (s.onPort p f).fillSeq = s.fillSeq := rfl
@[simp] theorem State.onPort_pending (p : Port) (f : PortState → PortState) : (s.onPort p f).pending = s.pending := rfl

end Sys2Proof.Machine
end

