-- ==== Sys2Proof/Laws/Tab.lean ====
section
/-! SUPPORT. Laws of the fixed tables and of index lists. -/

namespace Sys2Proof

variable {α β : Type} {n : Nat}

theorem Tab.get_eq (t : Tab α n) (i : Fin n) : t.list[i.val]'(by rw [t.len]; exact i.isLt) = t.get i := rfl

theorem Tab.ext_get {t u : Tab α n} (h : ∀ i, t.get i = u.get i) : t = u := by
  obtain ⟨l, hl⟩ := t
  obtain ⟨m, hm⟩ := u
  have : l = m := List.ext_getElem (hl.trans hm.symm) fun k hk _ => h ⟨k, hl ▸ hk⟩
  subst this; rfl

@[simp] theorem Tab.get_set_self (t : Tab α n) (i : Fin n) (v : α) : (t.set i v).get i = v := by
  rw [← Tab.get_eq]; exact List.getElem_set_self _

@[simp] theorem Tab.get_set_other {t : Tab α n} {i j : Fin n} (h : i ≠ j) (v : α) : (t.set i v).get j = t.get j := by
  rw [← Tab.get_eq, ← Tab.get_eq]; exact List.getElem_set_ne (fun e => h (Fin.ext e)) _

theorem Tab.get_set (t : Tab α n) (i j : Fin n) (v : α) : (t.set i v).get j = if i = j then v else t.get j := by
  split
  · next h => subst h; simp
  · next h => simp [h]

@[simp] theorem Tab.get_map (f : α → β) (t : Tab α n) (i : Fin n) : (t.map f).get i = f (t.get i) := by
  rw [← Tab.get_eq, ← Tab.get_eq]; exact List.getElem_map _

@[simp] theorem Tab.get_fill (v : α) (i : Fin n) : (Tab.fill n v).get i = v := by
  simp [Tab.get, Tab.fill]

@[simp] theorem Tab.get_ofFn (f : Fin n → α) (i : Fin n) : (Tab.ofFn f).get i = f i := by
  rw [← Tab.get_eq]; exact List.getElem_ofFn _

theorem Tab.get_modify (t : Tab α n) (i j : Fin n) (f : α → α) :
    (t.modify i f).get j = if i = j then f (t.get j) else t.get j := by
  unfold Tab.modify
  rw [Tab.get_set]
  split
  · next h => subst h; rfl
  · rfl

@[simp] theorem Tab.get_modify_self (t : Tab α n) (i : Fin n) (f : α → α) : (t.modify i f).get i = f (t.get i) := by
  simp [Tab.modify]

@[simp] theorem Tab.get_modify_other {t : Tab α n} {i j : Fin n} (h : i ≠ j) (f : α → α) :
    (t.modify i f).get j = t.get j := by
  simp [Tab.modify, h]

@[simp] theorem Tab.set_get (t : Tab α n) (i : Fin n) : t.set i (t.get i) = t := by
  apply Tab.ext_get; intro j
  rw [Tab.get_set]
  split
  · next h => subst h; rfl
  · rfl

@[simp] theorem Tab.set_set (t : Tab α n) (i : Fin n) (v w : α) : (t.set i v).set i w = t.set i w := by
  apply Tab.ext_get; intro j
  simp only [Tab.get_set]
  split <;> rfl

theorem Tab.forall_mem {t : Tab α n} {P : α → Prop} : (∀ x ∈ t.list, P x) ↔ ∀ i, P (t.get i) := by
  constructor
  · intro h i; exact h _ (List.getElem_mem _)
  · intro h x hx
    obtain ⟨k, hk, rfl⟩ := List.getElem_of_mem hx
    exact h ⟨k, t.len ▸ hk⟩

@[simp] theorem mem_indices (i : Fin n) : i ∈ indices n := by
  simp [indices]

theorem toIndex_eq_some {k : Nat} {i : Fin n} : toIndex n k = some i ↔ k = i.val := by
  unfold toIndex
  split
  · next h => simp [Fin.ext_iff]
  · next h =>
    simp only [reduceCtorEq, false_iff]
    exact fun e => h (e ▸ i.isLt)

@[simp] theorem toIndex_val (i : Fin n) : toIndex n i.val = some i := toIndex_eq_some.2 rfl

theorem toIndex_eq_none {k : Nat} : toIndex n k = none ↔ n ≤ k := by
  unfold toIndex
  split <;> simp <;> omega

end Sys2Proof
end

