-- ==== Sys2Proof/Laws/Drift.lean ====
section
/-! SUPPORT. Drift: what no internal operation of the hub does. An operation that is a drift touches no setting, no DRAM byte, no
command in hand, keeps every capacity and bound, changes no record on which a reservation then still stands, and so on. The files
that follow prove it once of every operation; a frame or an invariant is then a field of the drift. -/

namespace Sys2Proof.Machine

/-- What an internal operation leaves of a port. -/
structure PortDrift (a b : PortState) : Prop where
  slot : b.slot = a.slot
  mask : b.mask = a.mask
  dout : b.dout = a.dout
  queue : a.queue.length ≤ 16 → b.queue.length ≤ 16
  resv : b.resv = a.resv ∨ b.resv = none

/-- What an internal operation leaves of the Clip Store. -/
structure StoreDrift (a b : Store) : Prop where
  dram : b.dram = a.dram
  scrub : a.scrub.length ≤ 8 → b.scrub.length ≤ 8
  links : sparseWf Link.free a.links = true → sparseWf Link.free b.links = true
  errs : sparseWf none a.dramErr = true → sparseWf none b.dramErr = true

/-- What an internal operation leaves of the fault banks: the masks, and a captured uncorrected fault but for its overrun (R169). -/
structure BankDrift (a b : FaultBank) : Prop where
  mask : b.mask = a.mask
  kept : ∀ r, a.record = some r → r.uncorrected = true → ∃ o, b.record = some { r with overrun := o }
  stays : ∀ r, a.record = some r → ∃ q, b.record = some q ∧ (r.overrun = true → q.overrun = true)

/-- What an internal operation that may move the cursor leaves of the hub, but for the bounds of its sound. -/
structure Slide (s t : State) : Prop where
  pending : t.pending = s.pending
  fillSeq : t.fillSeq = s.fillSeq
  time : t.ctl.time = s.ctl.time
  parkLine : t.ctl.parkLine = s.ctl.parkLine
  fallback : s.ctl.op = .fallback → t.ctl.op = .fallback
  store : StoreDrift s.store t.store
  progs : t.mix.progs = s.mix.progs
  duck : t.mix.duck = s.mix.duck
  loud : t.mix.loud = s.mix.loud
  count : t.seat.count = s.seat.count
  holdoff : t.seat.holdoff = s.seat.holdoff
  dim : t.light.dim = s.light.dim
  floorC : t.light.floorC = s.light.floorC
  lfallback : t.light.fallback = s.light.fallback
  zones : t.light.zones = s.light.zones
  acked : t.light.acked = s.light.acked
  awaiting : t.light.awaiting = s.light.awaiting
  live : t.ann.live = s.ann.live
  banks : ∀ i, BankDrift (s.faults.banks.get i) (t.faults.banks.get i)
  ports : ∀ p, PortDrift (s.ports.get p) (t.ports.get p)
  record : ∀ p r, r.real → (t.ports.get p).resv = some r → t.recordBytes r = s.recordBytes r
  current : s.ann.live.driver.isSome = true → ∀ x, t.ann.current.map (·.item) = some x → s.ann.current.map (·.item) = some x
  caps : CapacitiesHold s → CapacitiesHold t
  seats : SeatsConfigured s → SeatsConfigured t
  activity : ∀ p, p ≠ 0 → activityAgrees s p → activityAgrees t p

/-- What an internal operation that may move the cursor leaves of the hub. -/
structure Glide (s t : State) : Prop extends Slide s t where
  audio : AudioBounded s → AudioBounded t

/-- What an internal operation leaves of the hub: a glide that moves the cursor's next stop alone. -/
structure Drift (s t : State) : Prop extends Glide s t where
  cursor : t.route.cursor.set = s.route.cursor.set ∧ t.route.cursor.distance = s.route.cursor.distance ∧
    t.route.cursor.speed = s.route.cursor.speed

theorem PortDrift.refl (a : PortState) : PortDrift a a := ⟨rfl, rfl, rfl, id, .inl rfl⟩

theorem PortDrift.trans {a b c : PortState} (h : PortDrift a b) (k : PortDrift b c) : PortDrift a c where
  slot := k.slot.trans h.slot
  mask := k.mask.trans h.mask
  dout := k.dout.trans h.dout
  queue := k.queue ∘ h.queue
  resv := by
    rcases k.resv with e | e
    · rcases h.resv with f | f
      · exact .inl (e.trans f)
      · exact .inr (e.trans f)
    · exact .inr e

theorem PortDrift.resv_of {a b : PortState} (h : PortDrift a b) {r : RecName} (e : b.resv = some r) : a.resv = some r := by
  rcases h.resv with f | f
  · exact f.symm.trans e
  · rw [f] at e; cases e

theorem StoreDrift.refl (a : Store) : StoreDrift a a := ⟨rfl, id, id, id⟩

theorem StoreDrift.trans {a b c : Store} (h : StoreDrift a b) (k : StoreDrift b c) : StoreDrift a c :=
  ⟨k.dram.trans h.dram, k.scrub ∘ h.scrub, k.links ∘ h.links, k.errs ∘ h.errs⟩

theorem StoreDrift.foldl {γ : Type} (f : Store → γ → Store) (h : ∀ st x, StoreDrift st (f st x)) (l : List γ) (st : Store) :
    StoreDrift st (l.foldl f st) := by
  induction l generalizing st with
  | nil => exact .refl st
  | cons x l ih => exact (h st x).trans (ih _)

theorem BankDrift.refl (a : FaultBank) : BankDrift a a := ⟨rfl, fun r h _ => ⟨r.overrun, h⟩, fun r h => ⟨r, h, id⟩⟩

theorem BankDrift.trans {a b c : FaultBank} (h : BankDrift a b) (k : BankDrift b c) : BankDrift a c where
  mask := k.mask.trans h.mask
  kept r hr hu := by
    obtain ⟨o, ho⟩ := h.kept r hr hu
    obtain ⟨o', ho'⟩ := k.kept _ ho hu
    exact ⟨o', ho'⟩
  stays r hr := by
    obtain ⟨q, hq, ho⟩ := h.stays r hr
    obtain ⟨q', hq', ho'⟩ := k.stays q hq
    exact ⟨q', hq', ho' ∘ ho⟩

/-- A record's content is read from these parts alone. -/
theorem State.recordBytes_congr {s t : State} (r : RecName) (h1 : t.route = s.route) (h2 : t.mix.progs = s.mix.progs)
    (h3 : t.mix.duck = s.mix.duck) (h4 : t.mix.loud = s.mix.loud) (h5 : t.light.layers = s.light.layers)
    (h6 : t.seat.count = s.seat.count) (h7 : t.seat.holdoff = s.seat.holdoff) : t.recordBytes r = s.recordBytes r := by
  unfold State.recordBytes seatConfigBytes
  rw [h1, h2, h3, h4, h5, h6, h7]

theorem Glide.refl (s : State) : Glide s s where
  pending := rfl
  fillSeq := rfl
  time := rfl
  parkLine := rfl
  fallback := id
  store := .refl _
  progs := rfl
  duck := rfl
  loud := rfl
  count := rfl
  holdoff := rfl
  dim := rfl
  floorC := rfl
  lfallback := rfl
  zones := rfl
  acked := rfl
  awaiting := rfl
  live := rfl
  banks _ := .refl _
  ports _ := .refl _
  record _ _ _ _ := rfl
  current _ _ h := h
  caps := id
  audio := id
  seats := id
  activity _ _ := id

theorem Slide.trans {s t u : State} (h : Slide s t) (k : Slide t u) : Slide s u where
  pending := k.pending.trans h.pending
  fillSeq := k.fillSeq.trans h.fillSeq
  time := k.time.trans h.time
  parkLine := k.parkLine.trans h.parkLine
  fallback := k.fallback ∘ h.fallback
  store := h.store.trans k.store
  progs := k.progs.trans h.progs
  duck := k.duck.trans h.duck
  loud := k.loud.trans h.loud
  count := k.count.trans h.count
  holdoff := k.holdoff.trans h.holdoff
  dim := k.dim.trans h.dim
  floorC := k.floorC.trans h.floorC
  lfallback := k.lfallback.trans h.lfallback
  zones := k.zones.trans h.zones
  acked := k.acked.trans h.acked
  awaiting := k.awaiting.trans h.awaiting
  live := k.live.trans h.live
  banks i := (h.banks i).trans (k.banks i)
  ports p := (h.ports p).trans (k.ports p)
  record p r hr e := (k.record p r hr e).trans (h.record p r hr ((k.ports p).resv_of e))
  current e x hx := h.current e x (k.current (by rw [h.live]; exact e) x hx)
  caps := k.caps ∘ h.caps
  seats := k.seats ∘ h.seats
  activity p hp := k.activity p hp ∘ h.activity p hp

theorem Glide.trans {s t u : State} (h : Glide s t) (k : Glide t u) : Glide s u :=
  ⟨h.toSlide.trans k.toSlide, k.audio ∘ h.audio⟩

theorem Drift.refl (s : State) : Drift s s := ⟨.refl s, rfl, rfl, rfl⟩

theorem Drift.trans {s t u : State} (h : Drift s t) (k : Drift t u) : Drift s u :=
  ⟨h.toGlide.trans k.toGlide, k.cursor.1.trans h.cursor.1, k.cursor.2.1.trans h.cursor.2.1, k.cursor.2.2.trans h.cursor.2.2⟩

/-- A drift followed by another, the last one named first. -/
theorem Drift.of {s t u : State} (k : Drift t u) (h : Drift s t) : Drift s u := h.trans k

theorem Drift.foldl {γ : Type} (f : State → γ → State) (h : ∀ s x, Drift s (f s x)) (l : List γ) (s : State) :
    Drift s (l.foldl f s) := by
  induction l generalizing s with
  | nil => exact .refl s
  | cons x l ih => exact (h s x).trans (ih _)

theorem Drift.ite {s t u : State} {c : Prop} [Decidable c] (h : Drift s t) (k : Drift s u) : Drift s (if c then t else u) := by
  split
  · exact h
  · exact k

/-! ## One part changed -/

section
variable {s : State}

theorem Drift.onPorts' {t : State} (ht : t = { s with ports := t.ports })
    (h : ∀ p, PortDrift (s.ports.get p) (t.ports.get p)) : Drift s t := by
  generalize t.ports = q at *
  subst ht
  refine ⟨{ Glide.refl s with
    ports := h, record := fun _ r _ _ => State.recordBytes_congr r rfl rfl rfl rfl rfl rfl rfl
    caps := fun c => { c with events := fun p => (h p).queue (c.events p) }
    audio := fun a => ⟨a.gains, a.blocks, a.out⟩
    seats := fun a => ⟨a.count, a.holdoff, a.pointer, a.disabled, a.selection⟩
    activity := fun _ _ => id }, rfl, rfl, rfl⟩

theorem Drift.onPorts {f : PortState → PortState} (h : ∀ a, PortDrift a (f a)) : Drift s (s.onPorts f) :=
  Drift.onPorts' rfl fun p => by simpa [State.onPorts] using h _

theorem Drift.onPort {q : Port} {f : PortState → PortState} (h : ∀ a, PortDrift a (f a)) : Drift s (s.onPort q f) :=
  Drift.onPorts' rfl fun p => by
    simp only [State.onPort, Tab.get_modify]
    split
    · exact h _
    · exact .refl _

theorem Drift.onStore {f : Store → Store} (h : StoreDrift s.store (f s.store)) : Drift s (s.onStore f) :=
  ⟨{ Glide.refl s with
    store := h
    record := fun _ r _ _ => State.recordBytes_congr r rfl rfl rfl rfl rfl rfl rfl
    caps := fun c => { c with scrub := h.scrub c.scrub }
    audio := fun a => ⟨a.gains, a.blocks, a.out⟩
    seats := fun a => ⟨a.count, a.holdoff, a.pointer, a.disabled, a.selection⟩
    activity := fun _ _ => id }, rfl, rfl, rfl⟩

theorem Drift.onCom {f : Commentary → Commentary}
    (h : ∀ p, (s.com.queues.get p).length ≤ 4 → ((f s.com).queues.get p).length ≤ 4) : Drift s (s.onCom f) :=
  ⟨{ Glide.refl s with
    record := fun _ r _ _ => State.recordBytes_congr r rfl rfl rfl rfl rfl rfl rfl
    caps := fun c => { c with commentary := fun p => h p (c.commentary p) }
    audio := fun a => ⟨a.gains, a.blocks, a.out⟩
    seats := fun a => ⟨a.count, a.holdoff, a.pointer, a.disabled, a.selection⟩
    activity := fun _ _ => id }, rfl, rfl, rfl⟩

theorem Drift.onAnn {f : Announcer → Announcer} (hl : (f s.ann).live = s.ann.live)
    (hq : s.ann.queue.length ≤ 8 → (f s.ann).queue.length ≤ 8)
    (hc : s.ann.live.driver.isSome = true → ∀ x, (f s.ann).current.map (·.item) = some x → s.ann.current.map (·.item) = some x) :
    Drift s (s.onAnn f) :=
  ⟨{ Glide.refl s with
    live := hl, current := hc
    record := fun _ r _ _ => State.recordBytes_congr r rfl rfl rfl rfl rfl rfl rfl
    caps := fun c => { c with announce := hq c.announce }
    audio := fun a => ⟨a.gains, a.blocks, a.out⟩
    seats := fun a => ⟨a.count, a.holdoff, a.pointer, a.disabled, a.selection⟩
    activity := fun _ _ => id }, rfl, rfl, rfl⟩

/-- What an internal operation leaves of the mixer's bounded parts. -/
structure MixDrift (a b : Mixer) : Prop where
  progs : b.progs = a.progs
  duck : b.duck = a.duck
  loud : b.loud = a.loud
  mirror : a.mirror.length ≤ 2 → b.mirror.length ≤ 2
  clamped : ∀ p, a.clamped.get p ≤ 65535 → b.clamped.get p ≤ 65535
  streak : ∀ p, a.streak.get p ≤ 15 → b.streak.get p ≤ 15
  gains : (∀ p v, ((a.voices.get p).get v).d ≤ 4096 ∧ ((a.voices.get p).get v).target ≤ 4096) →
    (∀ p b, a.block.get p = some b → ∀ v, b.target.get v ≤ 4096) →
    (∀ p v, ((b.voices.get p).get v).d ≤ 4096 ∧ ((b.voices.get p).get v).target ≤ 4096) ∧
    (∀ p x, b.block.get p = some x → ∀ v, x.target.get v ≤ 4096)
  out : ∀ p, (∀ x ∈ a.out.get p, -32768 ≤ x ∧ x ≤ 32767) → ∀ x ∈ b.out.get p, -32768 ≤ x ∧ x ≤ 32767

theorem MixDrift.refl (a : Mixer) : MixDrift a a := ⟨rfl, rfl, rfl, id, fun _ => id, fun _ => id, fun h k => ⟨h, k⟩, fun _ => id⟩

theorem Drift.onMix {f : Mixer → Mixer} (h : MixDrift s.mix (f s.mix)) : Drift s (s.onMix f) :=
  ⟨{ Glide.refl s with
    progs := h.progs, duck := h.duck, loud := h.loud
    record := fun _ r _ _ => State.recordBytes_congr r rfl h.progs h.duck h.loud rfl rfl rfl
    caps := fun c => { c with
      mirror := h.mirror c.mirror, clamped := fun p => h.clamped p (c.clamped p), streak := fun p => h.streak p (c.streak p) }
    audio := fun a => ⟨(h.gains a.gains a.blocks).1, (h.gains a.gains a.blocks).2, fun p => h.out p (a.out p)⟩
    seats := fun a => ⟨a.count, a.holdoff, a.pointer, a.disabled, a.selection⟩
    activity := fun p _ => by
      unfold activityAgrees decisionAgrees State.progOn
      simp only [State.onMix_seat, State.onMix_mix, h.progs]
      exact id }, rfl, rfl, rfl⟩

theorem Drift.onLight {f : Light → Light} (hy : (f s.light).layers = s.light.layers) (hd : (f s.light).dim = s.light.dim)
    (hf : (f s.light).floorC = s.light.floorC) (hk : (f s.light).fallback = s.light.fallback)
    (hz : (f s.light).zones = s.light.zones) (ha : (f s.light).acked = s.light.acked)
    (hw : (f s.light).awaiting = s.light.awaiting) : Drift s (s.onLight f) :=
  ⟨{ Glide.refl s with
    dim := hd, floorC := hf, lfallback := hk, zones := hz, acked := ha, awaiting := hw
    record := fun _ r _ _ => State.recordBytes_congr r rfl rfl rfl rfl hy rfl rfl
    caps := fun c => { c with }
    audio := fun a => ⟨a.gains, a.blocks, a.out⟩
    seats := fun a => ⟨a.count, a.holdoff, a.pointer, a.disabled, a.selection⟩
    activity := fun _ _ => id }, rfl, rfl, rfl⟩

theorem Drift.onFaults {f : FaultRecorder → FaultRecorder}
    (h : ∀ i, BankDrift (s.faults.banks.get i) ((f s.faults).banks.get i)) : Drift s (s.onFaults f) :=
  ⟨{ Glide.refl s with
    banks := h
    record := fun _ r _ _ => State.recordBytes_congr r rfl rfl rfl rfl rfl rfl rfl
    caps := fun c => { c with }
    audio := fun a => ⟨a.gains, a.blocks, a.out⟩
    seats := fun a => ⟨a.count, a.holdoff, a.pointer, a.disabled, a.selection⟩
    activity := fun _ _ => id }, rfl, rfl, rfl⟩

theorem Drift.onCtl {f : Control → Control} (ht : (f s.ctl).time = s.ctl.time) (hp : (f s.ctl).parkLine = s.ctl.parkLine)
    (hf : s.ctl.op = .fallback → (f s.ctl).op = .fallback) : Drift s (s.onCtl f) :=
  ⟨{ Glide.refl s with
    time := ht, parkLine := hp, fallback := hf
    record := fun _ r _ _ => State.recordBytes_congr r rfl rfl rfl rfl rfl rfl rfl
    caps := fun c => { c with }
    audio := fun a => ⟨a.gains, a.blocks, a.out⟩
    seats := fun a => ⟨a.count, a.holdoff, a.pointer, a.disabled, a.selection⟩
    activity := fun _ _ => id }, rfl, rfl, rfl⟩

theorem Drift.onSeat {f : SeatLink → SeatLink} (hc : (f s.seat).count = s.seat.count)
    (hh : (f s.seat).holdoff = s.seat.holdoff) (hm : CapacitiesHold s → ∀ i, ((f s.seat).seats.get i).misses ≤ 3)
    (hs : SeatsConfigured s → SeatsConfigured (s.onSeat f))
    (ha : ∀ p, p ≠ 0 → activityAgrees s p → activityAgrees (s.onSeat f) p) : Drift s (s.onSeat f) :=
  ⟨{ Glide.refl s with
    count := hc, holdoff := hh
    record := fun _ r _ _ => State.recordBytes_congr r rfl rfl rfl rfl rfl hc hh
    caps := fun c => { c with misses := hm c }
    audio := fun a => ⟨a.gains, a.blocks, a.out⟩
    seats := hs
    activity := ha }, rfl, rfl, rfl⟩

end

/-! ## Posting events, and clearing reservations -/

theorem PortDrift.receive (e : Event) (a : PortState) : PortDrift a (a.receive e) := by
  unfold PortState.receive
  split
  · next h =>
    refine ⟨rfl, rfl, rfl, fun _ => ?_, .inl rfl⟩
    simp only [List.length_append, List.length_singleton]
    unfold Config.eventDepth at h; omega
  · exact ⟨rfl, rfl, rfl, id, .inl rfl⟩

theorem Drift.post (s : State) (k : EventKind) (a b c : Nat) : Drift s (s.post k a b c) :=
  Drift.onPorts fun ps => by
    split
    · exact .receive _ _
    · exact .refl _

theorem Drift.postTo (s : State) (p : Port) (k : EventKind) (a b c : Nat) : Drift s (s.postTo p k a b c) :=
  Drift.onPort fun _ => .receive _ _

theorem Drift.touch (s : State) (r : RecName) : Drift s (s.touch r) :=
  Drift.onPorts fun ps => by
    split
    · exact ⟨rfl, rfl, rfl, id, .inr rfl⟩
    · exact .refl _

theorem Drift.dropResv (s : State) (p : Port) : Drift s (s.dropResv p) :=
  Drift.onPort fun _ => ⟨rfl, rfl, rfl, id, .inr rfl⟩

theorem State.touch_resv {s : State} {r : RecName} {p : Port} : ((s.touch r).ports.get p).resv ≠ some r := by
  simp only [State.touch, State.onPorts_ports, Tab.get_map]
  split <;> simp_all

/-! ## The hub's own changes of records (R163) -/

theorem touch_ports (s : State) (r : RecName) (p : Port) : PortDrift (s.ports.get p) ((s.touch r).ports.get p) :=
  (Drift.touch s r).ports p

/-- A change of the Route Unit in which one record alone changes, whose reservations are then cleared. -/
theorem Glide.onRouteTouch {s : State} {f : Route → Route} {r : RecName}
    (h : ∀ r', r'.real → r' ≠ r → (s.onRoute f).recordBytes r' = s.recordBytes r') : Glide s ((s.onRoute f).touch r) :=
  { Glide.refl s with
    ports := fun p => touch_ports (s.onRoute f) r p
    record := fun p r' hr e => by
      rw [(Drift.touch (s.onRoute f) r).record p r' hr e]
      exact h r' hr fun he => State.touch_resv (he ▸ e)
    caps := fun c => { c with events := fun p => (touch_ports (s.onRoute f) r p).queue (c.events p) }
    audio := fun a => ⟨a.gains, a.blocks, a.out⟩
    seats := fun a => ⟨a.count, a.holdoff, a.pointer, a.disabled, a.selection⟩
    activity := fun _ _ => id }

theorem Glide.setCursor (s : State) (c : Cursor) : Glide s (s.setCursor c) := by
  unfold State.setCursor
  split
  · exact .refl s
  refine Glide.onRouteTouch fun r hl hr => ?_
  obtain ⟨cls, idx⟩ := r
  cases cls <;> first | rfl | skip
  simp only [RecName.real, recClassSize, Nat.lt_one_iff] at hl
  exact absurd (by rw [hl]; rfl) hr

theorem Drift.setStop (s : State) (i : StopNo) (x : Option Stop) : Drift s (s.setStop i x) := by
  unfold State.setStop
  split
  · exact .refl s
  refine ⟨Glide.onRouteTouch fun r _ hr => ?_, rfl, rfl, rfl⟩
  obtain ⟨cls, idx⟩ := r
  cases cls <;> first | rfl | skip
  simp only [State.recordBytes, State.onRoute_route]
  split
  · next j hj =>
    rw [Tab.get_set_other]
    rintro rfl
    exact hr (by rw [toIndex_eq_some.1 hj]; rfl)
  · rfl

theorem Drift.setSegment (s : State) (i : SegNo) (x : Option Segment) : Drift s (s.setSegment i x) := by
  unfold State.setSegment
  split
  · exact .refl s
  refine ⟨Glide.onRouteTouch fun r _ hr => ?_, rfl, rfl, rfl⟩
  obtain ⟨cls, idx⟩ := r
  cases cls <;> first | rfl | skip
  simp only [State.recordBytes, State.onRoute_route]
  split
  · next j hj =>
    rw [Tab.get_set_other]
    rintro rfl
    exact hr (by rw [toIndex_eq_some.1 hj]; rfl)
  · rfl

theorem Drift.setLayer (s : State) (l : LayerNo) (x : Layer) : Drift s (s.setLayer l x) := by
  unfold State.setLayer
  split
  · exact .refl s
  refine ⟨{ Glide.refl s with
    ports := fun p => touch_ports (s.onLight fun g => { g with layers := g.layers.set l x }) _ p
    record := fun p r hr e => ?_
    caps := fun c => { c with events := fun p => (touch_ports (s.onLight fun g => { g with layers := g.layers.set l x }) _ p).queue (c.events p) }
    audio := fun a => ⟨a.gains, a.blocks, a.out⟩
    seats := fun a => ⟨a.count, a.holdoff, a.pointer, a.disabled, a.selection⟩
    activity := fun _ _ => id }, rfl, rfl, rfl⟩
  rw [(Drift.touch _ _).record p r hr e]
  have hne : r ≠ layerRec l := fun he => State.touch_resv (he ▸ e)
  obtain ⟨cls, idx⟩ := r
  cases cls <;> first | rfl | skip
  simp only [State.recordBytes, State.onLight_light]
  split
  · next j hj =>
    rw [Tab.get_set_other]
    rintro rfl
    exact hne (by rw [toIndex_eq_some.1 hj]; rfl)
  · rfl

/-- The next stop worked out afresh (R31). -/
theorem Drift.setNextStop (s : State) (n : Option StopNo) : Drift s (s.setCursor { s.route.cursor with nextStop := n }) := by
  refine ⟨Glide.setCursor s _, ?_⟩
  unfold State.setCursor
  split <;> exact ⟨rfl, rfl, rfl⟩

end Sys2Proof.Machine
end

