-- ==== Sys2Proof/Laws/DriftStore.lean ====
section
/-! SUPPORT. The Clip Store's, the Route Unit's and the Commentary Player's operations are drifts. -/

namespace Sys2Proof.Machine

/-! ## Clip Store -/

/-- A change of the store that keeps its DRAM and its scrub queue, and, unless said otherwise, its sparse tables. -/
theorem StoreDrift.of {a b : Store} (h1 : b.dram = a.dram) (h3 : b.scrub = a.scrub)
    (h4 : sparseWf Link.free a.links = true → sparseWf Link.free b.links = true := by exact id)
    (h5 : sparseWf none a.dramErr = true → sparseWf none b.dramErr = true := by exact id) : StoreDrift a b :=
  ⟨h1, fun h => h3 ▸ h, h4, h5⟩

theorem StoreDrift.searchMap (st : Store) : StoreDrift st st.searchMap := .of rfl rfl

theorem StoreDrift.readEntry (st : Store) (n : EntryNo) : StoreDrift st (st.readEntry n) := by
  unfold Store.readEntry
  split
  · exact .of rfl rfl
  · exact .refl _

theorem StoreDrift.readLinks (st : Store) (ps : List Page) : StoreDrift st (st.readLinks ps) := .of rfl rfl

theorem StoreDrift.putEntry (st : Store) (n : EntryNo) (e : Option Entry) : StoreDrift st (st.putEntry n e) := .of rfl rfl

theorem StoreDrift.putLink (st : Store) (p : Page) (v : Link) : StoreDrift st (st.putLink p v) :=
  .of rfl rfl (fun h => sparseSet_wf _ _ _ h)

theorem StoreDrift.freePage (st : Store) (p : Page) : StoreDrift st (st.freePage p) :=
  .of rfl rfl (fun h => sparseSet_wf _ _ _ h)

theorem StoreDrift.freeChain (st : Store) (first : Option Page) : StoreDrift st (st.freeChain first) := by
  unfold Store.freeChain
  split
  · exact .refl _
  · exact (StoreDrift.readLinks st _).trans (.foldl _ .freePage _ _)

theorem StoreDrift.freeEntry (st : Store) (n : EntryNo) : StoreDrift st (st.freeEntry n) := by
  unfold Store.freeEntry
  split
  · exact .refl _
  · exact (StoreDrift.freeChain st _).trans (.putEntry _ _ _)

theorem StoreDrift.unpinEntry (st : Store) (n : EntryNo) : StoreDrift st (st.unpinEntry n) := by
  unfold Store.unpinEntry
  split
  · exact .refl _
  · split
    · exact .of rfl rfl
    · exact .refl _

theorem StoreDrift.lookup (st : Store) (clip : Nat) (f : ClipKind → Bool) : StoreDrift st (st.lookup clip f).1 := by
  unfold Store.lookup
  dsimp only
  split
  · exact .searchMap st
  · split
    · exact .searchMap st
    · split <;> exact .of rfl rfl

theorem StoreDrift.release (st : Store) (n : EntryNo) : StoreDrift st (st.release n) := by
  unfold Store.release
  dsimp only
  refine (StoreDrift.readEntry st n).trans ?_
  split
  · exact .refl _
  · split
    · exact (StoreDrift.putEntry _ _ _).trans (.freeEntry _ _)
    · exact .putEntry _ _ _

theorem StoreDrift.retire (st : Store) (n : EntryNo) : StoreDrift st (st.retire n) := by
  unfold Store.retire
  dsimp only
  refine (StoreDrift.unpinEntry st n).trans ?_
  split
  · exact .refl _
  · split
    · exact .freeEntry _ _
    · exact .putEntry _ _ _

theorem StoreDrift.setSlot (st : Store) (p : Port) (x : LoadSlot) : StoreDrift st (st.setSlot p x) := .of rfl rfl

theorem StoreDrift.takePage {st : Store} {p : Port} {l : Load} {st' : Store} (h : st.takePage p l = some st') : StoreDrift st st' := by
  unfold Store.takePage at h
  split at h
  · cases h
  · dsimp only at h
    split at h <;> (cases h; refine .of rfl rfl fun h => ?_)
    · exact sparseSet_wf _ _ _ h
    · exact sparseSet_wf _ _ _ (sparseSet_wf _ _ _ h)

theorem StoreDrift.layLine (st : Store) (p : Port) (page : Page) (off : Nat) (bs : List Byte) (last : Bool) :
    StoreDrift st (st.layLine p page off bs last) := by
  unfold Store.layLine
  dsimp only
  repeat' split
  all_goals exact .of rfl rfl

theorem StoreDrift.layPiece (p : Port) (pages : List Page) (len fuel off : Nat) (bs : List Byte) (st : Store) :
    StoreDrift st (Store.layPiece p pages len fuel off bs st) := by
  induction fuel generalizing off bs st with
  | zero => exact .refl _
  | succ n ih =>
    unfold Store.layPiece
    dsimp only
    split
    · exact .refl _
    · exact (StoreDrift.layLine _ _ _ _ _ _).trans (ih _ _ _)

theorem StoreDrift.discardLines (st : Store) (p : Port) : StoreDrift st (st.discardLines p) := .of rfl rfl

theorem StoreDrift.requestScrub (st : Store) (page : Page) (w : WordNo) : StoreDrift st (st.requestScrub page w).1 := by
  unfold Store.requestScrub
  split
  · exact .refl _
  · split
    · next h =>
      refine ⟨rfl, fun _ => ?_, id, id⟩
      simp only [List.length_append, List.length_singleton]
      unfold Config.scrubDepth at h; omega
    · exact .refl _

theorem StoreDrift.readTo (st : Store) (b : Binding) (hi : Nat) : StoreDrift st (st.readTo b hi) := .readLinks _ _

theorem StoreDrift.dropCue (st : Store) (k : PlayerNo) : StoreDrift st (st.dropCue k) := by
  unfold Store.dropCue
  split
  · exact .of rfl rfl
  · exact .refl _

theorem StoreDrift.dropFetch (st : Store) (p : Prog) : StoreDrift st (st.dropFetch p) := by
  unfold Store.dropFetch
  split
  · exact .of rfl rfl
  · exact .refl _

theorem StoreDrift.fetchReads (st : Store) (x : Option BlockSource) : StoreDrift st (st.fetchReads x) := by
  unfold Store.fetchReads
  split
  · exact .refl _
  · split
    · exact .refl _
    · exact .readTo _ _ _

/-- A lookup of the store's, taken into the state. -/
theorem Drift.lookup (s : State) (clip : Nat) (f : ClipKind → Bool) : Drift s (s.onStore fun _ => (s.store.lookup clip f).1) :=
  Drift.onStore (StoreDrift.lookup _ _ _)

theorem Drift.release (s : State) (n : EntryNo) : Drift s (s.onStore fun st => st.release n) := Drift.onStore (.release _ _)

theorem Drift.evict {s t : State} (h : s.evict = some t) : Drift s t := by
  unfold State.evict at h
  dsimp only at h
  split at h
  · cases h
  · cases h
    exact ((Drift.onStore (.searchMap _)).trans (Drift.onStore (.freeEntry _ _))).trans (.post _ _ _ _ _)

theorem Drift.completeLoad (s : State) (p : Port) : Drift s (s.completeLoad p) := by
  unfold State.completeLoad
  split
  · exact .refl _
  · dsimp only
    refine Drift.trans ?_ (.postTo _ _ _ _ _ _)
    refine Drift.trans ?_ (Drift.onStore (.setSlot _ _ _))
    refine Drift.trans (t := s.onStore _) (Drift.onStore ?_) (Drift.onStore ?_)
    · exact (StoreDrift.searchMap _).trans (by split <;> first | exact .refl _ | exact .retire _ _)
    · split
      · exact .refl _
      · exact .of rfl rfl

/-! ## Route Unit -/

theorem Drift.recomputeNext (s : State) : Drift s s.recomputeNext := .setNextStop _ _

theorem Drift.settleSegment (s : State) (i : SegNo) : Drift s (s.settleSegment i) := by
  unfold State.settleSegment
  split
  · split
    · exact (Drift.setSegment _ _ _).trans (.post _ _ _ _ _)
    · exact .refl _
  · exact .refl _

theorem Drift.reportItem (s : State) (i : SegNo) (o : ItemOutcome) : Drift s (s.reportItem i o) := by
  unfold State.reportItem
  split
  · split
    · exact (Drift.setSegment _ _ _).trans (.settleSegment _ _)
    · exact .refl _
  · exact .refl _

/-! ## Voices -/

theorem Quad.get_set {α : Type} (q : Quad α) (v w : Voice) (x : α) : (q.set v x).get w = if v = w then x else q.get w := by
  cases v <;> cases w <;> rfl

theorem MixDrift.voice {a : Mixer} {p : Prog} {v : Voice} {f : VoiceState → VoiceState}
    (h : ∀ x, (f x).d = x.d ∧ (f x).target = x.target) :
    MixDrift a { a with voices := a.voices.modify p fun q => q.set v (f (q.get v)) } :=
  { MixDrift.refl a with
    gains := fun g b => ⟨fun q w => by
      simp only [Tab.get_modify]
      split
      · rw [Quad.get_set]
        split
        · next e => subst e; rw [(h _).1, (h _).2]; exact g q v
        · exact g q w
      · exact g q w, b⟩ }

theorem Drift.onVoice (s : State) (p : Prog) (v : Voice) {f : VoiceState → VoiceState}
    (h : ∀ x, (f x).d = x.d ∧ (f x).target = x.target) : Drift s (s.onVoice p v f) := Drift.onMix (.voice h)

theorem Drift.unbind (s : State) (p : Prog) (v : Voice) : Drift s (s.onVoice p v VoiceState.unbind) :=
  .onVoice _ _ _ fun _ => ⟨rfl, rfl⟩

theorem Drift.bindTo (s : State) (p : Prog) (v : Voice) (b : Binding) (x : Bool) : Drift s (s.onVoice p v (VoiceState.bindTo b x)) :=
  .onVoice _ _ _ fun _ => ⟨rfl, rfl⟩

/-! ## Commentary Player -/

/-- One queue set to a list no longer than it may be. -/
theorem Drift.setQueue (s : State) (p : Prog) (q : List Item) (h : (s.queueOf p).length ≤ 4 → q.length ≤ 4) : Drift s (s.setQueue p q) :=
  Drift.onCom fun i hi => by
    simp only [Tab.get_set]
    split
    · next e => subst e; exact h hi
    · exact hi

theorem Drift.itemLeft (s : State) (p : Prog) (o : ItemOutcome) (x : Item) : Drift s (s.itemLeft p o x) := by
  unfold State.itemLeft
  dsimp only
  split
  · refine .of (.release _ _) ?_
    split
    · exact .unbind _ _ _
    · exact .refl _
  · refine .of (.reportItem _ _ _) (.of (.release _ _) ?_)
    split
    · exact .unbind _ _ _
    · exact .refl _

theorem Drift.removeItems (s : State) (p : Prog) (f : Item → Bool) (o : ItemOutcome) : Drift s (s.removeItems p f o) := by
  unfold State.removeItems
  refine Drift.trans (.setQueue _ _ _ fun h => ?_) (.foldl _ (fun s x => .itemLeft s p o x) _ _)
  exact (List.length_filter_le _ _).trans h

theorem Drift.emptyQueue (s : State) (p : Prog) : Drift s (s.emptyQueue p) := .removeItems _ _ _ _

theorem Drift.emptyQueues (s : State) : Drift s s.emptyQueues := .foldl _ .emptyQueue _ _

theorem Drift.cancelWaiting (s : State) (d : Nat) (orphan : Bool) : Drift s (s.cancelWaiting d orphan) := by
  unfold State.cancelWaiting
  dsimp only
  refine Drift.trans (.foldl _ (fun s p => .removeItems s p _ _) _ _) (Drift.onCom fun p h => ?_)
  simpa using h

theorem Drift.lateTest (s : State) (d : Nat) : Drift s (s.lateTest d) := .foldl _ (fun s p => .removeItems s p _ _) _ _

theorem Drift.itemDone (s : State) (p : Prog) : Drift s (s.itemDone p) := by
  unfold State.itemDone
  split
  · next x rest h =>
    split
    · refine Drift.trans (.setQueue _ _ _ fun hl => ?_) (.itemLeft _ _ _ _)
      rw [h, List.length_cons] at hl; omega
    · exact .refl _
  · exact .refl _

theorem insertItem_length (x : Item) (q : List Item) : (insertItem x q).length = q.length + 1 := by
  induction q with
  | nil => rfl
  | cons y ys ih => simp only [insertItem]; split <;> simp [ih]

theorem State.itemLeft_com (s : State) (p : Prog) (o : ItemOutcome) (x : Item) : (s.itemLeft p o x).com = s.com := by
  unfold State.itemLeft State.reportItem State.settleSegment State.setSegment State.touch State.post
  dsimp only
  repeat' split
  all_goals rfl

theorem Drift.placeItem (s : State) (p : Prog) (x : Item) : Drift s (s.placeItem p x).1 := by
  unfold State.placeItem
  dsimp only
  split
  · next h =>
    refine .setQueue _ _ _ fun _ => ?_
    rw [insertItem_length]
    unfold Config.commentaryDepth at h; omega
  · split
    · next y hy =>
      have hm : y ∈ s.queueOf p := List.mem_of_find?_eq_some hy
      have hl := List.length_erase_of_mem hm
      have hp := List.length_pos_of_mem hm
      have h0 : Drift s ((s.setQueue p ((s.queueOf p).erase y)).itemLeft p .droppedFull y) :=
        Drift.trans (.setQueue _ _ _ fun h => by omega) (.itemLeft _ _ _ _)
      have hq : (((s.setQueue p ((s.queueOf p).erase y)).itemLeft p .droppedFull y).com.queues.get p) = (s.queueOf p).erase y := by
        rw [State.itemLeft_com]; simp [State.setQueue]
      -- the queue is one shorter than it was, so one longer again is no longer than before
      refine ⟨{ h0.toGlide with
        record := fun q r hr e => (State.recordBytes_congr r rfl rfl rfl rfl rfl rfl rfl).trans (h0.record q r hr e)
        caps := fun c => { h0.caps c with commentary := fun q => ?_ }
        audio := fun a => ⟨(h0.audio a).gains, (h0.audio a).blocks, (h0.audio a).out⟩
        seats := fun a => ⟨(h0.seats a).count, (h0.seats a).holdoff, (h0.seats a).pointer, (h0.seats a).disabled, (h0.seats a).selection⟩
        activity := h0.activity }, h0.cursor⟩
      show ((Tab.modify _ p fun q => insertItem x q).get q).length ≤ 4
      rw [Tab.get_modify]
      split
      · next e =>
        subst e
        rw [hq, insertItem_length]
        have := c.commentary p
        omega
      · exact (h0.caps c).commentary q
    · exact .release _ _

theorem Drift.startItem (s : State) (p : Prog) (x : Item) (rest : List Item) (h : (s.queueOf p).length ≤ 4 → rest.length + 1 ≤ 4) :
    Drift s (s.startItem p x rest) := by
  unfold State.startItem
  dsimp only
  split
  · exact .of (.bindTo _ _ _ _ _) (.setQueue _ _ _ h)
  · exact .of (.post _ _ _ _ _) (.of (Drift.onCom fun _ => id) (.of (.bindTo _ _ _ _ _) (.setQueue _ _ _ h)))

theorem Drift.settleCommentary (s : State) (p : Prog) : Drift s (s.settleCommentary p) := by
  unfold State.settleCommentary
  split
  · exact .refl _
  · next x rest h =>
    split
    · dsimp only
      exact Drift.trans (.setQueue _ _ _ fun hl => by rw [h] at hl; exact hl) (.onVoice _ _ _ fun _ => ⟨rfl, rfl⟩)
    · refine Drift.ite (.refl _) (.startItem _ _ _ _ fun hl => by rw [h] at hl; exact hl)

end Sys2Proof.Machine
end

