-- ==== Sys2Proof/Laws/DriftSeat.lean ====
section
/-! SUPPORT. The Seat Link's operations are drifts. -/

namespace Sys2Proof.Machine

/-- A change that leaves everything but the ports and the Seat Link, and of these the commands, the reservations and the seats. -/
structure SeatMove (s t : State) : Prop where
  rest : t = { s with ports := t.ports, seat := t.seat }
  ports : ∀ p, PortDrift (s.ports.get p) (t.ports.get p)
  seats : t.seat.seats = s.seat.seats
  count : t.seat.count = s.seat.count
  holdoff : t.seat.holdoff = s.seat.holdoff
  pointer : t.seat.pointer = s.seat.pointer

theorem SeatMove.refl (s : State) : SeatMove s s := ⟨rfl, fun _ => .refl _, rfl, rfl, rfl, rfl⟩

theorem SeatMove.trans {s t u : State} (h : SeatMove s t) (k : SeatMove t u) : SeatMove s u where
  rest := by rw [k.rest, h.rest]
  ports p := (h.ports p).trans (k.ports p)
  seats := k.seats.trans h.seats
  count := k.count.trans h.count
  holdoff := k.holdoff.trans h.holdoff
  pointer := k.pointer.trans h.pointer

theorem SeatMove.foldl {γ : Type} (f : State → γ → State) (h : ∀ s x, SeatMove s (f s x)) (l : List γ) (s : State) :
    SeatMove s (l.foldl f s) := by
  induction l generalizing s with
  | nil => exact .refl s
  | cons x l ih => exact (h s x).trans (ih _)

theorem SeatMove.progOn {s t : State} (h : SeatMove s t) (p : Prog) : t.progOn p = s.progOn p := by rw [h.rest]; rfl

theorem SeatMove.count127 {s t : State} (h : SeatMove s t) (p : Prog) : t.seat.count127 p = s.seat.count127 p := by
  unfold SeatLink.count127; rw [h.seats]

theorem SeatMove.post (s : State) (k : EventKind) (a b c : Nat) : SeatMove s (s.post k a b c) :=
  ⟨rfl, (Drift.post s k a b c).ports, rfl, rfl, rfl, rfl⟩

theorem SeatMove.setHold (s : State) (p : Prog) (t : Option Count32) : SeatMove s (s.setHold p t) :=
  ⟨rfl, fun _ => .refl _, rfl, rfl, rfl, rfl⟩

theorem SeatMove.setAct (s : State) (p : Prog) (a : Option Activity) : SeatMove s (s.setAct p a) :=
  ⟨rfl, fun _ => .refl _, rfl, rfl, rfl, rfl⟩

theorem SeatMove.decide128 (s : State) (p : Prog) (a : Activity) : SeatMove s (s.decide128 p a) :=
  (SeatMove.setAct s p _).trans (.post _ _ _ _ _)

theorem SeatMove.expireHold (s : State) (p : Prog) : SeatMove s (s.expireHold p) := (SeatMove.setHold s p none).trans (.decide128 _ _ _)

theorem SeatMove.startHold (s : State) (p : Prog) : SeatMove s (s.startHold p) := by
  unfold State.startHold
  dsimp only
  split
  · exact (SeatMove.setHold _ _ _).trans (.expireHold _ _)
  · exact .setHold _ _ _

theorem SeatMove.recountOne (s : State) (p : Prog) : SeatMove s (s.recountOne p) := by
  have h : SeatMove s (s.onSeat fun k => { k with occ := k.occ.set p (s.seat.count127 p) }) :=
    ⟨rfl, fun _ => .refl _, rfl, rfl, rfl, rfl⟩
  unfold State.recountOne
  dsimp only
  refine h.trans ?_
  repeat' split
  · exact .refl _
  · exact .startHold _ _
  · exact (SeatMove.setHold _ _ _).trans (.decide128 _ _ _)
  · exact .setHold _ _ _
  · exact .refl _

theorem SeatMove.recount (s : State) : SeatMove s s.recount := .foldl _ .recountOne _ _

theorem SeatMove.expireDue (s : State) : SeatMove s s.expireDue :=
  .foldl _ (fun s p => by
    split
    · exact .expireHold _ _
    · exact .refl _) _ _

/-- What the Seat Link keeps for a programme is the same in two states. -/
def sameDecision (s t : State) (p : Prog) : Prop :=
  t.seat.occ.get p = s.seat.occ.get p ∧ t.seat.act.get p = s.seat.act.get p ∧ t.seat.hold.get p = s.seat.hold.get p

theorem decisionAgrees.congr {s t : State} {p : Prog} (h : sameDecision s t p) (ho : t.progOn p = s.progOn p)
    (k : decisionAgrees s p) : decisionAgrees t p := by
  unfold decisionAgrees at *
  rw [h.1, h.2.1, h.2.2, ho]; exact k

@[simp] theorem State.setHold_seat (s : State) (p : Prog) (t : Option Count32) :
    (s.setHold p t).seat = { s.seat with hold := s.seat.hold.set p t } := rfl

@[simp] theorem State.decide128_seat (s : State) (p : Prog) (a : Activity) :
    (s.decide128 p a).seat = { s.seat with act := s.seat.act.set p (some a) } := rfl

/-- A holdoff that starts, by the fields it changes (R128). -/
theorem State.startHold_seat (s : State) (p : Prog) :
    (s.startHold p).seat = if s.seat.holdoff = 0 then
        { s.seat with hold := s.seat.hold.set p none, act := s.seat.act.set p (some .dormant) }
      else { s.seat with hold := s.seat.hold.set p (some s.ctl.time) } := by
  unfold State.startHold
  dsimp only
  by_cases h : s.seat.holdoff = 0
  · rw [if_pos (show (s.setHold p (some s.ctl.time)).seat.holdoff = 0 from h), if_pos h]
    simp [State.expireHold]
  · rw [if_neg (show ¬ (s.setHold p (some s.ctl.time)).seat.holdoff = 0 from h), if_neg h]
    rfl

/-- A count afresh, by the fields of the Seat Link it changes (R127, R128). -/
theorem State.recountOne_seat (s : State) (p : Prog) :
    (s.recountOne p).seat =
      let k := { s.seat with occ := s.seat.occ.set p (s.seat.count127 p) }
      if s.progOn p = true then
        if 0 < s.seat.occ.get p ∧ s.seat.count127 p = 0 then
          if s.seat.holdoff = 0 then { k with hold := k.hold.set p none, act := k.act.set p (some .dormant) }
          else { k with hold := k.hold.set p (some s.ctl.time) }
        else if s.seat.occ.get p = 0 ∧ 0 < s.seat.count127 p then
          if s.seat.act.get p = some .dormant then { k with hold := k.hold.set p none, act := k.act.set p (some .awake) }
          else { k with hold := k.hold.set p none }
        else k
      else k := by
  unfold State.recountOne
  dsimp only
  by_cases hon : s.progOn p = true
  · rw [if_neg (show ¬ ((!(s.onSeat _).progOn p) = true) by
      show ¬ ((!s.progOn p) = true); simp [hon]), if_pos hon]
    split
    · rw [State.startHold_seat]; rfl
    · split
      · show State.seat (if s.seat.act.get p = some .dormant then _ else _) = _
        split <;> rfl
      · rfl
  · rw [if_pos (show ((!(s.onSeat _).progOn p) = true) by
      show ((!s.progOn p) = true); simp [hon]), if_neg hon]
    rfl

/-- A count afresh changes what is kept for its own programme only. -/
theorem recountOne_other (s : State) {p q : Prog} (h : p ≠ q) : sameDecision s (s.recountOne p) q := by
  unfold sameDecision
  rw [State.recountOne_seat]
  dsimp only
  repeat' split
  all_goals simp [h]

/-- A count afresh makes a programme's occupancy and decision agree with the seat table. -/
theorem recountOne_self (s : State) {p : Prog} (h : decisionAgrees s p) : activityAgrees (s.recountOne p) p := by
  have hm := SeatMove.recountOne s p
  have ho : (s.recountOne p).seat.occ.get p = s.seat.count127 p := by
    rw [State.recountOne_seat]
    dsimp only
    repeat' split
    all_goals simp
  refine ⟨ho.trans (hm.count127 p).symm, ?_⟩
  unfold decisionAgrees
  rw [hm.progOn, ho, State.recountOne_seat]
  unfold decisionAgrees at h
  dsimp only
  by_cases hon : s.progOn p = true
  · rw [if_pos hon] at h ⊢
    rw [if_pos hon]
    by_cases h1 : 0 < s.seat.occ.get p <;> by_cases h2 : 0 < s.seat.count127 p
    · rw [if_pos h1] at h
      rw [if_pos h2, if_neg (show ¬ (0 < s.seat.occ.get p ∧ s.seat.count127 p = 0) by omega),
        if_neg (show ¬ (s.seat.occ.get p = 0 ∧ 0 < s.seat.count127 p) by omega)]
      exact h
    · have h3 : s.seat.count127 p = 0 := by omega
      rw [if_pos h1] at h
      rw [if_neg h2, if_pos (show 0 < s.seat.occ.get p ∧ s.seat.count127 p = 0 from ⟨h1, h3⟩)]
      split <;> simp [h.1]
    · have h3 : s.seat.occ.get p = 0 := by omega
      rw [if_neg h1] at h
      rw [if_pos h2, if_neg (show ¬ (0 < s.seat.occ.get p ∧ s.seat.count127 p = 0) by omega),
        if_pos (show s.seat.occ.get p = 0 ∧ 0 < s.seat.count127 p from ⟨h3, h2⟩)]
      split
      · simp
      · next hd =>
        split at h
        · simp [h]
        · exact absurd h hd
    · rw [if_neg h1] at h
      rw [if_neg h2, if_neg (show ¬ (0 < s.seat.occ.get p ∧ s.seat.count127 p = 0) by omega),
        if_neg (show ¬ (s.seat.occ.get p = 0 ∧ 0 < s.seat.count127 p) by omega)]
      exact h
  · rw [if_neg hon] at h ⊢
    rw [if_neg hon]
    exact h

theorem recount_agrees_of (l : List Prog) (hl : l.Nodup) (s : State) (p : Prog) (hp : p ∈ l) (h : decisionAgrees s p) :
    activityAgrees (l.foldl State.recountOne s) p := by
  induction l generalizing s with
  | nil => cases hp
  | cons q l ih =>
    rw [List.nodup_cons] at hl
    by_cases e : p = q
    · subst e
      have key : ∀ (l : List Prog) (u : State), p ∉ l → activityAgrees u p → activityAgrees (l.foldl State.recountOne u) p := by
        intro l
        induction l with
        | nil => exact fun _ _ h => h
        | cons r l ih' =>
          intro u hn hu
          rw [List.mem_cons, not_or] at hn
          have hs := recountOne_other u (Ne.symm hn.1)
          have hm := SeatMove.recountOne u r
          exact ih' _ hn.2 ⟨by rw [hs.1, hm.count127]; exact hu.1, decisionAgrees.congr hs (hm.progOn p) hu.2⟩
      exact key l _ hl.1 (recountOne_self s h)
    · exact ih hl.2 _ ((List.mem_cons.1 hp).resolve_left e)
        (decisionAgrees.congr (recountOne_other s (Ne.symm e)) ((SeatMove.recountOne s q).progOn p) h)

theorem mem_langProgs {p : Prog} (h : p ≠ 0) : p ∈ langProgs := by revert h; revert p; decide

/-- R127, R128: after a count afresh every language programme agrees with the seat table. -/
theorem recount_agrees (s : State) {p : Prog} (h : p ≠ 0) (hd : decisionAgrees s p) : activityAgrees s.recount p :=
  recount_agrees_of langProgs (by decide) s p (mem_langProgs h) hd

/-- A change of the Seat Link that is a drift. -/
theorem Drift.ofSeat {s t : State} (hr : t = { s with ports := t.ports, seat := t.seat })
    (hp : ∀ p, PortDrift (s.ports.get p) (t.ports.get p)) (hc : t.seat.count = s.seat.count) (hh : t.seat.holdoff = s.seat.holdoff)
    (hm : (∀ i, (s.seat.seats.get i).misses ≤ 3) → ∀ i, (t.seat.seats.get i).misses ≤ 3)
    (hs : SeatsConfigured s → SeatsConfigured t) (ha : ∀ p, p ≠ 0 → activityAgrees s p → activityAgrees t p) : Drift s t := by
  obtain ⟨seat, hseat⟩ : ∃ x, x = t.seat := ⟨_, rfl⟩
  obtain ⟨ports, hports⟩ : ∃ x, x = t.ports := ⟨_, rfl⟩
  rw [← hseat, ← hports] at hr
  subst hr
  exact ⟨{ Glide.refl s with
    ports := hp, count := hc, holdoff := hh
    record := fun _ r _ _ => State.recordBytes_congr r rfl rfl rfl rfl rfl hc hh
    caps := fun c => { c with events := fun p => (hp p).queue (c.events p), misses := hm c.misses }
    audio := fun a => ⟨a.gains, a.blocks, a.out⟩
    seats := hs
    activity := ha }, rfl, rfl, rfl⟩

theorem SeatMove.configured {s t : State} (h : SeatMove s t) (c : SeatsConfigured s) : SeatsConfigured t where
  count := h.count ▸ c.count
  holdoff := h.holdoff ▸ c.holdoff
  pointer := by rw [h.pointer, h.count]; exact c.pointer
  disabled := by rw [h.seats, h.count]; exact c.disabled
  selection := by rw [h.seats]; exact c.selection

theorem SeatMove.drift {s t : State} (h : SeatMove s t) (ha : ∀ p, p ≠ 0 → activityAgrees s p → activityAgrees t p) : Drift s t :=
  .ofSeat h.rest h.ports h.count h.holdoff (by rw [h.seats]; exact id) h.configured ha

theorem Drift.recount (s : State) : Drift s s.recount := (SeatMove.recount s).drift fun _ hp h => recount_agrees s hp h.2

/-- A running holdoff that expires: the decision becomes DORMANT. -/
theorem expireHold_agrees (s : State) (p q : Prog) (hd : (s.seat.hold.get p).isSome) (h : activityAgrees s q) :
    activityAgrees (s.expireHold p) q := by
  have hm := SeatMove.expireHold s p
  refine ⟨?_, ?_⟩
  · rw [hm.count127, ← h.1]; rfl
  · have h2 := h.2
    unfold decisionAgrees at *
    rw [hm.progOn]
    unfold State.expireHold State.decide128 State.setHold State.setAct
    simp only [State.post, State.onPorts_seat, State.onSeat_seat, Tab.get_set]
    by_cases e : p = q
    · subst e
      obtain ⟨x, hx⟩ := Option.isSome_iff_exists.1 hd
      split at h2
      · split at h2
        · simp_all
        · simp_all
      · simp_all
    · simp only [if_neg e]; exact h2

theorem Drift.expireHold (s : State) (p : Prog) (h : (s.seat.hold.get p).isSome) : Drift s (s.expireHold p) :=
  (SeatMove.expireHold s p).drift fun q _ => expireHold_agrees s p q h

theorem State.holdDue_isSome {s : State} {p : Prog} (h : s.holdDue p = true) : (s.seat.hold.get p).isSome := by
  unfold State.holdDue at h
  split at h
  · next e => rw [e]; rfl
  · cases h

theorem Drift.expireDue (s : State) : Drift s s.expireDue :=
  .foldl _ (fun s p => by
    split
    · next h => exact .expireHold _ _ (State.holdDue_isSome h)
    · exact .refl _) _ _

/-! ## Seats -/

/-- A seat set whose state and selection stay within R119, R120 and R122, with the counts taken afresh. -/
theorem Drift.seatsRecount (s : State) {f : SeatLink → SeatLink} (ho : (f s.seat).occ = s.seat.occ) (hact : (f s.seat).act = s.seat.act)
    (hold : (f s.seat).hold = s.seat.hold) (hc : (f s.seat).count = s.seat.count) (hh : (f s.seat).holdoff = s.seat.holdoff)
    (hm : (∀ i, (s.seat.seats.get i).misses ≤ 3) → ∀ i, ((f s.seat).seats.get i).misses ≤ 3)
    (hs : SeatsConfigured s → SeatsConfigured (s.onSeat f)) : Drift s (s.onSeat f).recount := by
  have k := SeatMove.recount (s.onSeat f)
  refine .ofSeat k.rest k.ports (k.count.trans hc) (k.holdoff.trans hh) (fun h => ?_) (fun h => k.configured (hs h)) fun p hp h => ?_
  · rw [k.seats]; exact hm h
  · refine recount_agrees _ hp (decisionAgrees.congr (s := s) ⟨?_, ?_, ?_⟩ rfl h.2)
    · rw [State.onSeat_seat, ho]
    · rw [State.onSeat_seat, hact]
    · rw [State.onSeat_seat, hold]

theorem Drift.seatStandby (s : State) : Drift s s.seatStandby := by
  unfold State.seatStandby
  refine .seatsRecount s rfl rfl rfl rfl rfl (fun h i => ?_) fun c => ?_
  · simp only [Tab.get_map]
    have := h i
    show (if _ then _ else _ : Seat).misses ≤ 3
    split
    · exact this
    · exact Nat.zero_le _
  · have hd : ∀ i, ((Tab.map (fun (x : Seat) => if x.state = .disabled then x
        else { x with state := .unknown, misses := 0, nodeFault := false, lastChange := s.ctl.time }) s.seat.seats).get i).state = .disabled ↔
        (s.seat.seats.get i).state = .disabled := by
      intro i
      rw [Tab.get_map]
      split <;> simp_all
    refine ⟨c.count, c.holdoff, c.pointer, fun i => (hd i).trans (c.disabled i), fun i => ?_⟩
    show ((Tab.map (fun (x : Seat) => if x.state = .disabled then x
        else { x with state := .unknown, misses := 0, nodeFault := false, lastChange := s.ctl.time }) s.seat.seats).get i).selection ≤ 12
    rw [Tab.get_map]
    split <;> exact c.selection i

theorem Drift.seatRestartPolling (s : State) : Drift s s.seatRestartPolling :=
  Drift.onSeat rfl rfl (fun c => c.misses) (fun c => ⟨c.count, c.holdoff, Nat.lt_of_lt_of_le Nat.zero_lt_one c.count.1, c.disabled, c.selection⟩)
    fun _ _ => id

end Sys2Proof.Machine
end

