-- ==== Sys2Proof/Laws/DriftBlocks.lean ====
section
/-! SUPPORT. The operations of the Deck Light Engine, the beds, Operating Control, the Announcement Controller and the Fault Recorder are
drifts. -/

namespace Sys2Proof.Machine

/-! ## Deck Light Engine -/

theorem Drift.setPlayer (s : State) (k : PlayerNo) (x : Option Player) : Drift s (s.setPlayer k x) :=
  Drift.onLight rfl rfl rfl rfl rfl rfl rfl

theorem Drift.cueFetch (s : State) (k : PlayerNo) (q : Player) (lo hi : Nat) : Drift s (s.cueFetch k q lo hi) :=
  .of (.setPlayer _ _ _) (Drift.onStore (.readTo _ _ _))

theorem Drift.playerStop (s : State) (k : PlayerNo) : Drift s (s.playerStop k) := by
  unfold State.playerStop
  split
  · exact .refl _
  · exact .of (Drift.onStore ((StoreDrift.dropCue _ _).trans (.release _ _))) (.setPlayer _ _ _)

theorem Drift.stopPlayers (s : State) : Drift s s.stopPlayers :=
  .of (.playerStop _ _) (.of (.playerStop _ _) (.playerStop _ _))

theorem Drift.playerStart (s : State) (k : PlayerNo) (clip : Nat) : Drift s (s.playerStart k clip).1 := by
  unfold State.playerStart
  dsimp only
  split
  · exact .of (.post _ _ _ _ _) (.of (.lookup _ _ _) (.playerStop _ _))
  · exact .of (.cueFetch _ _ _ _ _) (.of (.lookup _ _ _) (.playerStop _ _))

theorem Drift.cueRequest (s : State) (k : PlayerNo) (clip : Option Nat) : Drift s (s.cueRequest k clip) := by
  unfold State.cueRequest
  split
  · exact .refl _
  · exact .ite (.playerStart _ _ _) (.refl _)

theorem Drift.endStopCue (s : State) : Drift s s.endStopCue := .of (.setLayer _ _ _) (.playerStop _ _)

theorem Drift.applyKeyframe (s : State) (k : PlayerNo) (q : Player) (n : Nat) (x : Keyframe) : Drift s (s.applyKeyframe k q n x) := by
  unfold State.applyKeyframe
  dsimp only
  split
  · exact .of (.cueFetch _ _ _ _ _) (.setLayer _ _ _)
  · exact .of (.setPlayer _ _ _) (.setLayer _ _ _)

theorem Drift.fadeStep (s : State) (k : PlayerNo) : Drift s (s.fadeStep k) := by
  unfold State.fadeStep
  split
  · exact .refl _
  · split
    · exact .refl _
    · split
      · exact .refl _
      · exact .of (.setPlayer _ _ _) (.setLayer _ _ _)

theorem Drift.endStep (s : State) (k : PlayerNo) (was : Bool) : Drift s (s.endStep k was) := by
  unfold State.endStep
  split
  · exact .refl _
  · split
    · split
      · exact .cueFetch _ _ _ _ _
      · exact .of (.post _ _ _ _ _) (.playerStop _ _)
    · exact .setPlayer _ _ _

theorem Drift.playerStep (s : State) (k : PlayerNo) : Drift s (s.playerStep k) := by
  unfold State.playerStep
  split
  · exact .refl _
  · dsimp only
    refine .of (.endStep _ _ _) (.of (.fadeStep _ _) ?_)
    split
    · exact .applyKeyframe _ _ _ _ _
    · exact .refl _

/-! ## Beds -/

theorem Drift.bedRelease (s : State) (p : Prog) : Drift s (s.bedRelease p) := by
  unfold State.bedRelease
  split
  · exact .refl _
  · exact .of (.release _ _) (.unbind _ _ _)

theorem Drift.releaseBeds (s : State) : Drift s s.releaseBeds := .foldl _ .bedRelease _ _

theorem Drift.bedLookup (s : State) (p : Prog) : Drift s (s.bedLookup p) := by
  unfold State.bedLookup
  split
  · split
    · exact .refl _
    · dsimp only
      split
      · exact .lookup _ _ _
      · exact .of (.bindTo _ _ _ _ _) (.lookup _ _ _)
  · exact .refl _

theorem Drift.bedSettle (s : State) (p : Prog) : Drift s (s.bedSettle p) := by
  unfold State.bedSettle
  refine .of (.bedLookup _ _) ?_
  split
  · exact .ite (.refl _) (.bedRelease _ _)
  · exact .refl _

/-! ## Operating Control -/

theorem Drift.changeOp (s : State) (new : OpState) (cause : StateCause) (h : s.ctl.op = .fallback → new = .fallback) :
    Drift s (s.changeOp new cause) := .of (.post _ _ _ _ _) (Drift.onCtl rfl rfl h)

theorem Drift.setParkHold (s : State) (h : Option ParkHold) : Drift s (s.setParkHold h) := Drift.onCtl rfl rfl id

theorem Drift.enterStandby (s : State) (h : s.ctl.op ≠ .fallback) : Drift s s.enterStandby :=
  .of (.stopPlayers _) (.of (.seatStandby _) (.of (.releaseBeds _) (.of (.emptyQueues _) (.changeOp _ _ _ fun e => absurd e h))))

theorem Drift.quietCheck (s : State) : Drift s s.quietCheck := by
  unfold State.quietCheck
  split
  · next h => exact .enterStandby _ (by rw [h.1]; decide)
  · exact .refl _

theorem Drift.enterPark (s : State) (hold : ParkHold) (cause : StateCause) (h : s.ctl.op ≠ .fallback) : Drift s (s.enterPark hold cause) :=
  .of (.quietCheck _) (.of (.setParkHold _ _) (.changeOp _ _ _ fun e => absurd e h))

theorem Drift.leavePark (s : State) (cause : StateCause) (h : s.ctl.op ≠ .fallback) : Drift s (s.leavePark cause) := by
  unfold State.leavePark
  dsimp only
  refine .ite (.of (.seatRestartPolling _) ?_) ?_ <;> exact .of (.setParkHold _ _) (.changeOp _ _ _ fun e => absurd e h)

/-! ## Announcement Controller -/

/-- A change of the controller that keeps its live channels, its queue and the item of its current announcement. -/
theorem Drift.onAnn' {s : State} {f : Announcer → Announcer} (hl : (f s.ann).live = s.ann.live)
    (hq : (f s.ann).queue = s.ann.queue) (hc : (f s.ann).current = s.ann.current) : Drift s (s.onAnn f) :=
  Drift.onAnn hl (fun h => hq ▸ h) fun _ x h => by rw [hc] at h; exact h

theorem Drift.takeNumber (s : State) : Drift s s.takeNumber.1 :=
  Drift.onAnn' (s := s) (f := fun a => { a with nextNumber := nextFree a.used 10 s.ann.nextNumber }) rfl rfl rfl

theorem Drift.setAnnQueue (s : State) (q : List AnnItem) (h : s.ann.queue.length ≤ 8 → q.length ≤ 8) : Drift s (s.setAnnQueue q) :=
  Drift.onAnn rfl h fun _ _ e => e

theorem Drift.postDropped (r : DropReason) (s : State) (x : AnnItem) : Drift s (s.postDropped r x) := .post _ _ _ _ _

theorem Drift.dropItems (s : State) (f : AnnItem → Bool) (r : DropReason) : Drift s (s.dropItems f r) :=
  .of (.foldl _ (.postDropped r) _ _) (.setAnnQueue _ _ fun h => (List.length_filter_le _ _).trans h)

theorem Drift.onCurrent (s : State) {f : Current → Current} (h : ∀ c, (f c).item = c.item) : Drift s (s.onCurrent f) :=
  Drift.onAnn rfl id fun _ x e => by
    revert e
    show Option.map _ (Option.map f s.ann.current) = some x → _
    cases s.ann.current with
    | none => exact id
    | some c => rw [Option.map_some, Option.map_some, h c, Option.map_some]; exact id

theorem Drift.onAnnVoice (s : State) (p : Prog) (f : AnnVoice → AnnVoice) : Drift s (s.onAnnVoice p f) := .onCurrent _ fun _ => rfl

theorem Drift.findClip (s : State) (clip : Nat) : Drift s (s.findClip clip).1 := .lookup _ _ _

theorem Drift.findChime (chime : Option Nat) (x : State × Tab AnnVoice 13) (p : Prog) : Drift x.1 (findChime chime x p).1 := by
  unfold Machine.findChime
  split
  · exact .refl _
  · split
    · exact .findClip _ _
    · exact .refl _

theorem Drift.findSpeech (s : State) (item : AnnItem) (lang : Nat) : Drift s (s.findSpeech item lang).1 := by
  unfold State.findSpeech
  split
  · next s' b h =>
    have h' : Drift s s' := by
      split at h
      · have := Drift.findClip s
        next y _ => have := this y.2; rw [h] at this; exact this
      · cases h; exact .refl _
    split
    · exact .of (.findClip _ _) h'
    · exact h'

theorem Drift.findSpeechFor (item : AnnItem) (x : State × Tab AnnVoice 13) (p : Prog) : Drift x.1 (findSpeechFor item x p).1 := by
  unfold Machine.findSpeechFor
  split
  · exact .findSpeech _ _ _
  · exact .refl _

theorem Drift.findPa (x : State × Tab AnnVoice 13) (clip : Nat) : Drift x.1 (findPa x clip).1 := .findClip _ _

theorem Drift.foldlPair {γ β : Type} (f : State × β → γ → State × β) (h : ∀ x y, Drift x.1 (f x y).1) (l : List γ) (x : State × β) :
    Drift x.1 (l.foldl f x).1 := by
  induction l generalizing x with
  | nil => exact .refl _
  | cons y l ih => exact (h x y).trans (ih _)

theorem Drift.chooseClips (s : State) (item : AnnItem) : Drift s (s.chooseClips item).1 :=
  .of (.foldlPair _ .findPa _ _) (.of (.foldlPair _ (.findSpeechFor item) _ _) (.foldlPair _ (.findChime item.chime) _ (s, _)))

theorem Drift.setDucker (s : State) (b : Bool) : Drift s (s.setDucker b) := .ite (.refl _) (Drift.onAnn' rfl rfl rfl)

theorem Drift.setWindow (s : State) (b : Bool) : Drift s (s.setWindow b) := Drift.onCom fun _ => id

theorem Drift.bindAnn (s : State) (p : Prog) (b : Option Binding) : Drift s (s.bindAnn p b) := by
  unfold State.bindAnn
  split
  · exact .bindTo _ _ _ _ _
  · exact .refl _

theorem Drift.leadIn (s : State) (item : AnnItem) (voices : Tab AnnVoice 13) : Drift s (s.leadIn item voices) :=
  .of (.setWindow _ _) (.of (.cueRequest _ _ _) (.of (.foldl _ (fun _ _ => .bindAnn _ _ _) _ _) (.setDucker _ _)))

/-- An announcement may become current only while DRIVER is OFF (R83). -/
theorem Drift.startCurrent (s : State) (item : AnnItem) (h : s.ann.live.driver.isNone = true) : Drift s (s.startCurrent item) := by
  unfold State.startCurrent
  rcases hu : State.chooseClips item (s.post .announceStarted item.number (annKindCode item.kind) item.stopIndex) with ⟨u, voices⟩
  have h1 : Drift s u := by
    have := Drift.chooseClips (s.post .announceStarted item.number (annKindCode item.kind) item.stopIndex) item
    rw [hu] at this
    exact .of this (.post _ _ _ _ _)
  dsimp only
  rw [hu]
  refine .of (.leadIn _ _ _) (.of (Drift.onAnn rfl id fun hd => ?_) h1)
  rw [h1.live] at hd
  cases e : s.ann.live.driver
  · rw [e] at hd; cases hd
  · rw [e] at h; cases h

theorem State.headMayStart_driver {s : State} {x : AnnItem} (h : s.headMayStart x = true) : s.ann.live.driver.isNone = true := by
  unfold State.headMayStart at h
  exact (Bool.and_eq_true_iff.1 h).1

theorem Drift.tryStart (s : State) : Drift s s.tryStart := by
  unfold State.tryStart
  split
  · next x rest _ hq =>
    split
    · next h =>
      refine .of (.startCurrent _ _ (State.headMayStart_driver h)) (.setAnnQueue _ _ fun hl => ?_)
      rw [hq, List.length_cons] at hl; omega
    · exact .refl _
  · exact .refl _

theorem Drift.releaseUses {γ : Type} (f : γ → EntryNo) (l : List γ) (s : State) :
    Drift s (l.foldl (fun s b => s.onStore fun st => st.release (f b)) s) := .foldl _ (fun _ _ => .release _ _) _ _

theorem Drift.releaseAnn (s : State) (p : Prog) : Drift s (s.releaseAnn p) := by
  unfold State.releaseAnn
  split
  · exact .refl _
  · exact .of (.onAnnVoice _ _ _) (.of (.unbind _ _ _) (.releaseUses _ _ _))

theorem Drift.closeCurrent (s : State) (tail : Bool) : Drift s (s.closeCurrent tail) := by
  unfold State.closeCurrent
  split
  · exact .refl _
  · refine .of (Drift.onAnn rfl id fun _ _ e => by cases e) ?_
    have h := Drift.of (Drift.endStopCue _) (Drift.foldl _ Drift.releaseAnn allProgs s)
    split
    · exact .of (.setWindow _ _) (.of (.post _ _ _ _ _) h)
    · exact .of (.post _ _ _ _ _) h

theorem State.playerStop_ann (s : State) (k : PlayerNo) : (s.playerStop k).ann = s.ann := by
  unfold State.playerStop
  split <;> rfl

theorem State.setLayer_ann (s : State) (l : LayerNo) (x : Layer) : (s.setLayer l x).ann = s.ann := by
  unfold State.setLayer
  split <;> rfl

theorem State.releaseAnn_queue (s : State) (p : Prog) : (s.releaseAnn p).ann.queue = s.ann.queue := by
  have key : ∀ (l : List Binding) (u : State), (l.foldl (fun s b => s.onStore fun st => st.release b.entry) u).ann = u.ann := by
    intro l
    induction l with
    | nil => exact fun _ => rfl
    | cons b l ih => exact fun u => ih _
  unfold State.releaseAnn
  split
  · rfl
  · next c _ =>
    have h := congrArg Announcer.queue (key ((c.voices.get p).chime.toList ++ (c.voices.get p).speech) s)
    exact h

theorem State.closeCurrent_queue (s : State) (tail : Bool) : (s.closeCurrent tail).ann.queue = s.ann.queue := by
  have key : ∀ (l : List Prog) (u : State), (l.foldl State.releaseAnn u).ann.queue = u.ann.queue := by
    intro l
    induction l with
    | nil => exact fun _ => rfl
    | cons b l ih => exact fun u => (ih _).trans (State.releaseAnn_queue _ _)
  have h2 : (State.endStopCue (allProgs.foldl State.releaseAnn s)).ann.queue = s.ann.queue := by
    unfold State.endStopCue
    dsimp only
    rw [State.setLayer_ann, State.playerStop_ann]
    exact key _ _
  unfold State.closeCurrent
  split
  · rfl
  · dsimp only
    split <;> exact h2

theorem Drift.tailStart (s : State) : Drift s s.tailStart := .of (.setDucker _ _) (.onCurrent _ fun _ => rfl)

theorem Drift.speakingEnd (s : State) : Drift s s.speakingEnd := by
  unfold State.speakingEnd
  split
  · next x rest hq =>
    split
    · next h =>
      have hc := Drift.closeCurrent s false
      have hn := State.headMayStart_driver h
      rw [← hc.live] at hn
      refine .of (.startCurrent _ _ hn) (.of (.setAnnQueue _ _ fun hl => ?_) hc)
      rw [State.closeCurrent_queue, hq, List.length_cons] at hl
      omega
    · exact .tailStart _
  · exact .tailStart _

theorem Drift.speakingStart (s : State) : Drift s s.speakingStart := by
  unfold State.speakingStart
  split
  · exact .refl _
  · next c hc =>
    dsimp only
    have h : Drift s (s.onAnn fun a => { a with current := some { c with
        phase := .speaking, voices := Tab.map (fun (v : AnnVoice) => { v with finished := v.speech.isEmpty }) c.voices } }) :=
      Drift.onAnn rfl id fun _ x e => by rw [hc]; exact e
    split
    · exact .of (.speakingEnd _) (.of (.foldl _ (fun _ _ => .bindAnn _ _ _) _ _) h)
    · exact .of (.foldl _ (fun _ _ => .bindAnn _ _ _) _ _) h

theorem Drift.tailEnd (s : State) : Drift s s.tailEnd := .of (.quietCheck _) (.of (.tryStart _) (.closeCurrent _ _))

theorem Drift.phaseTest (s : State) : Drift s s.phaseTest := by
  unfold State.phaseTest
  split
  · exact .refl _
  · split
    · exact .ite (.speakingStart _) (.refl _)
    · exact .ite (.speakingEnd _) (.refl _)
    · exact .ite (.tailEnd _) (.refl _)

theorem Drift.markReported (s : State) (p : Prog) : Drift s (s.markReported p) :=
  .of (.onCurrent _ fun _ => rfl) (Drift.onAnn' rfl rfl rfl)

theorem Drift.annReport (s : State) (p : Prog) (settled : Bool) : Drift s (s.annReport p settled) := by
  refine .of (.phaseTest _) (.of (.markReported _ _) (Drift.onAnn' ?_ ?_ ?_)) <;> (split <;> rfl)

theorem Drift.annClipEnd (s : State) (p : Prog) : Drift s (s.annClipEnd p) := by
  unfold State.annClipEnd
  split
  · exact .refl _
  · refine .of (.phaseTest _) (.of (.markReported _ _) (Drift.trans (.unbind s p .announce) ?_))
    split
    · exact .of (.onAnnVoice _ _ _) (.release _ _)
    · dsimp only
      split
      · exact .of (.onCurrent _ fun _ => rfl) (.of (.bindAnn _ _ _) (.of (.onAnnVoice _ _ _) (.release _ _)))
      · exact .of (.onAnnVoice _ _ _) (.release _ _)
    · exact .refl _

theorem Drift.stopAtBlock (s : State) (p : Prog) : Drift s (s.stopAtBlock p) := by
  unfold State.stopAtBlock
  split
  · exact .refl _
  · exact .ite (.releaseAnn _ _) (.refl _)

theorem Drift.stopItemArrives (s : State) (mk : Nat → AnnItem) : Drift s (s.stopItemArrives mk) := by
  unfold State.stopItemArrives
  have h := Drift.takeNumber s
  dsimp only
  split
  · exact .of (.postDropped _ _ _) h
  · split
    · exact .of (.postDropped _ _ _) h
    · next hl =>
      refine .of (.tryStart _) (.of (.setAnnQueue _ _ fun _ => ?_) h)
      simp only [List.length_append, List.length_singleton]
      unfold Config.announceDepth at hl; omega

theorem joinQueue_length (x : AnnItem) (q : List AnnItem) : (joinQueue x q).length = q.length + 1 := by
  unfold joinQueue
  split
  · have := congrArg List.length (List.takeWhile_append_dropWhile (p := fun y : AnnItem => y.kind == .safety) (l := q))
    simp only [List.length_append, List.length_cons] at *; omega
  · simp

theorem Drift.dropStops (s : State) : Drift s s.dropStops := .of (.quietCheck _) (.dropItems _ _ _)

theorem Drift.dropStop (s : State) (i : StopNo) : Drift s (s.dropStop i) := .of (.quietCheck _) (.dropItems _ _ _)

theorem Drift.staleTest (s : State) (d : Nat) : Drift s (s.staleTest d) := .of (.quietCheck _) (.dropItems _ _ _)

theorem Drift.cutShort (s : State) (e : AnnEnd) : Drift s (s.cutShort e) := by
  unfold State.cutShort
  split
  · exact .refl _
  · split
    · exact .refl _
    · exact .of (.tailStart _) (.onCurrent _ fun _ => rfl)

theorem Drift.annFallback (s : State) : Drift s s.annFallback := by
  unfold State.annFallback
  dsimp only
  split
  · exact .dropItems _ _ _
  · split
    · exact .dropItems _ _ _
    · exact .of (.cutShort _ _) (.dropItems _ _ _)

theorem Drift.annProgOff (s : State) (p : Prog) : Drift s (s.annProgOff p) :=
  .of (.phaseTest _) (.of (.unbind _ _ _) (.of (.onAnnVoice _ _ _) (.releaseAnn _ _)))

theorem Drift.annProgOn (s : State) (p : Prog) : Drift s (s.annProgOn p) := .of (.onAnnVoice _ _ _) (Drift.onAnn' rfl rfl rfl)

/-! ## Fault Recorder -/

theorem Drift.enterFallback (s : State) : Drift s s.enterFallback := by
  unfold State.enterFallback
  split
  · exact .refl _
  · dsimp only
    refine .of (.stopPlayers _) ?_
    have h : Drift s ((((s.changeOp .fallback .fault).setParkHold none).emptyQueues.annFallback).releaseBeds) :=
      .of (.releaseBeds _) (.of (.annFallback _) (.of (.emptyQueues _) (.of (.setParkHold _ _) (.changeOp _ _ _ fun _ => rfl))))
    split
    · exact .of (.seatRestartPolling _) h
    · exact h

theorem BankDrift.file (b : FaultBank) (k : FaultKind) (en : Bool) (d1 d2 : Nat) (t : Count32) : BankDrift b (b.file k en d1 d2 t) := by
  unfold FaultBank.file
  split
  · next h =>
    refine ⟨rfl, fun r hr hu => ?_, fun r hr => ⟨_, rfl, fun _ => ?_⟩⟩
    · simp [captures, hr, hu] at h
    · rw [hr]; rfl
  · have e : ∀ r, b.record = some r → b.record.map (fun o => { o with overrun := true }) = some { r with overrun := true } :=
      fun r hr => by rw [hr]; rfl
    exact ⟨rfl, fun r hr _ => ⟨true, e r hr⟩, fun r hr => ⟨_, e r hr, fun _ => rfl⟩⟩

theorem Drift.critical (s : State) (k : FaultKind) (d1 : Nat) : Drift s (s.critical k d1) := by
  unfold State.critical
  split
  · exact .enterFallback _
  · exact .of (.post _ _ _ _ _) (Drift.onFaults fun _ => .refl _)

theorem Drift.fileFault (s : State) (k : FaultKind) (d1 d2 : Nat) : Drift s (s.fileFault k d1 d2) := by
  unfold State.fileFault
  dsimp only
  have h : Drift s (s.onFaults fun f => { f with
      banks := f.banks.set (bankIndex (faultBank k))
        ((s.faults.banks.get (bankIndex (faultBank k))).file k ((s.faults.banks.get (bankIndex (faultBank k))).enabled k) d1 d2 s.ctl.time) }) :=
    Drift.onFaults fun i => by
      dsimp only
      rw [Tab.get_set]
      split
      · next e => subst e; exact .file _ _ _ _ _ _
      · exact .refl _
  split
  · split
    · exact .of (.critical _ _ _) (.of (.post _ _ _ _ _) h)
    · exact .of (.critical _ _ _) h
  · split
    · exact .of (.post _ _ _ _ _) h
    · exact h

theorem Drift.fileParity (s : State) (x : ParityPlace) : Drift s (s.fileParity x) := by
  cases x <;> exact .fileFault _ _ _ _

theorem Drift.fileNoted (s : State) : Drift s s.fileNoted := .of (.foldl _ .fileParity _ _) (Drift.onStore (.of rfl rfl))

theorem Drift.settleParity (s : State) : Drift s s.settleParity := .of (.fileNoted _) (.fileNoted _)

end Sys2Proof.Machine
end

