-- ==== Sys2Proof/Laws/DriftMoves.lean ====
section
/-! SUPPORT. The Route Unit's moves and hand-offs and the Programme Mixer's block events are drifts, or glides where they move the
cursor. -/

namespace Sys2Proof.Machine

/-! ## Route Unit -/

/-- A glide followed by another, the last one named first. -/
theorem Glide.of {s t u : State} (k : Glide t u) (h : Glide s t) : Glide s u := h.trans k

theorem Drift.approach (s : State) (i : StopNo) (x : Stop) (d : Nat) : Drift s (s.approach i x d) :=
  .of (.post _ _ _ _ _) (.of (.stopItemArrives _ _) (.of (.recomputeNext _) (.setStop _ _ _)))

theorem Drift.approachPoint (s : State) (i : StopNo) (d : Nat) : Drift s (s.approachPoint i d) := by
  unfold State.approachPoint
  split
  · exact .refl _
  · exact .ite (.approach _ _ _ _) (.refl _)

theorem Drift.arrivalPoint (s : State) (i : StopNo) (both : Bool) (d : Nat) : Drift s (s.arrivalPoint i both d) := by
  unfold State.arrivalPoint
  split
  · exact .refl _
  · split
    · dsimp only
      refine .of (.recomputeNext _) (.of (.post _ _ _ _ _) ?_)
      exact .ite (.of (.stopItemArrives _ _) (.setStop _ _ _)) (.setStop _ _ _)
    · exact .refl _

theorem Drift.requestStop (s : State) (source who : Nat) : Drift s (s.requestStop source who).1 := by
  unfold State.requestStop
  split
  · exact .refl _
  · split
    · exact .refl _
    · split
      · exact .refl _
      · dsimp only
        split
        · exact .of (.approach _ _ _ _) (.of (.post _ _ _ _ _) (.setStop _ _ _))
        · exact .of (.post _ _ _ _ _) (.setStop _ _ _)

theorem Drift.handOne (i : SegNo) (x : Segment) (h : HandOff) (p : Prog) : Drift h.state (handOne i x h p).state := by
  unfold Machine.handOne
  dsimp only
  split
  · exact .refl _
  · split
    · exact .refl _
    · split
      · exact .lookup _ _ _
      · exact .of (.placeItem _ _ _) (.lookup _ _ _)

theorem Drift.handAll (i : SegNo) (x : Segment) (l : List Prog) (h : HandOff) : Drift h.state (l.foldl (Machine.handOne i x) h).state := by
  induction l generalizing h with
  | nil => exact .refl _
  | cons p l ih => exact (Drift.handOne i x h p).trans (ih _)

theorem Drift.takeHandOff (s : State) (i : SegNo) (x : Segment) : Drift s (s.takeHandOff i x).1 := by
  unfold State.takeHandOff
  have h : Drift s (if s.engineMode = 0 then langProgs.foldl (Machine.handOne i x) ⟨s, 0, none⟩ else ⟨s, 0, none⟩ : HandOff).state := by
    split
    · exact .handAll i x langProgs ⟨s, 0, none⟩
    · exact .refl _
  dsimp only
  split
  · exact .of (.fileFault _ _ _ _) (.of (Drift.onCom fun _ => id) h)
  · have k := fun u : State => Drift.onCom (s := u) (f := fun c => { c with marks := c.marks.set i false }) fun _ => id
    exact .of (k _) h

theorem Drift.triggerPoint (s : State) (i : SegNo) (d : Nat) : Drift s (s.triggerPoint i d) := by
  unfold State.triggerPoint
  split
  · exact .refl _
  · split
    · split
      · exact .of (.post _ _ _ _ _) (.setSegment _ _ _)
      · dsimp only
        exact .of (.cueRequest _ _ _) (.of (.settleSegment _ _) (.of (.setSegment _ _ _) (.of (.takeHandOff _ _ _) (.setSegment _ _ _))))
    · exact .refl _

theorem Drift.evalPoint (d : Nat) (s : State) (x : Nat × Point) : Drift s (s.evalPoint d x) := by
  unfold State.evalPoint
  split
  · exact .approachPoint _ _ _
  · exact .arrivalPoint _ _ _ _
  · exact .triggerPoint _ _ _

theorem Glide.forward (s : State) (d : Nat) : Glide s (s.forward d) := by
  unfold State.forward
  exact .of (Drift.staleTest _ _).toGlide (.of (Drift.lateTest _ _).toGlide (.of (Drift.recomputeNext _).toGlide
    (.of (.setCursor _ _) (Drift.foldl _ (Drift.evalPoint d) _ _).toGlide)))

theorem Drift.fixStop (d : Nat) (s : State) (i : StopNo) : Drift s (s.fixStop d i) := by
  unfold State.fixStop
  split
  · exact .refl _
  · exact .ite (.setStop _ _ _) (.refl _)

theorem Drift.fixSegment (d : Nat) (s : State) (i : SegNo) : Drift s (s.fixSegment d i) := by
  unfold State.fixSegment
  split
  · exact .refl _
  · exact .ite (.setSegment _ _ _) (.refl _)

theorem Glide.firstFix (s : State) (d : Nat) : Glide s (s.firstFix d) := by
  unfold State.firstFix
  exact .of (Drift.recomputeNext _).toGlide (.of (Drift.foldl _ (Drift.fixSegment d) _ _).toGlide
    (.of (Drift.foldl _ (Drift.fixStop d) _ _).toGlide (.setCursor _ _)))

theorem Drift.stepBack (s : State) (d : Nat) : Drift s (s.stepBack d) := .ite (.fileFault _ _ _ _) (.refl _)

theorem Glide.position (s : State) (p : Port) (d v : Nat) : Glide s (s.position p d v) := by
  unfold State.position
  have key : ∀ u : State, Glide s u → Glide s
      (if u.route.cursor.set then if d < u.route.cursor.distance then u.stepBack d else u.forward d else u.firstFix d) := by
    intro u h
    split
    · split
      · exact .of (Drift.stepBack _ _).toGlide h
      · exact .of (.forward _ _) h
    · exact .of (.firstFix _ _) h
  have h1 : ∀ u : State, Glide s u → Glide s (u.setCursor { u.route.cursor with speed := min v Config.maxSpeed, lastMover := some p }) :=
    fun u h => .of (.setCursor _ _) h
  have h2 : Drift s (if Config.maxSpeed < v then (s.touch cursorRec).fileFault .overspeed v 0 else s.touch cursorRec) :=
    .ite (.of (.fileFault _ _ _ _) (.touch _ _)) (.touch _ _)
  exact key _ (h1 _ h2.toGlide)

theorem Drift.jumpStop (d : Nat) (s : State) (i : StopNo) : Drift s (s.jumpStop d i) := by
  unfold State.jumpStop
  split
  · exact .refl _
  · exact .ite (.setStop _ _ _) (.ite (.setStop _ _ _) (.refl _))

theorem Drift.jumpSegment (d : Nat) (s : State) (i : SegNo) : Drift s (s.jumpSegment d i) := by
  unfold State.jumpSegment
  split
  · exact .refl _
  · exact .ite (.refl _) (.ite (.setSegment _ _ _) (.ite (.setSegment _ _ _) (.refl _)))

theorem Glide.jump (s : State) (p : Port) (d : Nat) : Glide s (s.jump p d) := by
  unfold State.jump
  exact .of (Drift.recomputeNext _).toGlide (.of (Drift.foldl _ (Drift.jumpSegment d) _ _).toGlide
    (.of (Drift.foldl _ (Drift.jumpStop d) _ _).toGlide (.of (.setCursor _ _)
      (Drift.of (.dropStops _) (.of (.cancelWaiting _ _ _) (.touch _ _))).toGlide)))

theorem Glide.routeClear (s : State) : Glide s s.routeClear := by
  unfold State.routeClear
  exact .of (.setCursor _ _) (Drift.of (.foldl _ (fun _ _ => .setSegment _ _ _) _ _) (.of (.foldl _ (fun _ _ => .setStop _ _ _) _ _)
    (.of (.dropStops _) (.of (.cancelWaiting _ _ _) (.touch _ _))))).toGlide

/-! ## Programme Mixer -/

theorem duckTarget_le (rows : List DuckRow) (v : Voice) : duckTarget rows v ≤ 4096 := by
  have key : ∀ (l : List Nat) (a : Nat), a ≤ 4096 → l.foldl min a ≤ 4096 := by
    intro l
    induction l with
    | nil => exact fun _ h => h
    | cons x l ih => exact fun a h => ih _ ((Nat.min_le_left _ _).trans h)
  exact key _ _ (Nat.le_refl _)

/-- R109: the duck targets are at most 4096. -/
theorem State.duckTargets_le (s : State) (p : Prog) (v : Voice) : (s.duckTargets p).get v ≤ 4096 := by
  cases v <;> exact duckTarget_le _ _

/-- R109: a stepped duck gain lies between where it was and its target. -/
theorem stepDuck_le {r t d : Nat} (ht : t ≤ 4096) (hd : d ≤ 4096) : stepDuck r t d ≤ 4096 := by
  unfold stepDuck
  repeat' split
  all_goals omega

theorem clampSample_range (x : Int) : -32768 ≤ clampSample x ∧ clampSample x ≤ 32767 := by
  unfold clampSample; omega

theorem Block.stepDucks_le {b : Block} {d : Quad Nat} (hb : ∀ v, b.target.get v ≤ 4096) (hd : ∀ v, d.get v ≤ 4096) (v : Voice) :
    (b.stepDucks d).get v ≤ 4096 := by
  cases v
  · exact stepDuck_le (hb .commentary) (hd .commentary)
  · exact stepDuck_le (hb .announce) (hd .announce)
  · exact stepDuck_le (hb .live) (hd .live)
  · exact stepDuck_le (hb .bed) (hd .bed)

theorem Block.mix_ducks {b : Block} (hb : ∀ v, b.target.get v ≤ 4096) (l : List (Quad Int)) (d : Quad Nat) (hd : ∀ v, d.get v ≤ 4096) :
    ∀ v, (b.mix l d).ducks.get v ≤ 4096 := by
  induction l generalizing d with
  | nil => exact hd
  | cons x l ih => exact ih _ (Block.stepDucks_le hb hd)

theorem Block.mix_out (b : Block) (l : List (Quad Int)) (d : Quad Nat) : ∀ x ∈ (b.mix l d).out, -32768 ≤ x ∧ x ≤ 32767 := by
  induction l generalizing d with
  | nil => intro x hx; cases hx
  | cons y l ih =>
    intro x hx
    rcases List.mem_cons.1 hx with rfl | hx
    · exact clampSample_range _
    · exact ih _ x hx

theorem Block.mix_length (b : Block) (l : List (Quad Int)) (d : Quad Nat) : (b.mix l d).out.length = l.length := by
  induction l generalizing d with
  | nil => rfl
  | cons y l ih => exact congrArg (· + 1) (ih _)

/-- A block set whose targets are bounded wherever the blocks' were. -/
theorem MixDrift.setBlock {a : Mixer} {p : Prog} {x : Option Block}
    (h : (∀ p b, a.block.get p = some b → ∀ v, b.target.get v ≤ 4096) → ∀ b, x = some b → ∀ v, b.target.get v ≤ 4096) :
    MixDrift a { a with block := a.block.set p x } :=
  { MixDrift.refl a with
    gains := fun g k => ⟨g, fun q b => by
      simp only [Tab.get_set]
      split
      · exact h k b
      · exact k q b⟩ }

theorem Drift.setBlock (s : State) (p : Prog) (x : Option Block)
    (h : (∀ p b, s.mix.block.get p = some b → ∀ v, b.target.get v ≤ 4096) → ∀ b, x = some b → ∀ v, b.target.get v ≤ 4096) :
    Drift s (s.setBlock p x) := Drift.onMix (.setBlock h)

theorem Drift.setStreak (s : State) (p : Prog) (n : Nat) (h : n ≤ 15) : Drift s (s.setStreak p n) :=
  Drift.onMix { MixDrift.refl _ with
    streak := fun q k => by
      simp only [Tab.get_set]
      split
      · exact h
      · exact k }

/-- The voices of one programme changed, their gains and targets staying bounded. -/
theorem MixDrift.voices {a : Mixer} {p : Prog} {f : Quad VoiceState → Quad VoiceState}
    (h : (∀ p b, a.block.get p = some b → ∀ v, b.target.get v ≤ 4096) → ∀ q : Quad VoiceState,
      (∀ v, (q.get v).d ≤ 4096 ∧ (q.get v).target ≤ 4096) → ∀ v, ((f q).get v).d ≤ 4096 ∧ ((f q).get v).target ≤ 4096) :
    MixDrift a { a with voices := a.voices.modify p f } :=
  { MixDrift.refl a with
    gains := fun g k => ⟨fun q v => by
      simp only [Tab.get_modify]
      split
      · exact h k _ (g q) v
      · exact g q v, k⟩ }

theorem Drift.startVoices (s : State) (p : Prog) : Drift s (s.startVoices p) := by
  unfold State.startVoices
  refine Drift.onMix (.voices fun _ q hq v => ?_)
  cases v
  · exact ⟨(hq .commentary).1, s.duckTargets_le p .commentary⟩
  · exact ⟨(hq .announce).1, s.duckTargets_le p .announce⟩
  · exact ⟨(hq .live).1, s.duckTargets_le p .live⟩
  · exact ⟨(hq .bed).1, s.duckTargets_le p .bed⟩

theorem Drift.takeMirror (s : State) (p : Prog) (b : Block) : Drift s (s.takeMirror p b).1 ∧ (s.takeMirror p b).2.target = b.target := by
  unfold State.takeMirror
  split
  · have h : Drift s (s.onMix fun m => { m with mirror := m.mirror.drop 1 }) :=
      Drift.onMix { MixDrift.refl s.mix with mirror := fun h => by rw [List.length_drop]; omega }
    exact ⟨h, rfl⟩
  · exact ⟨.refl _, rfl⟩

theorem Drift.requestFetch (s : State) (p : Prog) (b : Block) (h : ∀ v, b.target.get v ≤ 4096) : Drift s (s.requestFetch p b) := by
  unfold State.requestFetch
  have h1 : Drift s (if b.sounds then clipVoices.foldl (fun s v => s.onStore fun st => st.fetchReads (b.src.get v)) s else s) :=
    .ite (.foldl _ (fun _ _ => Drift.onStore (.fetchReads _ _)) _ _) (.refl _)
  dsimp only
  have h2 : ∀ (u : State) (w : List (Voice × LineReq)), Drift u (u.setBlock p (some { b with want := w })) := fun u w =>
    .setBlock _ _ _ fun _ c e => by cases e; exact h
  generalize (if b.sounds = true then _ else s : State) = u at h1 ⊢
  generalize (if b.sounds = true then _ else [] : List (Voice × LineReq)) = w
  split
  · exact .of (.setStreak _ _ _ (Nat.zero_le _)) (.of (h2 _ _) h1)
  · exact .of (h2 _ _) h1

theorem Drift.setAwake (s : State) (f g : Tab Bool 13 → Tab Bool 13) :
    Drift s (s.onMix fun m => { m with awake := f m.awake, leaving := g m.leaving }) :=
  Drift.onMix { MixDrift.refl s.mix with }

theorem Drift.startOn (s : State) (p : Prog) : Drift s (s.startOn p) := by
  have h1 : Drift s (((s.settleCommentary p).bedSettle p).startVoices p) :=
    .of (.startVoices _ _) (.of (.bedSettle _ _) (.settleCommentary _ _))
  unfold State.startOn
  generalize ((s.settleCommentary p).bedSettle p).startVoices p = u at h1
  have h2 := Drift.of (Drift.setAwake u (fun t => t.set p (u.awakeNow p)) fun t => t.set p false) h1
  dsimp only at h2 ⊢
  generalize (u.onMix fun m => { m with awake := m.awake.set p (u.awakeNow p), leaving := m.leaving.set p false }) = w at h2
  have h3 := Drift.takeMirror w p (w.newBlock p)
  refine .of (.requestFetch _ _ _ ?_) (.of h3.1 h2)
  rw [h3.2]
  exact State.duckTargets_le _ _

theorem Block.silent_target (v : Voice) : Block.silent.target.get v ≤ 4096 := by cases v <;> decide

theorem Drift.startBlock (s : State) (p : Prog) : Drift s (s.startBlock p) := by
  unfold State.startBlock
  dsimp only
  have h : Drift s ((s.stopAtBlock p).onAnn fun a => { a with fresh := a.fresh.set p true }) :=
    .of (Drift.onAnn' rfl rfl rfl) (.stopAtBlock _ _)
  split
  · exact .of (.startOn _ _) h
  · exact .of (.setStreak _ _ _ (Nat.zero_le _)) (.of (.setBlock _ _ _ fun _ c e => by cases e; exact Block.silent_target) h)

theorem Drift.underrun (s : State) (p : Prog) : Drift s (s.underrun p) := by
  unfold State.underrun
  dsimp only
  have h : Drift s (s.onStore fun st => st.dropFetch p) := Drift.onStore (.dropFetch _ _)
  split
  · exact .of (.fileFault _ _ _ _) (.of (.setStreak _ _ _ (by omega)) h)
  · exact .of (.fileFault _ _ _ _) (.of (.fileFault _ _ _ _) (.of (.setStreak _ _ _ (Nat.zero_le _)) h))

theorem Drift.setClamped (s : State) (p : Prog) (n : Nat) (h : n ≤ 65535) :
    Drift s (s.onMix fun m => { m with clamped := m.clamped.set p n }) :=
  Drift.onMix { MixDrift.refl s.mix with
    clamped := fun q k => by
      simp only [Tab.get_set]
      split
      · exact h
      · exact k }

theorem Drift.countClamped (s : State) (p : Prog) (n : Nat) : Drift s (s.countClamped p n) := by
  have h := Drift.setClamped s p (min 65535 (s.mix.clamped.get p + 1)) (Nat.min_le_left _ _)
  unfold State.countClamped
  split
  · exact .refl _
  · exact .ite (.of (.fileFault _ _ _ _) h) h

theorem Drift.joinMirror (s : State) (p : Prog) (l : List Int) : Drift s (s.joinMirror p l) := by
  unfold State.joinMirror
  split
  · refine Drift.onMix { MixDrift.refl s.mix with mirror := fun h => ?_ }
    unfold Config.mirrorDepth
    rw [List.length_append, List.length_singleton]
    split
    · omega
    · rw [List.length_drop]; omega
  · exact .refl _

theorem Drift.endReport (s : State) (p : Prog) (v : Voice) : Drift s (s.endReport p v) := by
  unfold State.endReport
  dsimp only
  split
  · exact .refl _
  · split
    · cases v
      · exact .itemDone _ _
      · exact .annClipEnd _ _
      · exact .refl _
      · exact .bedRelease _ _
    · exact .refl _

theorem Drift.blockReports (s : State) (p : Prog) (settled : Bool) : Drift s (s.blockReports p settled) :=
  .of (.annReport _ _ _) (.foldl _ (fun s v => .endReport s p v) _ _)

theorem VoiceState.advance_gains (x : VoiceState) (src : Option BlockSource) (d : Nat) (held : Int) :
    (x.advance src d held).d = d ∧ (x.advance src d held).target = x.target := by
  unfold VoiceState.advance
  split
  · exact ⟨rfl, rfl⟩
  · split <;> exact ⟨rfl, rfl⟩

/-- The voices after a block, but for the bounds of their gains. -/
theorem Slide.advanceVoices (s : State) (p : Prog) (b : Block) (ducks : Quad Nat) (held : Quad Int) :
    Slide s (s.advanceVoices p b ducks held) :=
  { (Glide.refl s).toSlide with
    record := fun _ r _ _ => State.recordBytes_congr r rfl rfl rfl rfl rfl rfl rfl
    caps := fun c => { c with }
    seats := fun a => ⟨a.count, a.holdoff, a.pointer, a.disabled, a.selection⟩
    activity := fun _ _ => id }

theorem advanceVoices_audio {s : State} {p : Prog} {b : Block} {ducks : Quad Nat} {held : Quad Int} (hs : AudioBounded s)
    (h : ∀ v, ducks.get v ≤ 4096) : AudioBounded (s.advanceVoices p b ducks held) := by
  refine ⟨fun q v => ?_, hs.blocks, hs.out⟩
  unfold State.advanceVoices State.voice
  simp only [State.onMix_mix, Tab.get_modify]
  split
  · cases v <;> (simp only [Quad.get]; rw [(VoiceState.advance_gains _ _ _ _).1, (VoiceState.advance_gains _ _ _ _).2])
    · exact ⟨h .commentary, (hs.gains q .commentary).2⟩
    · exact ⟨h .announce, (hs.gains q .announce).2⟩
    · exact ⟨h .live, (hs.gains q .live).2⟩
    · exact ⟨h .bed, (hs.gains q .bed).2⟩
  · exact hs.gains q v

theorem Drift.computeBlock (s : State) (p : Prog) (b : Block) (lost : List Voice) : Drift s (s.computeBlock p b lost).1 := by
  unfold State.computeBlock
  dsimp only
  refine .of (.joinMirror _ _ _) (.of (.countClamped _ _ _) (Drift.onMix { MixDrift.refl s.mix with out := fun q k => ?_ }))
  simp only [Tab.get_set]
  split
  · exact Block.mix_out _ _ _
  · exact k

theorem computeBlock_ducks {s : State} {p : Prog} {b : Block} {lost : List Voice} (hs : AudioBounded s)
    (hb : ∀ v, b.target.get v ≤ 4096) : ∀ v, (s.computeBlock p b lost).2.1.get v ≤ 4096 := by
  refine Block.mix_ducks hb _ _ fun v => ?_
  have h := fun v => (hs.gains p v).1
  cases v
  · exact h .commentary
  · exact h .announce
  · exact h .live
  · exact h .bed

/-- R106: the deadline of a block whose programme has it in progress. -/
theorem Drift.deadline (s : State) (p : Prog) (b : Block) (hb : s.mix.block.get p = some b) : Drift s (s.deadline p b) := by
  unfold State.deadline
  have h1 : Drift s (if (s.lostVoices p b).isEmpty then s.setBlock p none else (s.setBlock p none).underrun p) := by
    have h := Drift.setBlock s p none fun _ _ e => by cases e
    split
    · exact h
    · exact .of (.underrun _ _) h
  dsimp only
  generalize (if (s.lostVoices p b).isEmpty = true then s.setBlock p none else State.underrun p (s.setBlock p none)) = u at h1
  generalize hl : s.lostVoices p b = lost at *
  have h2 : Drift s (u.computeBlock p b lost).1 := .of (.computeBlock _ _ _ _) h1
  split
  · refine .of (.blockReports _ _ _) ⟨⟨h2.toSlide.trans (.advanceVoices _ _ _ _ _), fun ha => ?_⟩, h2.cursor⟩
    exact advanceVoices_audio (h2.audio ha) (computeBlock_ducks (h1.audio ha) fun v => ha.blocks p b hb v)
  · exact h2

end Sys2Proof.Machine
end

