-- ==== Sys2Proof/Laws/DriftCommands.lean ====
section
/-! SUPPORT. The commands' bodies and the events are drifts, but for the few that set a setting, move the cursor, turn a live channel, send
a frame of light or write the DRAM; those are described by the drifts around that one change. -/

namespace Sys2Proof.Machine

/-! ## The shape of a command -/

@[simp] theorem State.answer_state (s : State) (st : Status) : (s.answer st).state = s := rfl
@[simp] theorem State.answer_status (s : State) (st : Status) : (s.answer st).status = st := rfl
@[simp] theorem State.answer_payload (s : State) (st : Status) : (s.answer st).payload = [] := rfl
@[simp] theorem State.ok_state (s : State) (bs : List Byte) : (s.ok bs).state = s := rfl
@[simp] theorem State.ok_status (s : State) (bs : List Byte) : (s.ok bs).status = .ok := rfl
@[simp] theorem State.ok_payload (s : State) (bs : List Byte) : (s.ok bs).payload = bs := rfl
@[simp] theorem State.fixAnswer_state (s : State) : s.fixAnswer.state = s := rfl

/-- Two drifts of the store, one after the other. -/
theorem Drift.onStore2 {s : State} {f : Store → Store} (h : ∀ st, StoreDrift st (f st)) : Drift s (s.onStore f) := Drift.onStore (h _)

/-- A command's argument test in front of a drift. -/
theorem Drift.noArgs {bs : List Byte} {s : State} {k : State → Answer} (h : Drift s (k s).state) : Drift s (noArgs bs s k).state := by
  unfold Machine.noArgs
  split
  · exact h
  · exact .refl _

theorem Drift.withIndex {n : Nat} {bs : List Byte} {s : State} {k : Fin n → State → Answer} (h : ∀ i, Drift s (k i s).state) :
    Drift s (withIndex n bs s k).state := by
  unfold Machine.withIndex
  split
  · exact h _
  · exact .refl _

theorem Drift.withWord {bs : List Byte} {s : State} {k : Nat → State → Answer} (h : ∀ i, Drift s (k i s).state) :
    Drift s (withWord bs s k).state := by
  unfold Machine.withWord
  split
  · exact h _
  · exact .refl _

/-- R161, R180: what taking a command does: nothing where it may not be taken; otherwise the block's own effect, or, for a conditional
write whose test fails at that moment, RESERVATION-LOST, and the response. -/
theorem State.take_spec (s : State) (p : Port) (c : Command) (body : List Byte → State → Answer) :
    s.take p c body = s ∨ ∃ h : InHand, (s.ports.get p).slot = .inHand h ∧ h.command = c ∧ (h.conditional = true → h.tested = true) ∧
      ((h.conditional = true → s.testPasses p h = true) ∧
          s.take p c body = State.respond p h.tag (body h.payload (if c.kind = .write then s.dropResv p else s)) ∨
        (h.conditional = true ∧ s.testPasses p h = false) ∧
          s.take p c body = State.respond p h.tag ((if c.kind = .write then s.dropResv p else s).answer .reservationLost)) := by
  unfold State.take State.handOf
  split
  · exact .inl rfl
  · next h e =>
    refine .inr ?_
    split at e
    · next h' hs =>
      split at e
      · next hc =>
        cases e
        refine ⟨h, hs, hc.1, hc.2, ?_⟩
        unfold State.gate
        split
        · next k =>
          rw [Bool.and_eq_true, Bool.not_eq_true'] at k
          exact .inr ⟨k, rfl⟩
        · next k =>
          refine .inl ⟨fun hd => ?_, rfl⟩
          rw [hd, Bool.true_and, Bool.not_eq_true', Bool.not_eq_false] at k
          exact k
      · cases e
    · cases e

/-! ## Clip Store -/

theorem Drift.roomForEntry {s t : State} {n : EntryNo} (h : s.roomForEntry = some (t, n)) : Drift s t := by
  unfold State.roomForEntry at h
  split at h
  · cases h; exact .refl _
  · obtain ⟨u, hu, h⟩ := Option.bind_eq_some_iff.1 h
    obtain ⟨m, _, h⟩ := Option.map_eq_some_iff.1 h
    cases h
    exact .evict hu

theorem Drift.loadOpenBody (p : Port) (bs : List Byte) (s : State) : Drift s (loadOpenBody p bs s).state := by
  unfold Machine.loadOpenBody
  dsimp only
  repeat' split
  · exact .refl _
  · exact .refl _
  · exact Drift.onStore (.searchMap _)
  · exact .of (Drift.onStore (.searchMap _)) (Drift.onStore (.searchMap _))
  · next t n h =>
    rw [State.answer_state]
    exact .of (Drift.onStore2 fun st => (StoreDrift.putEntry st _ _).trans (.setSlot _ _ _))
      (.of (.roomForEntry h) (Drift.onStore (.searchMap _)))

theorem Drift.takePage {s : State} {p : Port} {l : Load} {st : Store} (h : s.store.takePage p l = some st) :
    Drift s (s.onStore fun _ => st) := Drift.onStore (StoreDrift.takePage h)

theorem Drift.roomForPiece {s t : State} {p : Port} {l : Load} {k : Nat} (h : s.roomForPiece p l k = some t) : Drift s t := by
  unfold State.roomForPiece at h
  extract_lets count at h
  by_cases hc : k / 4096 < count
  · rw [if_pos hc] at h; cases h; exact .refl _
  · rw [if_neg hc] at h
    split at h
    · next st e => cases h; exact .takePage e
    · obtain ⟨u, hu, h⟩ := Option.bind_eq_some_iff.1 h
      obtain ⟨st, e, h⟩ := Option.map_eq_some_iff.1 h
      subst h
      exact .of (.takePage e) (.evict hu)

theorem Drift.acceptPiece (s : State) (p : Port) (off : Nat) (piece : List Byte) : Drift s (s.acceptPiece p off piece) := by
  unfold State.acceptPiece
  split
  · exact Drift.onStore2 fun st => (StoreDrift.layPiece _ _ _ _ _ _ st).trans (.setSlot _ _ _)
  · exact .refl _

theorem Drift.loadDataBody (p : Port) (bs : List Byte) (s : State) : Drift s (loadDataBody p bs s).state := by
  unfold Machine.loadDataBody
  repeat' split
  all_goals first
    | exact .refl _
    | (next h => exact .of (.acceptPiece _ _ _ _) (.roomForPiece h))
    | exact Drift.onStore (.searchMap _)

theorem Drift.loadCloseBody (p : Port) (s : State) : Drift s (loadCloseBody p s).state := by
  unfold Machine.loadCloseBody
  split
  · next l _ =>
    split
    · exact .refl _
    · have h : Drift s (s.onStore fun st => st.setSlot p (.closing l)) := Drift.onStore2 fun st => .setSlot st _ _
      dsimp only
      rw [State.answer_state]
      exact .ite (.of (.completeLoad _ _) h) h
  · exact .refl _

theorem Drift.loadAbortBody (p : Port) (s : State) : Drift s (loadAbortBody p s).state := by
  unfold Machine.loadAbortBody
  split
  · rw [State.answer_state]
    exact Drift.onStore2 fun st => (StoreDrift.freeEntry st _).trans ((StoreDrift.freeChain _ _).trans
      ((StoreDrift.discardLines _ _).trans (.setSlot _ _ _)))
  · exact .refl _
  · exact .refl _

theorem Drift.withStanding {clip : Nat} {s : State} {k : EntryNo → Entry → State → Answer} (h : ∀ n e u, Drift u (k n e u).state) :
    Drift s (withStanding clip s k).state := by
  unfold Machine.withStanding
  dsimp only
  split
  · exact .of (h _ _ _) (Drift.onStore (.searchMap _))
  · exact Drift.onStore (.searchMap _)

theorem Drift.clipDeleteBody (clip : Nat) (s : State) : Drift s (clipDeleteBody clip s).state :=
  .withStanding fun n _ u => by rw [State.answer_state]; exact Drift.onStore2 fun st => .retire st n

theorem Drift.clipPinBody (clip : Nat) (s : State) : Drift s (clipPinBody clip s).state := by
  refine .withStanding fun n e u => ?_
  dsimp only
  split
  · exact .refl _
  · split
    · exact .refl _
    · rw [State.answer_state]; exact Drift.onStore2 fun _ => .of rfl rfl

theorem Drift.clipUnpinBody (clip : Nat) (s : State) : Drift s (clipUnpinBody clip s).state :=
  .withStanding fun n e u => by
    show Drift u (if e.pinned then u.onStore fun st => st.unpinEntry n else u)
    exact .ite (Drift.onStore2 fun _ => .unpinEntry _ _) (.refl _)

/-! ## Route Unit -/

theorem Drift.writeStop (s : State) (i : StopNo) (x : Stop) : Drift s (s.writeStop i x) :=
  .of (.recomputeNext _) (.of (.setStop _ _ _) (.touch _ _))

theorem Drift.stopWriteBody (bs : List Byte) (s : State) : Drift s (stopWriteBody bs s).state := by
  unfold Machine.stopWriteBody
  repeat' split
  all_goals first
    | exact .refl _
    | exact .writeStop _ _ _

theorem Drift.stopRemoveBody (i : StopNo) (s : State) : Drift s (stopRemoveBody i s).state := by
  unfold Machine.stopRemoveBody
  repeat' split
  all_goals first
    | exact .refl _
    | exact .of (.recomputeNext _) (.of (.dropStop _ _) (.setStop _ _ _))

theorem Drift.stopSkipBody (i : StopNo) (s : State) : Drift s (stopSkipBody i s).state := by
  unfold Machine.stopSkipBody
  dsimp only
  repeat' split
  all_goals first
    | exact .refl _
    | exact .of (.recomputeNext _) (.of (.post _ _ _ _ _) (.of (.dropStop _ _) (.setStop _ _ _)))

theorem Drift.stopRequestBody (p : Port) (s : State) : Drift s (stopRequestBody p s).state := by
  unfold Machine.stopRequestBody
  have h := Drift.requestStop s 0 p.val
  split
  · next e => rw [e] at h; exact h
  · next e => rw [e] at h; exact h

theorem Drift.segmentWriteBody (bs : List Byte) (s : State) : Drift s (segmentWriteBody bs s).state := by
  unfold Machine.segmentWriteBody
  repeat' split
  all_goals first
    | exact .refl _
    | exact .of (.setSegment _ _ _) (.touch _ _)

theorem Drift.segmentRemoveBody (i : SegNo) (s : State) : Drift s (segmentRemoveBody i s).state := by
  unfold Machine.segmentRemoveBody
  repeat' split
  all_goals first
    | exact .refl _
    | exact .setSegment _ _ _

theorem Glide.positionBody (p : Port) (bs : List Byte) (s : State) : Glide s (positionBody p bs s).state := by
  unfold Machine.positionBody
  split
  · dsimp only
    split
    · exact .refl _
    · exact .position _ _ _ _
  · exact .refl _

theorem Glide.jumpBody (p : Port) (bs : List Byte) (s : State) : Glide s (jumpBody p bs s).state := by
  unfold Machine.jumpBody
  split
  · split
    · exact .refl _
    · rw [State.fixAnswer_state]; exact .jump _ _ _
  · exact .refl _

/-! ## Announcement Controller -/

theorem Drift.enterAnnounce (s : State) (x : AnnItem) (h : s.annFull x.kind = false) : Drift s (s.enterAnnounce x) := by
  unfold State.enterAnnounce
  refine .of (.tryStart _) ?_
  split
  · next hl =>
    refine .setAnnQueue _ _ fun _ => ?_
    rw [joinQueue_length]
    unfold Config.announceDepth at hl; omega
  · next hl =>
    split
    · next y hy =>
      have key : Drift s ((State.postDropped .displaced s y).setAnnQueue (joinQueue x s.ann.queue.dropLast)) := by
        refine .of (.setAnnQueue _ _ fun h8 => ?_) (.postDropped _ _ _)
        have h8 : s.ann.queue.length ≤ 8 := h8
        unfold Config.announceDepth at hl
        rw [joinQueue_length, List.length_dropLast]; omega
      exact key
    · next hn =>
      unfold State.annFull at h
      rw [hn] at h
      simp at h
      omega

theorem Drift.announceBody (p : Port) (bs : List Byte) (s : State) : Drift s (announceBody p bs s).state := by
  unfold Machine.announceBody
  split
  · exact .refl _
  · split
    · exact .refl _
    · split
      · exact .refl _
      · next x _ _ hf =>
        rcases hn : s.takeNumber with ⟨u, n⟩
        have h := Drift.takeNumber s
        rw [hn] at h
        dsimp only
        rw [State.ok_state]
        refine .of (.enterAnnounce _ _ ?_) h
        have hq : u.ann.queue = s.ann.queue := by
          have := congrArg (fun z => z.1.ann.queue) hn
          exact this.symm
        have hk : (x.item p n).kind = x.kind := rfl
        unfold State.annFull at hf ⊢
        rw [hq, hk]
        exact Bool.eq_false_iff.2 hf

theorem Drift.announceCancelBody (n : Nat) (s : State) : Drift s (announceCancelBody n s).state := by
  unfold Machine.announceCancelBody
  repeat' split
  · exact .of (.quietCheck _) (.dropItems _ _ _)
  · exact .cutShort _ _
  · exact .refl _

/-- What follows a live channel's turning OFF. -/
theorem Drift.afterLive (s : State) (c : Channel) : Drift s (s.afterLive c) :=
  .of (.quietCheck _) (.ite (.tryStart _) (.refl _))

theorem Drift.setFrames (s : State) (c : Channel) (f : Option (List Int)) :
    Drift s (s.onAnn fun a => { a with frames := a.frames.set c f }) := Drift.onAnn' rfl rfl rfl

theorem Drift.setLost (s : State) (c : Channel) (b : Bool) :
    Drift s (s.onAnn fun a => { a with lost := a.lost.set c b }) := Drift.onAnn' rfl rfl rfl

theorem Drift.micPeriod (c : Channel) (frame : Option (List (BitVec 16))) (s : State) : Drift s (s.micPeriod c frame) := by
  unfold State.micPeriod
  dsimp only
  split
  · exact .of (.setLost _ _ _) (.setFrames _ _ _)
  · exact .ite (.of (.setLost _ _ _) (.of (.fileFault _ _ _ _) (.setFrames _ _ _))) (.setFrames _ _ _)

/-! ## Programme Mixer -/

theorem Drift.setCount (s : State) (i : Prog) : Drift s (s.onMix fun m => { m with clamped := m.clamped.set i 0 }) :=
  .setClamped s i 0 (Nat.zero_le _)

theorem Drift.mixCountClearBody (i : Prog) (s : State) : Drift s (mixCountClearBody i s).state := .setCount s i

theorem Drift.blockStart (p : Prog) (s : State) : Drift s (s.blockStart p) := by
  unfold State.blockStart
  split
  · exact .refl _
  · exact .startBlock _ _

theorem Drift.blockDeadline (p : Prog) (s : State) : Drift s (s.blockDeadline p) := by
  unfold State.blockDeadline
  split
  · next h => exact .deadline _ _ _ h
  · exact .refl _

/-! ## Seat Link -/

theorem Drift.linkBreakTest (s : State) (b : Bool) : Drift s (s.linkBreakTest b) := .ite (.fileFault _ _ _ _) (.refl _)

theorem Drift.pollBegin (s : State) : Drift s s.pollBegin := by
  unfold State.pollBegin
  split
  · next i hi =>
    refine .ite (Drift.onSeat rfl rfl (fun c => c.misses) (fun c => ?_) fun _ _ => id) (.refl _)
    refine ⟨c.count, c.holdoff, ?_, c.disabled, c.selection⟩
    have := c.count
    show (if s.seat.count ≤ s.seat.pointer + 1 then 0 else s.seat.pointer + 1) < s.seat.count
    split <;> omega
  · exact .refl _

/-- A seat set to a record of the same state and selection leaves every count of R127. -/
theorem count127_set (k : SeatLink) (i : SeatNo) (x : Seat) (h1 : x.state = (k.seats.get i).state)
    (h2 : x.selection = (k.seats.get i).selection) (p : Prog) :
    ({ k with seats := k.seats.set i x } : SeatLink).count127 p = k.count127 p := by
  have key : ∀ l : List Seat, (l.filter fun x => x.state == .active && x.selection == p.val).length =
      ((l.map fun x => (x.state, x.selection)).filter fun y => y.1 == .active && y.2 == p.val).length := by
    intro l
    rw [List.filter_map, List.length_map]; rfl
  unfold SeatLink.count127
  rw [key, key]
  have : (k.seats.set i x).list.map (fun x => (x.state, x.selection)) = k.seats.list.map fun x => (x.state, x.selection) := by
    have hi : i.val < (k.seats.list.map fun x => (x.state, x.selection)).length := by rw [List.length_map, k.seats.len]; exact i.isLt
    have he : (x.state, x.selection) = (k.seats.list.map fun x => (x.state, x.selection))[i.val] := by
      rw [List.getElem_map, Tab.get_eq, h1, h2]
    show (k.seats.list.set i.val x).map _ = _
    rw [List.map_set, he, List.set_getElem_self]
  rw [this]

/-- One seat set, to a record with the same state and selection. -/
theorem Drift.setSeat_same (s : State) (i : SeatNo) (x : Seat) (h1 : x.state = (s.seat.seats.get i).state)
    (h2 : x.selection = (s.seat.seats.get i).selection) (h3 : (s.seat.seats.get i).misses ≤ 3 → x.misses ≤ 3) : Drift s (s.setSeat i x) := by
  unfold State.setSeat
  dsimp only
  rw [if_pos ⟨h1, h2⟩]
  refine Drift.onSeat rfl rfl (fun c k => ?_) (fun c => ?_) fun p _ h => ?_
  · dsimp only
    rw [Tab.get_set]
    split
    · exact h3 (c.misses i)
    · exact c.misses k
  · refine ⟨c.count, c.holdoff, c.pointer, fun k => ?_, fun k => ?_⟩
    · dsimp only [State.onSeat_seat]
      rw [Tab.get_set]
      split
      · next e => subst e; exact h1 ▸ c.disabled i
      · exact c.disabled k
    · dsimp only [State.onSeat_seat]
      rw [Tab.get_set]
      split
      · next e => subst e; exact h2 ▸ c.selection i
      · exact c.selection k
  · exact ⟨h.1.trans (count127_set s.seat i { x with lastChange := (s.seat.seats.get i).lastChange } h1 h2 p).symm, h.2⟩

/-- One configured seat set to a record that leaves it configured, and the counts taken afresh after drifts that touch no seat. -/
theorem Drift.setSeat_recount (s : State) (i : SeatNo) (x : Seat) (hi : (s.seat.seats.get i).state ≠ .disabled)
    (h1 : x.state ≠ .disabled) (h2 : (s.seat.seats.get i).selection ≤ 12 → x.selection ≤ 12)
    (h3 : (s.seat.seats.get i).misses ≤ 3 → x.misses ≤ 3) : Drift s (s.setSeat i x).recount := by
  unfold State.setSeat
  dsimp only
  generalize hy : (if x.state = (s.seat.seats.get i).state ∧ x.selection = (s.seat.seats.get i).selection then
      { x with lastChange := (s.seat.seats.get i).lastChange } else { x with lastChange := s.ctl.time } : Seat) = y
  have hst : y.state = x.state := by rw [← hy]; split <;> rfl
  have hsel : y.selection = x.selection := by rw [← hy]; split <;> rfl
  have hmis : y.misses = x.misses := by rw [← hy]; split <;> rfl
  refine .seatsRecount s rfl rfl rfl rfl rfl (fun h k => ?_) fun c => ⟨c.count, c.holdoff, c.pointer, fun k => ?_, fun k => ?_⟩
  · dsimp only
    rw [Tab.get_set]
    split
    · rw [hmis]; exact h3 (h i)
    · exact h k
  · dsimp only [State.onSeat_seat]
    rw [Tab.get_set]
    split
    · next e =>
      subst e
      have := c.disabled i
      rw [hst]
      exact ⟨fun e => absurd e h1, fun e => absurd (this.2 e) hi⟩
    · exact c.disabled k
  · dsimp only [State.onSeat_seat]
    rw [Tab.get_set]
    split
    · rw [hsel]; exact h2 (c.selection i)
    · exact c.selection k

/-- A fault that is not critical changes its bank and the event queues alone. -/
theorem State.fileFault_noncritical {s : State} {k : FaultKind} (h : faultCritical k = false) (d1 d2 : Nat) :
    s.fileFault k d1 d2 = { s with faults := (s.fileFault k d1 d2).faults, ports := (s.fileFault k d1 d2).ports } := by
  unfold State.fileFault
  simp only [h, Bool.and_false, Bool.false_eq_true, if_false]
  split <;> rfl

/-- A change of seats, events and faults, with the counts taken afresh at its end. -/
theorem Drift.ofRecount {s v : State} (hv : v = { s with ports := v.ports, seat := v.seat, faults := v.faults })
    (hp : ∀ p, PortDrift (s.ports.get p) (v.ports.get p)) (hb : ∀ i, BankDrift (s.faults.banks.get i) (v.faults.banks.get i))
    (ho : v.seat.occ = s.seat.occ) (hact : v.seat.act = s.seat.act) (hold : v.seat.hold = s.seat.hold)
    (hc : v.seat.count = s.seat.count) (hh : v.seat.holdoff = s.seat.holdoff)
    (hm : (∀ i, (s.seat.seats.get i).misses ≤ 3) → ∀ i, (v.seat.seats.get i).misses ≤ 3)
    (hs : SeatsConfigured s → SeatsConfigured v) : Drift s v.recount := by
  have k := SeatMove.recount v
  have hfa : v.recount.faults = v.faults := by rw [k.rest]
  obtain ⟨faults, hf⟩ : ∃ x, x = v.faults := ⟨_, rfl⟩
  have h1 : Drift s { s with faults := faults } := Drift.onFaults (f := fun _ => faults) fun i => hf ▸ hb i
  refine .of (.ofSeat (s := { s with faults := faults }) (t := v.recount) ?_ (fun p => (hp p).trans (k.ports p)) (k.count.trans hc) (k.holdoff.trans hh)
    (fun h => by rw [k.seats]; exact hm h) (fun h => ?_) fun p hp0 h => ?_) h1
  · refine k.rest.trans ?_
    generalize v.recount.ports = P
    generalize v.recount.seat = S
    rw [hf, hv]
  · exact k.configured (hs ⟨h.count, h.holdoff, h.pointer, h.disabled, h.selection⟩)
  · refine recount_agrees _ hp0 (decisionAgrees.congr (s := s) ⟨?_, ?_, ?_⟩ ?_ h.2)
    · rw [ho]
    · rw [hact]
    · rw [hold]
    · rw [hv]; rfl

/-- What a seat set by the Seat Link is: the record given, its last-change field put right. -/
theorem State.setSeat_spec (s : State) (i : SeatNo) (x : Seat) : ∃ y : Seat, y.state = x.state ∧ y.selection = x.selection ∧
    y.misses = x.misses ∧ y.nodeFault = x.nodeFault ∧ s.setSeat i x = { s with seat := { s.seat with seats := s.seat.seats.set i y } } := by
  unfold State.setSeat
  dsimp only
  split
  · exact ⟨{ x with lastChange := (s.seat.seats.get i).lastChange }, rfl, rfl, rfl, rfl, rfl⟩
  · exact ⟨{ x with lastChange := s.ctl.time }, rfl, rfl, rfl, rfl, rfl⟩

theorem missBound {m : Nat} (h : m ≤ 3) : (if m < 3 then m + 1 else m) ≤ 3 := by split <;> omega

/-- A configured seat set keeps the seat table in agreement with its configuration. -/
theorem SeatsConfigured.setSeat {s : State} {i : SeatNo} {x : Seat} (c : SeatsConfigured s) (hi : (s.seat.seats.get i).state ≠ .disabled)
    (h1 : x.state ≠ .disabled) (h2 : x.selection ≤ 12) : SeatsConfigured (s.setSeat i x) := by
  obtain ⟨y, e1, e2, _, _, e⟩ := s.setSeat_spec i x
  rw [e]
  refine ⟨c.count, c.holdoff, c.pointer, fun k => ?_, fun k => ?_⟩
  · dsimp only
    rw [Tab.get_set]
    split
    · next e => subst e; rw [e1]; exact ⟨fun h => absurd h h1, fun h => absurd ((c.disabled i).2 h) hi⟩
    · exact c.disabled k
  · dsimp only
    rw [Tab.get_set]
    split
    · rw [e2]; exact h2
    · exact c.selection k

theorem Drift.noReply (s : State) (i : SeatNo) (hi : (s.seat.seats.get i).state ≠ .disabled) : Drift s (s.noReply i) := by
  unfold State.noReply
  dsimp only
  split
  · refine .of (.linkBreakTest _ _) ?_
    generalize hx : ({ (s.seat.seats.get i) with
      misses := if (s.seat.seats.get i).misses < 3 then (s.seat.seats.get i).misses + 1 else (s.seat.seats.get i).misses
      state := .offline } : Seat) = x
    have hxs : x.state = .offline := by rw [← hx]
    have hxl : x.selection = (s.seat.seats.get i).selection := by rw [← hx]
    have hxm : (s.seat.seats.get i).misses ≤ 3 → x.misses ≤ 3 := by
      intro h; rw [← hx]; exact missBound h
    obtain ⟨y, e1, e2, e3, _, e⟩ := s.setSeat_spec i x
    have hd : Drift (s.setSeat i x) (((s.setSeat i x).postSeat i).fileFault .nodeSilent i.val 0) := .of (.fileFault _ _ _ _) (.post _ _ _ _ _)
    have hr := State.fileFault_noncritical (s := (s.setSeat i x).postSeat i) (k := .nodeSilent) rfl i.val 0
    generalize hv : ((s.setSeat i x).postSeat i).fileFault .nodeSilent i.val 0 = v at hd hr
    have hseat : v.seat = (s.setSeat i x).seat := by rw [hr]; rfl
    refine .ofRecount ?_ (fun p => ?_) (fun b => ?_) ?_ ?_ ?_ ?_ ?_ (fun h k => ?_) fun c => ?_
    · rw [hr, e]; rfl
    · have := hd.ports p; rw [e] at this; exact this
    · have := hd.banks b; rw [e] at this; exact this
    · rw [hseat, e]
    · rw [hseat, e]
    · rw [hseat, e]
    · rw [hseat, e]
    · rw [hseat, e]
    · rw [hseat, e]
      dsimp only
      rw [Tab.get_set]
      split
      · rw [e3]; exact hxm (h i)
      · exact h k
    · have := c.setSeat hi (by rw [hxs]; decide) (by rw [hxl]; exact c.selection i)
      exact hd.seats this
  · exact .setSeat_same _ _ _ rfl rfl fun h => missBound h

theorem Drift.nodeFaultStep (s : State) (i : SeatNo) (f : Bool) : Drift s (s.nodeFaultStep i f) := by
  unfold State.nodeFaultStep
  dsimp only
  have h : Drift s (s.setSeat i { (s.seat.seats.get i) with nodeFault := f }) := .setSeat_same _ _ _ rfl rfl id
  exact .ite (.of (.fileFault _ _ _ _) h) h

theorem State.nodeFaultStep_seat (s : State) (i : SeatNo) (f : Bool) :
    ((s.nodeFaultStep i f).seat.seats.get i).state = (s.seat.seats.get i).state := by
  unfold State.nodeFaultStep
  dsimp only
  obtain ⟨y, e1, _, _, _, e⟩ := s.setSeat_spec i { (s.seat.seats.get i) with nodeFault := f }
  split
  · rw [State.fileFault_noncritical (by rfl), e]
    dsimp only
    rw [Tab.get_set_self, e1]
  · rw [e]
    dsimp only
    rw [Tab.get_set_self, e1]

/-- R122: a configured seat set, SEAT-CHANGED where its state or selection changes, and the counts taken afresh. -/
theorem Drift.setSeat_posted (u : State) (i : SeatNo) (x : Seat) (hi : (u.seat.seats.get i).state ≠ .disabled)
    (hxs : x.state ≠ .disabled) (hxl : x.selection ≤ 12) (hxm : x.misses ≤ 3) (v : State)
    (hv : v = u.setSeat i x ∨ v = (u.setSeat i x).postSeat i) : Drift u v.recount := by
  obtain ⟨y, e1, e2, e3, _, e⟩ := u.setSeat_spec i x
  have hd : Drift (u.setSeat i x) v := by
    rcases hv with h | h <;> rw [h]
    · exact .refl _
    · exact .post _ _ _ _ _
  have hseat : v.seat = (u.setSeat i x).seat := by rcases hv with h | h <;> rw [h]; rfl
  have hvr : v = { u with ports := v.ports, seat := v.seat, faults := v.faults } := by rcases hv with h | h <;> rw [h, e]; rfl
  refine .ofRecount hvr (fun p => ?_) (fun b => ?_) ?_ ?_ ?_ ?_ ?_ (fun h k => ?_) fun c => ?_
  · have := hd.ports p; rw [e] at this; exact this
  · have := hd.banks b; rw [e] at this; exact this
  · rw [hseat, e]
  · rw [hseat, e]
  · rw [hseat, e]
  · rw [hseat, e]
  · rw [hseat, e]
  · rw [hseat, e]
    dsimp only
    rw [Tab.get_set]
    split
    · rw [e3]; exact hxm
    · exact h k
  · exact hd.seats (c.setSeat hi hxs hxl)

theorem Drift.validReply (s : State) (i : SeatNo) (r : Reply) (hr : r.sel ≤ 12) (hi : (s.seat.seats.get i).state ≠ .disabled) :
    Drift s (s.validReply i r) := by
  have h1 := Drift.nodeFaultStep s i r.fault
  have hi' := State.nodeFaultStep_seat s i r.fault
  unfold State.validReply
  extract_lets u x y t1 t2 t3
  have key : Drift u t3 := by
    refine .setSeat_posted u i y (fun e => hi (hi'.symm.trans e)) ?_ hr (Nat.zero_le _) t2 ?_
    · show (if _ then _ else _ : SeatState) ≠ _
      split <;> decide
    · by_cases h : y.state = x.state ∧ y.selection = x.selection
      · exact .inl (if_pos h)
      · exact .inr (if_neg h)
  exact .ite (.of (.requestStop _ _ _) (.of key h1)) (.of key h1)

theorem Drift.setPoll (s : State) (x : Option Poll) : Drift s (s.onSeat fun k => { k with poll := x }) :=
  Drift.onSeat rfl rfl (fun c => c.misses) (fun c => ⟨c.count, c.holdoff, c.pointer, c.disabled, c.selection⟩) fun _ _ => id

/-- R121: the end of a poll, whatever of its outcome is applied to a configured seat being a drift. -/
theorem Drift.pollEnds (s : State) (f : SeatNo → State → State)
    (h : ∀ i u, (u.seat.seats.get i).state ≠ .disabled → Drift u (f i u)) : Drift s (s.pollEnds f) := by
  unfold State.pollEnds
  split
  · exact .refl _
  · next x _ =>
    dsimp only
    split
    · exact .setPoll _ _
    · next hn =>
      refine .of (h _ _ fun e => hn ?_) (.setPoll _ _)
      rw [Bool.or_eq_true]
      exact .inr (by rw [e]; rfl)

theorem replyOf_sel {i : SeatNo} {bs : List Byte} {r : Reply} (h : replyOf i bs = some r) : r.sel ≤ 12 := by
  unfold replyOf at h
  split at h
  · split at h
    · cases h
      show (if _ then _ else _ : Nat) ≤ 12
      split <;> omega
    · cases h
  · cases h

theorem Drift.seatReply (bs : List Byte) (s : State) : Drift s (s.seatReply bs) :=
  .pollEnds _ _ fun i u hi => by
    split
    · next r h => exact .validReply _ _ _ (replyOf_sel h) hi
    · exact .noReply _ _ hi

/-! ## Deck Light Engine -/

theorem Drift.cueFail (s : State) (k : PlayerNo) (a b : Nat) : Drift s (s.cueFail k a b) :=
  .of (.post _ _ _ _ _) (.of (.playerStop _ _) (.fileFault _ _ _ _))

theorem Drift.keepKeyframe (s : State) (k : PlayerNo) (q : Player) : Drift s (s.keepKeyframe k q) := by
  unfold State.keepKeyframe
  split
  · exact .cueFail _ _ _ _
  · exact .setPlayer _ _ _

theorem Drift.cueComplete (s : State) (k : PlayerNo) (q : Player) : Drift s (s.cueComplete k q) := by
  unfold State.cueComplete
  split
  · exact .keepKeyframe _ _ _
  · split
    · exact .cueFail _ _ _ _
    · exact .keepKeyframe _ _ _

theorem Drift.cueCheck (s : State) (k : PlayerNo) : Drift s (s.cueCheck k) := by
  unfold State.cueCheck
  split
  · exact .refl _
  · exact .ite (.cueComplete _ _ _) (.refl _)

theorem Drift.cueStartBody (bs : List Byte) (s : State) : Drift s (cueStartBody bs s).state := by
  unfold Machine.cueStartBody
  split
  · dsimp only
    split
    · exact .refl _
    · split
      · exact .refl _
      · split
        · exact .refl _
        · exact .playerStart _ _ _
  · exact .refl _

theorem Drift.frameStep (s : State) (k : PlayerNo) : Drift s (s.frameStep k) := .of (.cueCheck _ _) (.playerStep _ _)

/-- R135 step 1 and R144: all of a light frame but the frame that is sent. -/
theorem Drift.frameSteps (s : State) : Drift s ((([0, 1, 2] : List PlayerNo).foldl State.frameStep s).missedAnswer) :=
  .of (.ite (.fileFault _ _ _ _) (.refl _)) (.foldl _ .frameStep _ _)

/-! ## The arbiter -/

theorem Drift.setBurst (s : State) (b : Option Burst) : Drift s (s.onStore fun st => st.setBurst b) := Drift.onStore (.of rfl rfl)

/-- A block in progress with lines taken from its fetch or delivered to it. -/
theorem Drift.changeBlock (s : State) (p : Prog) (b c : Block) (hb : s.mix.block.get p = some b) (h : c.target = b.target) :
    Drift s (s.setBlock p (some c)) :=
  .setBlock _ _ _ fun k _ e => by cases e; rw [h]; exact k p b hb

/-- R28: the search for the owner of a page notes what it reads, and changes nothing else of the store. -/
theorem Store.readOwner_spec (st : Store) (page : Page) : ∃ l, st.readOwner page = { st with noted := st.noted ++ l } := by
  unfold Store.readOwner
  split
  · exact ⟨[], by rw [List.append_nil]⟩
  · exact ⟨_, by unfold Store.readLinks Store.searchMap; dsimp only; rw [List.append_assoc]⟩

theorem StoreDrift.readOwner (st : Store) (page : Page) : StoreDrift st (st.readOwner page) := by
  obtain ⟨l, h⟩ := Store.readOwner_spec st page
  rw [h]
  exact .of rfl rfl

theorem Drift.grant (s : State) : Drift s s.grant := by
  unfold State.grant
  split
  · exact .refl _
  · split
    · unfold State.grantFetch
      split
      · exact .refl _
      · next b hb =>
        split
        · exact .refl _
        · split
          · exact .changeBlock _ _ b _ hb rfl
          · exact .of (.setBurst _ _) (.changeBlock _ _ b _ hb rfl)
    · split
      · unfold State.grantCue
        split
        · exact .refl _
        · split
          · exact .refl _
          · exact .of (.setBurst _ _) (.setPlayer _ _ _)
      · split
        · unfold State.grantDrain
          split
          · exact .refl _
          · exact .setBurst _ _
        · unfold State.grantScrub
          split
          · exact .refl _
          · next page w rest hq =>
            dsimp only
            have h : Drift s (s.onStore fun st => { (st.readLinks [page]).readOwner page with scrub := rest }) := by
              obtain ⟨l, e⟩ := Store.readOwner_spec (s.store.readLinks [page]) page
              refine Drift.onStore ?_
              dsimp only
              rw [e]
              exact ⟨rfl, fun hl => by rw [hq, List.length_cons] at hl; dsimp only; omega, id, id⟩
            split
            · exact h
            · exact .of (.setBurst _ _) h

theorem Drift.eccCorrected (s : State) (page : Page) (w : WordNo) : Drift s (s.eccCorrected page w) := by
  unfold State.eccCorrected
  have h1 := Drift.fileFault s .eccCorrected page.val w.val
  generalize s.fileFault .eccCorrected page.val w.val = u at h1
  have h2 := StoreDrift.requestScrub u.store page w
  rcases hq : u.store.requestScrub page w with ⟨st, kept⟩
  rw [hq] at h2
  have h3 : Drift u (u.onStore fun _ => st) := Drift.onStore h2
  dsimp only
  rw [hq]
  exact .ite (.of h3 h1) (.of (.fileFault _ _ _ _) (.of h3 h1))

theorem Drift.eccUncorrected (s : State) (n : EntryNo) (clip : Nat) (page : Page) : Drift s (s.eccUncorrected n clip page) := by
  unfold State.eccUncorrected
  have h1 : Drift s ((s.fileFault .eccUncorrected clip page.val).onStore fun st => st.readEntry n) :=
    .of (Drift.onStore (.readEntry _ _)) (.fileFault _ _ _ _)
  dsimp only
  split
  · exact h1
  · split
    · exact .of (.post _ _ _ _ _) (.of (Drift.onStore2 fun st => .putEntry st _ _) h1)
    · exact h1

theorem Drift.readWord (noise : List (Fin 8 × WordError)) (b : Binding) (r : LineReq) (x : State × List (Option (List Byte))) (i : Fin 8) :
    Drift x.1 (State.readWord noise b r x i).1 := by
  unfold State.readWord
  dsimp only
  split
  · exact .refl _
  · exact .eccCorrected _ _ _
  · exact .eccUncorrected _ _ _ _

theorem Drift.readLine (noise : List (Fin 8 × WordError)) (b : Binding) (r : LineReq) (s : State) : Drift s (s.readLine noise b r).1 :=
  .foldlPair _ (Drift.readWord noise b r) _ (s, [])

theorem Drift.deliverFetch (s : State) (p : Prog) (x : GotLine) : Drift s (s.deliverFetch p x) := by
  unfold State.deliverFetch
  split
  · exact .refl _
  · next b hb =>
    have h : Drift s (s.setBlock p (some { b with got := b.got ++ [x] })) := .changeBlock _ _ b _ hb rfl
    exact .ite (.of (.setStreak _ _ _ (Nat.zero_le _)) h) h

theorem Drift.deliverCue (s : State) (k : PlayerNo) (x : CueLine) : Drift s (s.deliverCue k x) := by
  unfold State.deliverCue
  split
  · exact .refl _
  · exact .of (.cueCheck _ _) (.setPlayer _ _ _)

theorem Drift.scrubDone (noise : List (Fin 8 × WordError)) (page : Page) (w : WordNo) (n : EntryNo) (clip : Nat) (s : State) :
    Drift s (s.scrubDone noise page w n clip) := by
  unfold State.scrubDone
  split
  · exact .refl _
  · exact Drift.onStore2 fun _ => .of rfl rfl id (fun h => sparseSet_wf _ _ _ h)
  · exact .eccUncorrected _ _ _ _

theorem Drift.drainDone (s : State) : Drift s s.drainDone := by
  unfold State.drainDone
  split
  · exact .refl _
  · next w rest _ =>
    have h : Drift s (s.onStore fun st => { st with eligible := rest }) := Drift.onStore2 fun _ => .of rfl rfl
    dsimp only
    split
    · exact h
    · split
      · exact .ite (.of (.completeLoad _ _) h) h
      · exact h

/-- R16, R22: a completed burst is a drift, but for the bytes that a drain first writes. -/
theorem State.burstDone_spec (noise : List (Fin 8 × WordError)) (s : State) :
    Drift s (s.burstDone noise) ∨ ∃ w x, s.store.burst = some ⟨.drain w, x⟩ ∧
      Drift ((s.onStore fun st => st.setBurst none).onStore fun st => st.writeLine w) (s.burstDone noise) := by
  unfold State.burstDone
  split
  · exact .inl (.refl _)
  · next b hb =>
    have h := Drift.setBurst s none
    obtain ⟨job, wanted⟩ := b
    dsimp only
    cases job with
    | drain w => exact .inr ⟨w, wanted, hb, .ite (.drainDone _) (.refl _)⟩
    | fetch p v x r =>
      refine .inl ?_
      dsimp only
      exact .ite (.of (.deliverFetch _ _ _) (.of (.readLine _ _ _ _) h)) h
    | cue k x r =>
      refine .inl ?_
      dsimp only
      exact .ite (.of (.deliverCue _ _ _) (.of (.readLine _ _ _ _) h)) h
    | scrub page w n clip => exact .inl (.ite (.of (.scrubDone _ _ _ _ _ _) h) h)

/-! ## Ports and Operating Control -/

theorem Drift.eventReadBody (p : Port) (bs : List Byte) (s : State) : Drift s (eventReadBody p bs s).state := by
  unfold Machine.eventReadBody
  split
  · exact .refl _
  · next n _ =>
    split
    · exact .refl _
    · have h : Drift s (s.onPort p fun ps => { ps with queue := (s.ports.get p).queue.drop n, overrun := false }) :=
        Drift.onPorts' rfl fun q => by
          simp only [State.onPort_ports, Tab.get_modify]
          split
          · next e =>
            subst e
            refine ⟨rfl, rfl, rfl, fun hl => ?_, .inl rfl⟩
            rw [List.length_drop]; omega
          · exact .refl _
      dsimp only
      rw [State.ok_state]
      exact .ite (.of (.fileFault _ _ _ _) h) h

theorem Drift.parkBody (s : State) : Drift s (parkBody s).state := by
  unfold Machine.parkBody
  split
  · next h => exact .enterPark _ _ _ (by rw [h]; decide)
  · exact .setParkHold _ _
  · exact .setParkHold _ _
  · exact .refl _

theorem Drift.unparkBody (s : State) : Drift s (unparkBody s).state := by
  unfold Machine.unparkBody
  split
  · next h => exact .leavePark _ _ (by rw [h]; decide)
  · next h => exact .leavePark _ _ (by rw [h]; decide)
  · exact .refl _
  · exact .refl _

theorem Drift.lineActive (s : State) : Drift s s.lineActive := by
  unfold State.lineActive
  split
  · next h => exact .enterPark _ _ _ (by rw [h]; decide)
  · exact .refl _

theorem Drift.lineInactive (s : State) : Drift s s.lineInactive := by
  unfold State.lineInactive
  split
  · next h => exact .leavePark _ _ (by rcases h.1 with e | e <;> rw [e] <;> decide)
  · exact .refl _

theorem Drift.faultResumeBody (s : State) : Drift s (faultResumeBody s).state := by
  unfold Machine.faultResumeBody
  split
  · rw [State.answer_state]; exact Drift.onFaults fun _ => .refl _
  · exact .refl _

theorem Drift.badFrame (s : State) (p : Port) (tag : Byte) (e : FrameError) :
    Drift (s.reply p tag .badFrame) (s.badFrame p e tag) := .fileFault _ _ _ _

/-! ## Switching a programme -/

theorem Drift.mixProgOn (s : State) (p : Prog) : Drift s (s.mixProgOn p) := by
  refine Drift.onMix { MixDrift.refl s.mix with
    streak := fun q k => ?_
    gains := fun g k => ⟨fun q v => ?_, k⟩ }
  · simp only [Tab.get_set]
    split
    · exact Nat.zero_le _
    · exact k
  · simp only [Tab.get_modify]
    split
    · cases v
      · exact ⟨Nat.le_refl _, (g q .commentary).2⟩
      · exact ⟨Nat.le_refl _, (g q .announce).2⟩
      · exact ⟨Nat.le_refl _, (g q .live).2⟩
      · exact ⟨Nat.le_refl _, (g q .bed).2⟩
    · exact g q v

theorem Drift.mixProgOff (s : State) (p : Prog) : Drift s (s.mixProgOff p) := by
  refine .of (Drift.onMix { MixDrift.refl (s.bedRelease p).mix with gains := fun g k => ⟨g, fun q b => ?_⟩ }) (.bedRelease s p)
  simp only [Tab.get_modify]
  split
  · intro h
    obtain ⟨c, hc, rfl⟩ := Option.map_eq_some_iff.1 h
    exact k q c hc
  · exact k q b

theorem Drift.switchMirror (s : State) (a b : Nat) : Drift s (s.switchMirror a b) := by
  unfold State.switchMirror
  split
  · exact .refl _
  · exact Drift.onMix { MixDrift.refl s.mix with mirror := fun _ => Nat.zero_le _ }

end Sys2Proof.Machine
end

