-- ==== Sys2Proof/Laws/Take.lean ====
section
/-! SUPPORT. Taking a command that is in hand, and the end of an event in which no parity check failed. -/

namespace Sys2Proof.Machine

/-- R180: a command in hand that may be taken. -/
theorem State.take_of_holds {s : State} {p : Port} {c : Command} {h : InHand} (hh : s.holds p c h)
    (body : List Byte → State → Answer) :
    s.take p c body = State.respond p h.tag (body h.payload (if c.kind = .write then s.dropResv p else s)) := by
  have hc : h.conditional = true → h.tested = true := fun k => (hh.2.2 k).1
  have hg : s.gate p h body = body := by
    unfold State.gate
    cases k : h.conditional with
    | false => rfl
    | true => rw [(hh.2.2 k).2]; rfl
  unfold State.take State.handOf
  rw [hh.1]
  dsimp only
  rw [if_pos ⟨hh.2.1, hc⟩]
  dsimp only
  rw [hg]

/-- R161, R164: a conditional write that has passed its test, taken when its reservation no longer stands on its record. -/
theorem State.take_of_lost {s : State} {p : Port} {c : Command} {h : InHand} (hs : (s.ports.get p).slot = .inHand h)
    (hc : h.command = c) (hk : c.kind = .write) (hd : h.conditional = true) (ht : h.tested = true) (hl : s.testPasses p h = false)
    (body : List Byte → State → Answer) : s.take p c body = s.refusedWrite p h .reservationLost := by
  have hg : s.gate p h body = fun _ t => t.answer .reservationLost := by
    unfold State.gate
    rw [hd, hl]
    rfl
  unfold State.take State.handOf
  rw [hs]
  dsimp only
  rw [if_pos ⟨hc, fun _ => ht⟩]
  dsimp only
  rw [hg, if_pos hk]
  rfl

/-- A block that answers OK. -/
theorem State.respond_ok (p : Port) (h : InHand) (s : State) (bs : List Byte) :
    State.respond p h.tag (s.ok bs) = s.withReply p h .ok bs := rfl

/-- A block that answers with no payload. -/
theorem State.respond_answer (p : Port) (h : InHand) (s : State) (st : Status) :
    State.respond p h.tag (s.answer st) = s.withReply p h st [] := by
  unfold State.respond State.withReply State.answer
  dsimp only
  rw [ite_self]

/-- With no parity failure met, nothing is filed at the end of an event. -/
theorem State.settleParity_of_noted {s : State} (h : s.store.noted = []) : s.settleParity = s := by
  have key : s.fileNoted = s := by
    unfold State.fileNoted
    rw [h]
    show s.onStore (fun st => { st with noted := [] }) = s
    unfold State.onStore
    rw [← h]
  unfold State.settleParity
  rw [key, key]

/-- The outcome of an event in which no parity check failed. -/
theorem State.done_of_noted {s : State} (h : s.store.noted = []) : s.done = .next s := by
  unfold State.done
  rw [State.settleParity_of_noted h]

/-- A search of a clip map with good parity changes nothing. -/
theorem Store.searchMap_of_good {st : Store} (h : st.badMap = []) : st.searchMap = st := by
  have e : st.noted ++ st.badMap.map ParityPlace.map = st.noted := by rw [h]; simp
  unfold Store.searchMap
  rw [e]

/-- Reads of link values with good parity change nothing. -/
theorem Store.readLinks_of_good {st : Store} (h : st.badLinks = []) (ps : List Page) : st.readLinks ps = st := by
  have e : st.noted ++ (ps.filter (· ∈ st.badLinks)).map ParityPlace.link = st.noted := by rw [h]; simp
  unfold Store.readLinks
  rw [e]

/-- A read of a clip map entry with good parity changes nothing. -/
theorem Store.readEntry_of_good {st : Store} (h : st.badMap = []) (n : EntryNo) : st.readEntry n = st := by
  unfold Store.readEntry
  rw [h]
  simp

/-- With good parity the search for the owner of a page changes nothing. -/
theorem Store.readOwner_of_good {st : Store} (hm : st.badMap = []) (hl : st.badLinks = []) (page : Page) : st.readOwner page = st := by
  unfold Store.readOwner
  split
  · rfl
  · rw [Store.searchMap_of_good hm, Store.readLinks_of_good hl]

end Sys2Proof.Machine
end

