-- ==== Sys2Proof/WellFormed.lean ====
section
/-! DEFINITION. Which events are well formed: the checks on operands that the types do not make. -/

namespace Sys2Proof

/-- The operand checks, one for each constructor that has any. -/
def Instr.wellFormed : Instr → Bool
  | .transaction _ bytes => !bytes.isEmpty
  | .micPeriodEnd _ (some frame) => frame.length == 192
  | .holdoffExpiry p => p != 0
  | .seatReply bytes => bytes.length <= 5
  | .burstCompletion noise => (noise.map Prod.fst).Nodup
  | _ => true

end Sys2Proof
end

