-- ==== Sys2Proof/Tests/Slice0.lean ====
section
/-! SUPPORT. Tests: an ill-formed operand for each well-formedness check, worked examples of the manual, one small step for the commands and
the events, and for every obligation that has hypotheses a state and operands that meet them. -/

section

set_option Elab.async false

open Sys2Proof Sys2Proof.Machine

/-! ## Helpers -/

/-- A command in hand with tag 7, without the CONDITIONAL flag. -/
def Sys2Proof.Tests.hand (c : Command) (bs : List Byte) : InHand := ⟨7, c, false, false, bs⟩

/-- A state in which port `p` has a command in hand. -/
def Sys2Proof.Tests.held (p : Port) (c : Command) (bs : List Byte) (s : State) : State :=
  s.onPort p fun ps => { ps with slot := .inHand (Sys2Proof.Tests.hand c bs) }

/-- The state after one event. -/
def Sys2Proof.Tests.after (i : Instr) (s : State) : State := match exec i s with
  | .next t => t
  | _ => s

/-- The response slot of port 0. -/
def Sys2Proof.Tests.reply (s : State) : RespSlot := (s.ports.get 0).slot

/-- The state after reset with the cursor SET. -/
def Sys2Proof.Tests.atDistance (d : Nat) (s : State) : State :=
  s.onRoute fun r => { r with cursor := ⟨true, d, 50, r.cursor.nextStop, some 0⟩ }

/-- A state with one clip map entry. -/
def Sys2Proof.Tests.entry (n : EntryNo) (e : Entry) (s : State) : State := s.onStore fun st => { st with map := st.map.set n (some e) }

/-- A READY clip of one page, at page 0. -/
def Sys2Proof.Tests.clip (clip : Nat) (kind : ClipKind) : Entry := ⟨clip, kind, 0, .ready, false, some 0, some 1, 4096, 0, some 1, none⟩

/-- A stop with one language. -/
def Sys2Proof.Tests.stop (a b : Nat) (st : StopState) : Stop := ⟨a, b, false, true, [(1, 10)], none, [11], none, none, false, st⟩

/-- A segment with one language. -/
def Sys2Proof.Tests.segment (t : Nat) (st : SegState) : Segment := ⟨t, 100, 1, false, [(1, 20)], none, st, 0, 0⟩

/-- A commentary item for entry 0. -/
def Sys2Proof.Tests.item (trig priority : Nat) (playing : Bool) : Item :=
  ⟨0, ⟨0, 20, .audio24, 4096, 0⟩, trig, 100, priority, false, playing, false, 0, false⟩

/-- An announcement item. -/
def Sys2Proof.Tests.ann (number : Nat) (kind : AnnKind) : AnnItem := ⟨number, kind, none, none, [], none, [11], none, none, some 0⟩

open Sys2Proof.Tests

/-! ## Well-formedness: one ill-formed operand for each check -/

theorem test_wellFormed_transaction_empty : (Instr.transaction 0 []).wellFormed = false := by decide
theorem test_wellFormed_mic_frame_short : (Instr.micPeriodEnd .driver (some [0, 1])).wellFormed = false := by decide
theorem test_wellFormed_holdoff_programme_0 : (Instr.holdoffExpiry 0).wellFormed = false := by decide
theorem test_wellFormed_reply_too_long : (Instr.seatReply [0, 0, 0, 0, 0, 0]).wellFormed = false := by decide
theorem test_wellFormed_noise_twice :
    (Instr.burstCompletion [(0, .single), (0, .double)]).wellFormed = false := by decide
theorem test_wellFormed_missing_mic_frame : (Instr.micPeriodEnd .guide none).wellFormed = true := by decide
theorem test_no_row_has_bits : decodeTableWord 8 0xA5 = none := by decide

/-! ## Frames (R179, R190, section 11.1), written out byte by byte -/

/-- The published check value of R179's CRC: the digits 1 to 9. -/
theorem test_crc_check_value :
    crc16 [0x31, 0x32, 0x33, 0x34, 0x35, 0x36, 0x37, 0x38, 0x39] = 0x29B1#16 := by decide +kernel

/-- CURSOR-READ with tag 9; its CRC was worked out outside the model. -/
theorem test_frame_cursor_read :
    checkFrame [0xA5, 9, 0x23, 0, 0, 0x21, 0xA8] = .taken 9 .cursorRead false [] := by decide +kernel

/-- POSITION with the CONDITIONAL flag, code byte 0xA0. -/
theorem test_frame_conditional_position :
    checkFrame [0xA5, 1, 0xA0, 5, 0, 0xE8, 3, 0, 0, 40, 0x88, 0x0B] = .taken 1 .position true [0xE8, 3, 0, 0, 40] := by decide +kernel

/-- The flag on a read fails the flag check (R190). -/
theorem test_frame_conditional_read : checkFrame [0xA5, 9, 0xA3, 0, 0, 0x7B, 0x93] = .badFlag 9 := by decide +kernel

theorem test_frame_unlisted_code : checkFrame [0xA5, 9, 0x7F, 0, 0, 0x8E, 0x83] = .unknown 9 := by decide +kernel
theorem test_frame_length_401 : checkFrame [0xA5, 9, 0x23, 0x91, 1] = .bad .length 9 := by decide +kernel
theorem test_frame_sync : checkFrame [0x5A, 4] = .bad .sync 4 := by decide +kernel

/-- Every code of section 11.2 names its own command. -/
theorem test_codes_are_told_apart : ∀ c ∈ Command.all, commandOfCode c.code = some c := by decide +kernel

/-! ## Worked examples of the manual -/

/-- Section 5.13: HEADSET k 40, v0 20, Lmax 6144 at speeds 50, 15 and 120. -/
theorem test_loudness_example : [50, 15, 120].map (LoudGroup.factor ⟨40, 20, 6144⟩) = [5296, 4096, 6144] := by decide +kernel

/-- Section 5.13: one sample, and the clamp of a sum of 30,000 (4096 × 4096 / 2^24 leaves s as it is). -/
theorem test_one_sample :
    let b : Block := { Block.silent with
      gains := ⟨3072, 4096, 4096, 4096⟩, master := 4096, loud := 5296, r := 64, target := ⟨1024, 4096, 1024, 512⟩ }
    (b.mix [⟨12000, -9000, 0, 0⟩] ⟨1024, 4096, 1024, 512⟩).out = [-8728] ∧
    b.mix [⟨0, 30000, 0, 0⟩] ⟨1024, 4096, 1024, 512⟩ = ⟨[32767], 1, ⟨1024, 4096, 1024, 512⟩⟩ := by decide +kernel

/-- Section 5.13: from 4096 to 1024 with r 64, after 47 and 48 samples. -/
theorem test_ramp : (Nat.repeat (stepDuck 64 1024) 47 4096, Nat.repeat (stepDuck 64 1024) 48 4096) = (1088, 1024) := by decide +kernel

/-- Section 5.13: AUDIO-48 pairs (1001, −2) and (−3, 0), and a last sample without a partner. -/
theorem test_rate_conversion :
    makeSample .audio48 14 [0xE9, 3, 0xFE, 0xFF, 0, 0, 0, 0] 0 = 499 ∧
    makeSample .audio48 14 [0xFD, 0xFF, 0, 0, 0, 0, 0, 0] 0 = -2 ∧
    makeSample .audio48 14 [0, 0, 0, 0, 0xBC, 2, 9, 9] 12 = 700 := by decide +kernel

/-- Section 7.6: fades at e = 260 and e = 333. -/
theorem test_fades : fadeChannel 260 1000 0 200 = 52 ∧ fadeChannel 333 1000 200 0 = 133 := by decide +kernel

/-- Section 7.4, worked composition: the outputs of zones 0, 1, 3, 45 and 46, and in FALLBACK. -/
theorem test_composition :
    let L0 : Layer := ⟨true, [some ⟨200, 100, 50⟩, some ⟨0, 0, 0⟩, some ⟨40, 40, 40⟩, none], .normal, 5, .replace, false, ⟨0, 0, 0⟩⟩
    let L1 : Layer := ⟨true, [some ⟨100, 200, 0⟩, none, some ⟨30, 60, 90⟩], .zoom2, 2, .add, false, ⟨0, 0, 0⟩⟩
    let L2 : Layer := ⟨true, [some ⟨10, 20, 30⟩, some ⟨50, 61, 70⟩, none, none, some ⟨90, 0, 9⟩], .shrink2, 0, .scale, true,
      ⟨128, 128, 128⟩⟩
    let g : Light := { Light.reset with
      layers := (((Light.reset.layers.set 0 L0).set 1 L1).set 2 L2), dim := 128, floorC := ⟨60, 60, 60⟩, fallback := ⟨80, 80, 80⟩ }
    [0, 1, 3, 45, 46].map (g.output 0) = [⟨15, 30, 45⟩, ⟨17, 25, 32⟩, ⟨128, 128, 25⟩, ⟨140, 240, 60⟩, ⟨60, 60, 60⟩] ∧
    [3, 46].map (g.output 1) = [⟨80, 80, 80⟩, ⟨80, 80, 80⟩] := by decide +kernel

/-- Section 1.4, eviction order example: the eviction takes entry 8. -/
theorem test_eviction_order :
    let e := fun (lang : Nat) (st : EntryState) (pin : Bool) (use last : Nat) =>
      (⟨1, .audio24, lang, st, pin, some 0, some 1, 100, use, some (BitVec.ofNat 32 last), none⟩ : Entry)
    let s := ((((((State.reset.onMix fun m => { m with progs := m.progs.modify 2 fun x => { x with on := true, lang := 4 } }).setAct 2
      (some .awake)) |> entry 3 (e 9 .ready false 0 70)) |> entry 8 (e 4 .damaged false 0 90)) |> entry 11 (e 9 .ready true 0 30)) |>
      entry 14 (e 4 .ready false 0 5)) |> entry 27 (e 9 .ready false 0 70)
    s.firstCandidate.map Prod.fst = some 8 ∧
    ((s.onStore fun st => { st with map := st.map.set 8 none }).firstCandidate.map Prod.fst = some 3) := by decide +kernel

/-- R191: a STOP-WRITE of 31 bytes whose language count reads 4 declares 34 and does not decode. -/
theorem test_stop_write_31_bytes :
    stopOf ([5, 1, 0, 0, 0, 2, 0, 0, 0, 0, 4] ++ List.replicate 20 1) = none := by decide +kernel

/-! ## One step of a command or event -/

/-- R32: speed 200 is taken as 120, and OVERSPEED filed with the speed. -/
theorem test_position_overspeed :
    let t := after (.position 0) (held 0 .position [0xE8, 3, 0, 0, 200] State.reset)
    t.route.cursor = ⟨true, 1000, 120, none, some 0⟩ ∧
      ((t.faults.banks.get 2).record.map fun r => (r.kind, r.detail1)) = some (.overspeed, 200) := by decide +kernel

/-- R34: 31 m back is BACKSTEP, and the distance is held. -/
theorem test_position_backstep :
    let t := after (.position 0) (held 0 .position [0xC9, 3, 0, 0, 10] (atDistance 1000 State.reset))
    t.route.cursor.distance = 1000 ∧
      ((t.faults.banks.get 2).record.map fun r => (r.kind, r.detail1, r.detail2)) = some (.backstep, 1000, 969) := by decide +kernel

/-- R36: 262,144 lies above the route. -/
theorem test_jump_too_far :
    reply (after (.jump 0) (held 0 .jump [0, 0, 4, 0] State.reset)) = .ready ⟨7, .badArgument, []⟩ := by decide +kernel

/-- R181: IDENTIFY's first fields, model code 5A31 and 3120. -/
theorem test_identify :
    (match reply (after (.identify 0) (held 0 .identify [] State.reset)) with
      | .ready r => r.payload.take 4
      | _ => []) = [0x31, 0x5A, 0x30, 0x0C] := by decide +kernel

/-- R183: the power-on event leaves the queue and is answered. -/
theorem test_event_read :
    (match reply (after (.eventRead 0) (held 0 .eventRead [16] State.reset)) with
      | .ready r => r.payload
      | _ => []) = [1, 18, 0, 0, 0, 0, 0, 0, 0, 0, 7, 0, 0, 0, 0, 0, 0, 0, 0, 0] := by decide +kernel

/-- R191: an EVENT-MASK that sets bit 0. -/
theorem test_event_mask_bit_0 :
    reply (after (.eventMask 0) (held 0 .eventMask [1, 0, 0] State.reset)) = .ready ⟨7, .badArgument, []⟩ := by decide +kernel

/-- R186, R187: PARK in a quiet hub reaches STANDBY in the same event. -/
theorem test_park_quiet :
    let t := after (.park 0) (held 0 .park [] State.reset)
    (t.ctl.op, t.ctl.hold) = (.standby, some .command) := by decide +kernel

/-- R186: UNPARK in RUN. -/
theorem test_unpark_in_run :
    reply (after (.unpark 0) (held 0 .unpark [] State.reset)) = .ready ⟨7, .refusedState, []⟩ := by decide +kernel

/-- R186: the PARK line holds the park, and its release ends it. -/
theorem test_park_line :
    let t := after .parkLineActive State.reset
    (t.ctl.op, t.ctl.hold, (after .parkLineInactive t).ctl.op) = (.standby, some .line, .run) := by decide +kernel

/-- R12: an odd byte length of an audio clip is refused, of a CUE clip taken. -/
theorem test_load_open_odd_length :
    reply (after (.loadOpen 0) (held 0 .loadOpen [9, 0, 1, 1, 3, 0, 0, 0, 0] State.reset)) = .ready ⟨7, .badArgument, []⟩ ∧
    reply (after (.loadOpen 0) (held 0 .loadOpen [9, 0, 3, 1, 3, 0, 0, 0, 0] State.reset)) = .ready ⟨7, .ok, []⟩ := by decide +kernel

/-- R8: CLIP-PIN of a one-page clip. -/
theorem test_clip_pin :
    let t := after (.clipPin 0) (held 0 .clipPin [9, 0] (entry 5 (clip 9 .audio24) State.reset))
    (t.store.pinTotal, (t.store.map.get 5).map (·.pinned)) = (1, some true) := by decide +kernel

/-- R9: CLIP-DELETE of a clip in use leaves it RETIRING. -/
theorem test_clip_delete_in_use :
    let t := after (.clipDelete 0) (held 0 .clipDelete [9, 0] (entry 5 { clip 9 .audio24 with useCount := 1 } State.reset))
    (t.store.map.get 5).map (·.state) = some .retiring := by decide +kernel

/-- R40: a stop behind the coach is PASSED. -/
theorem test_stop_write_behind :
    let t := after (.stopWrite 0) (held 0 .stopWrite [5, 100, 0, 0, 0, 200, 0, 0, 0, 0, 1, 1, 10, 0, 0, 0, 1, 11, 0, 0, 0, 0, 0]
      (atDistance 200 State.reset))
    (t.route.stops.get 5).map (·.state) = some .passed := by decide +kernel

/-- R46: no next stop. -/
theorem test_stop_request_without_stop :
    reply (after (.stopRequest 0) (held 0 .stopRequest [] State.reset)) = .ready ⟨7, .notFound, []⟩ := by decide +kernel

/-- R47: a stop in AHEAD becomes SKIPPED. -/
theorem test_stop_skip :
    let s := State.reset.onRoute fun r => { r with stops := r.stops.set 3 (some (stop 100 200 .ahead)) }
    ((after (.stopSkip 0) (held 0 .stopSkip [3] s)).route.stops.get 3).map (·.state) = some .skipped := by decide +kernel

/-- R35, R43: the arrival point crossed; a stop in AHEAD whose approach was crossed too is CALLED. -/
theorem test_arrival_crossed :
    let s := atDistance 50 (State.reset.onRoute fun r => { r with stops := r.stops.set 3 (some (stop 100 200 .ahead)) })
    ((after (.position 0) (held 0 .position [200, 0, 0, 0, 40] s)).route.stops.get 3).map (·.state) = some .called := by decide +kernel

/-- R79: an ANNOUNCE of kind APPROACH is refused. -/
theorem test_announce_approach :
    reply (after (.announce 0) (held 0 .announce [0, 0, 0, 0, 1, 11, 0, 0, 0] State.reset)) = .ready ⟨7, .badArgument, []⟩ := by
  decide +kernel

/-- R77, R83: the first announcement has number 1 and becomes current at once. -/
theorem test_announce_first :
    let t := after (.announce 0) (held 0 .announce [3, 0, 0, 0, 1, 11, 0, 0, 0] State.reset)
    reply t = .ready ⟨7, .ok, [1, 0]⟩ ∧ t.ann.current.map (·.phase) = some .leadIn := by decide +kernel

/-- R92, R94: LIVE-ON of GUIDE, and its time-out after 90,000 ms. -/
theorem test_live_on_and_timeout :
    let t := after (.liveOn 0) (held 0 .liveOn [1] State.reset)
    t.ann.live.guide = some ⟨0, 0⟩ ∧
      (after (.liveTimeout .guide) (t.onCtl fun c => { c with time := 90000 })).ann.live.guide = none := by decide +kernel

/-- R96: a frame missing on a channel that is ON is filed once. -/
theorem test_mic_frame_missing :
    let s := State.reset.onAnn fun a => { a with live := ⟨some ⟨0, 0⟩, none⟩ }
    let t := after (.micPeriodEnd .driver none) s
    (t.ann.lost.driver, (t.faults.banks.get 1).record.map (·.kind)) = (true, some .liveInputLost) := by decide +kernel

/-- R103: r is clamped to 1 to 512. -/
theorem test_duck_write_clamps :
    let t := after (.duckWrite 0) (held 0 .duckWrite (List.replicate 18 0xFF ++ [0xFF, 0xFF]) State.reset)
    (t.mix.duck.r, t.mix.duck.announce.commentary) = (512, some 4096) := by decide +kernel

/-- R120: a count of 200 is stored as 80, a holdoff of 65,535 as 60,000. -/
theorem test_seat_config_clamps :
    reply (after (.seatConfig 0) (held 0 .seatConfig [200, 0xFF, 0xFF] State.reset)) = .ready ⟨7, .ok, [80, 0x60, 0xEA]⟩ := by
  decide +kernel

/-- R192: selection 13 is taken as 0, and the seat is IDLE with its plug IN. The CRC was worked out outside the model. -/
theorem test_seat_reply_selection_13 :
    let s := State.reset.onSeat fun k => { k with poll := some ⟨0, false⟩ }
    let x := (after (.seatReply [0, 1, 13, 0x00, 0x2E]) s).seat.seats.get 0
    (x.state, x.selection) = (.idle, 0) := by decide +kernel

/-- R121: the pointer runs round the configured seats. -/
theorem test_poll_pointer_wraps :
    let t := after .pollBegin (State.reset.onSeat fun k => { k with pointer := 79 })
    (t.seat.poll.map (·.seat), t.seat.pointer) = (some 79, 0) := by decide +kernel

/-- R141: LIGHT-SET. -/
theorem test_light_set :
    (after (.lightSet 0) (held 0 .lightSet [128, 1, 2, 3, 4, 5, 6] State.reset)).light.floorC = ⟨1, 2, 3⟩ := by decide +kernel

/-- R137: an offset byte of 120 is refused. -/
theorem test_layer_write_offset_120 :
    reply (after (.layerWrite 0) (held 0 .layerWrite [0, 1, 0, 120, 0, 0, 0, 0, 0, 1, 0, 9, 9, 9] State.reset)) =
      .ready ⟨7, .badArgument, []⟩ := by decide +kernel

/-- R144: a refused frame is LAMP-LINK 0. -/
theorem test_lamp_refusal :
    let t := after (.lampLinkAnswer false) (State.reset.onLight fun g => { g with awaiting := true })
    ((t.faults.banks.get 4).record.map fun r => (r.kind, r.detail1)) = some (.lampLink, 0) := by decide +kernel

/-- R175: a mask that names a kind the LIGHT bank does not hold. -/
theorem test_fault_enable_past_bank :
    reply (after (.faultEnable 0) (held 0 .faultEnable [4, 4] State.reset)) = .ready ⟨7, .badArgument, []⟩ := by decide +kernel

/-- R176: no critical fault is pending. -/
theorem test_fault_resume_not_pending :
    reply (after (.faultResume 0) (held 0 .faultResume [] State.reset)) = .ready ⟨7, .notPending, []⟩ := by decide +kernel

/-- R172: the second critical fault takes the hub into FALLBACK. -/
theorem test_second_critical :
    ((State.reset.fileFault .mapParity 1 0).fileFault .linkParity 2 0).ctl.op = .fallback := by decide +kernel

/-- R181: the time base wraps. -/
theorem test_time_base_wraps :
    (after (.timeBaseTick []) (State.reset.onCtl fun c => { c with time := 0xFFFFFFFF#32 })).ctl.time = 0 := by decide +kernel

/-- R178: a poll reads out a response that waits and leaves the slot EMPTY. -/
theorem test_poll_reads_out :
    let s := State.reset.onPort 0 fun ps => { ps with slot := .ready ⟨3, .badArgument, []⟩ }
    let t := after (.transaction 0 [0xFF, 0xFF]) s
    ((t.ports.get 0).slot, (t.ports.get 0).dout) = (.empty, [0x5A, 3]) := by decide +kernel

/-- R24: a word with one wrong bit is scrubbed: the scrub's completion corrects it. -/
theorem test_scrub_corrects :
    let s := State.reset.onStore fun st => { st with dramErr := setError [] 4 9 (some .single), burst := some ⟨.scrub 4 9 0 20, true⟩ }
    (after (.burstCompletion []) s).store.dramErr = [] := by decide +kernel

/-- R106: a deadline puts 192 samples out. -/
theorem test_block_deadline :
    let s := State.reset.onMix fun m => { m with block := m.block.set 3 (some Block.silent) }
    ((after (.blockDeadline 3) s).mix.out.get 3).length = 192 := by decide +kernel

/-- Section 8.7, order A, step 4: the other port's write has cleared the reservation on the stop since the conditional write was tested. -/
theorem test_conditional_write_lost_at_the_taking :
    (after (.stopRemove 0) (State.reset.onPort 0 fun ps => { ps with slot := .inHand ⟨1, .stopRemove, true, true, [12]⟩ })).ports.get 0 =
      { State.reset.ports.get 0 with slot := .ready ⟨1, .reservationLost, []⟩ } := by decide +kernel

/-- R161: a conditional write whose reservation stands is carried out; here the stop does not exist. -/
theorem test_conditional_write_carried_out :
    (after (.stopRemove 0) (State.reset.onPort 0 fun ps =>
      { ps with slot := .inHand ⟨1, .stopRemove, true, true, [12]⟩, resv := some ⟨.stop, 12⟩ })).ports.get 0 =
      { State.reset.ports.get 0 with slot := .ready ⟨1, .notFound, []⟩ } := by decide +kernel

/-- R99: a former mirror source, DORMANT to the Seat Link, takes that decision from its next block start. -/
theorem test_former_mirror_source_stays_awake :
    let s := (State.reset.onMix fun m => { m with
      progs := (m.progs.modify 0 fun x => { x with mirror := 12 }).modify 12 fun x => { x with on := true } }).onSeat fun k =>
        { k with act := k.act.set 12 (some .dormant) }
    let t := s.onMix fun m => { m with progs := m.progs.modify 0 fun x => { x with mirror := 0 } }
    (t.switchMirror 12 0).storeAwake 12 = true ∧ (after (.blockStart 12) (t.switchMirror 12 0)).storeAwake 12 = false := by decide +kernel

/-! ## Witnesses: states and operands that meet the hypotheses of each obligation, clause by clause, at the boundaries of their ranges -/

/-- Port `p` has command `c` in hand in a state of good parity, and `P` holds of that state and that command. -/
def Sys2Proof.Tests.Meets (p : Port) (c : Command) (bs : List Byte) (s : State) (P : State → InHand → Prop) : Prop :=
  (held p c bs s).holds p c (hand c bs) ∧ (held p c bs s).parityGood ∧ P (held p c bs s) (hand c bs)

theorem Sys2Proof.Tests.held_holds (p : Port) (c : Command) (bs : List Byte) (s : State) :
    (held p c bs s).holds p c (hand c bs) :=
  ⟨by unfold held State.onPort; rw [Tab.get_modify_self], rfl, nofun⟩

theorem Sys2Proof.Tests.meets {p : Port} {c : Command} {bs : List Byte} {s : State} {P : State → InHand → Prop} (g : s.parityGood)
    (h : P (held p c bs s) (hand c bs)) : Meets p c bs s P := ⟨held_holds p c bs s, g, h⟩

theorem Sys2Proof.Tests.good : State.reset.parityGood := ⟨rfl, rfl, rfl⟩

theorem Sys2Proof.Tests.no_entry (n : EntryNo) : State.reset.store.map.get n = none := Tab.get_fill _ _

/-- After reset with one entry, every entry that stands is that one. -/
theorem Sys2Proof.Tests.only_entry (n : EntryNo) (e : Entry) (m : EntryNo) (f : Entry)
    (h : (entry n e State.reset).store.map.get m = some f) : m = n ∧ f = e := by
  have k : (entry n e State.reset).store.map.get m = if n = m then some e else State.reset.store.map.get m := Tab.get_set _ _ _ _
  rw [k] at h
  split at h
  · next q => exact ⟨q.symm, (Option.some.inj h).symm⟩
  · rw [no_entry] at h; cases h

theorem witness_StepTakesTheFrontEvent :
    ({ State.reset with pending := [.pollBegin, .lightFrame] } : State).pending = .pollBegin :: [.lightFrame] ∧ State.reset.pending = [] :=
  ⟨rfl, rfl⟩

theorem witness_FramesReadBackAndDamageIsRefused :
    (List.replicate 400 (0 : Byte)).length ≤ 400 ∧ Command.position.kind = .write ∧
    (∀ h, (State.reset.ports.get 0).slot ≠ .inHand h) ∧ ((0x5A#8 : Byte) ≠ 0xFF#8 ∧ (0x5A#8 : Byte) ≠ 0xA5#8) ∧
    ([] : List Byte).length < 4 ∧ ([1, 2, 3] : List Byte).length < 4 ∧ 400 < (0x91#8 : Byte).toNat + 256 * (1#8 : Byte).toNat ∧
    ([7] : List Byte).length < (0#8 : Byte).toNat + 256 * (0#8 : Byte).toNat + 2 ∧
    ([0, 0] : List Byte) ≠ crcField (1 :: 1 :: (bytesLE 2 0 ++ [])) ∧ (∀ c : Command, c.code ≠ (0x7F#8 : Byte).toNat % 128) ∧
    (∀ c : Command, c.code ≠ (0xFF#8 : Byte).toNat % 128) ∧ Command.cursorRead.kind ≠ .write ∧ Command.reserve.kind ≠ .write :=
  ⟨by decide +kernel, rfl, nofun, by decide, by decide, by decide, by decide, by decide, by decide +kernel, fun c => by cases c <;> decide,
    fun c => by cases c <;> decide, by decide, by decide⟩

theorem witness_TransactionsFollowTheSlot :
    (∀ h, (State.reset.ports.get 2).slot ≠ .inHand h) ∧ (State.reset.ports.get 2).slot = .empty ∧
    ((held 1 .jump [] State.reset).ports.get 1).slot = .inHand (hand .jump []) ∧
    (∃ s r, ((State.reset.onPort 0 fun ps => { ps with slot := .ready s }).ports.get 0).slot = .ready r ∧
      (6 : Nat) < 7 ∧ 6 < (responseBytes r).length) :=
  ⟨nofun, rfl, (held_holds _ _ _ _).1, ⟨7, .ok, []⟩, ⟨7, .ok, []⟩, by decide +kernel⟩

theorem witness_ConditionalWritesAreTested :
    (∃ s : State, ∃ h r, (s.ports.get 0).slot = .inHand h ∧ h.conditional = true ∧ h.tested = false ∧ s.targetOf h = some r ∧
      (s.ports.get 0).resv = some r) ∧
    (∃ s : State, ∃ h, (s.ports.get 0).slot = .inHand h ∧ h.conditional = true ∧ h.tested = false ∧
      ∀ r, s.targetOf h = some r → (s.ports.get 0).resv ≠ some r) ∧
    (∃ s : State, ∃ h, (s.ports.get 0).slot = .inHand h ∧ h.conditional = true ∧ h.tested = true ∧ s.store.noted = [] ∧
      (∀ r, s.targetOf h = some r → (s.ports.get 0).resv ≠ some r) ∧ h.command = .stopRemove) ∧
    (Command.announce.kind = .write ∧ Command.announce ∉ [Command.position, .jump, .routeClear, .stopWrite, .stopRemove, .stopSkip,
      .stopRequest, .segmentWrite, .segmentRemove, .programmeWrite, .duckWrite, .loudnessWrite, .layerWrite, .seatConfig]) :=
  ⟨⟨State.reset.onPort 0 fun ps => { ps with slot := .inHand ⟨1, .stopRemove, true, false, [63]⟩, resv := some ⟨.stop, 63⟩ },
      ⟨1, .stopRemove, true, false, [63]⟩, ⟨.stop, 63⟩, by decide +kernel⟩,
    ⟨State.reset.onPort 0 fun ps => { ps with slot := .inHand ⟨1, .stopRemove, true, false, [64]⟩, resv := some ⟨.stop, 63⟩ },
      ⟨1, .stopRemove, true, false, [64]⟩, by decide +kernel, rfl, rfl, by
        intro r h
        have k : State.targetOf (State.reset.onPort 0 fun ps =>
          { ps with slot := .inHand ⟨1, .stopRemove, true, false, [64]⟩, resv := some ⟨.stop, 63⟩ })
          ⟨1, .stopRemove, true, false, [64]⟩ = none := by decide +kernel
        rw [k] at h; cases h⟩,
    ⟨State.reset.onPort 0 fun ps => { ps with slot := .inHand ⟨1, .stopRemove, true, true, [63]⟩ },
      ⟨1, .stopRemove, true, true, [63]⟩, by decide +kernel, rfl, rfl, rfl, fun _ _ => nofun, rfl⟩,
    by decide⟩

theorem witness_ReserveAnswersTheRecord :
    Meets 0 .reserve [1, 63] State.reset (fun _ h => h.payload = [1, 63] ∧ recClassOf 1 = some .stop ∧ 63 < recClassSize .stop) ∧
    Meets 0 .reserve [0, 0] State.reset (fun _ h => h.payload = [0, 0] ∧ recClassOf 0 = some .cursor ∧ 0 < recClassSize .cursor) ∧
    Meets 0 .reserve [1, 64] State.reset (fun _ h => ∀ (b i : Byte) (c : RecClass), h.payload = [b, i] → recClassOf b.toNat = some c →
      recClassSize c ≤ i.toNat) :=
  ⟨meets good (by decide), meets good (by decide), meets good (by
    intro b i c h k
    cases h
    obtain rfl : c = .stop := (Option.some.inj (k.symm.trans (by decide : recClassOf (1 : Byte).toNat = some .stop)))
    decide)⟩

theorem witness_StandingReservationGuardsItsRecord :
    let s := State.reset.onPort 0 fun ps => { ps with resv := some ⟨.stop, 63⟩ }
    (⟨.stop, 63⟩ : RecName).idx < recClassSize .stop ∧ ∃ t, exec .pollBegin s = .next t ∧
      (s.ports.get 0).resv = some ⟨.stop, 63⟩ ∧ (t.ports.get 0).resv = some ⟨.stop, 63⟩ :=
  ⟨by decide, _, rfl, rfl, rfl⟩

theorem witness_EventsArePostedAndSignalled :
    (∀ b ∈ ([1, 16] : List Byte), Meets 0 .eventRead [b] State.reset fun s h =>
      h.payload = [b] ∧ 1 ≤ b.toNat ∧ b.toNat ≤ 16 ∧ (s.ports.get 0).queue.length ≤ b.toNat) ∧
    (State.reset.ports.get 0).mask.getLsbD (eventKindCode .stateChanged) = true := by
  refine ⟨fun b hb => ?_, by decide⟩
  rcases List.mem_pair.1 hb with rfl | rfl
  · exact meets good (by decide +kernel)
  · exact meets good (by decide +kernel)

theorem witness_EventCommandsActOnTheirPort :
    Meets 0 .eventRead [1] State.reset (fun _ h => h.payload = [1] ∧ 1 ≤ (1 : Byte).toNat) ∧
    Meets 0 .eventRead [16] State.reset (fun _ h => h.payload = [16] ∧ (16 : Byte).toNat ≤ 16) ∧
    Meets 0 .eventRead [17] State.reset (fun _ h => ∀ b : Byte, h.payload = [b] → b.toNat = 0 ∨ 16 < b.toNat) ∧
    Meets 0 .eventRead [0] State.reset (fun _ h => ∀ b : Byte, h.payload = [b] → b.toNat = 0 ∨ 16 < b.toNat) ∧
    Meets 0 .eventMask [0xFE, 0xFF, 7] State.reset (fun _ h => h.payload = [0xFE, 0xFF, 7] ∧ (0xFE : Byte).getLsbD 0 = false ∧
      (7 : Byte).toNat < 8) ∧
    Meets 0 .eventMask [0, 0, 8] State.reset (fun _ h => ∀ b0 b1 b2 : Byte, h.payload = [b0, b1, b2] →
      b0.getLsbD 0 = true ∨ 8 ≤ b2.toNat) :=
  ⟨meets good (by decide), meets good (by decide), meets good (by intro b h; cases h; decide), meets good (by intro b h; cases h; decide),
    meets good (by decide), meets good (by intro b0 b1 b2 h; cases h; decide)⟩

theorem witness_PlainReadsAnswer :
    ∀ c ∈ [Command.cursorRead, .duckRead, .loudnessRead, .seatSummary, .announceRead, .lightStatus, .reservationRead, .storeStatus,
      .identify], Meets 1 c [] State.reset (fun _ h => h.payload = []) ∧ Meets 1 c [0] State.reset (fun _ h => h.payload ≠ []) :=
  fun _ _ => ⟨meets good rfl, meets good nofun⟩

/-- One payload byte that lies outside a range of indices. -/
theorem Sys2Proof.Tests.past (n : Nat) (b : Byte) (h : n ≤ b.toNat) (_ : n ≤ 256) (i : Fin n) : [b] ≠ [byteOf i.val] := by
  intro e
  have e := (List.cons.inj e).1
  subst e
  have : (byteOf i.val).toNat = i.val := by
    unfold byteOf
    rw [BitVec.toNat_ofNat]
    exact Nat.mod_eq_of_lt (by omega)
  omega

theorem witness_RecordReadsAnswer :
    (∀ x ∈ [(Command.stopRead, 64), (.segmentRead, 256), (.layerRead, 4), (.programmeRead, 13), (.seatRead, 80), (.faultRead, 6)],
      Meets 0 x.1 [byteOf (x.2 - 1)] State.reset (fun _ h => h.payload = [byteOf (x.2 - 1)]) ∧
      Meets 0 x.1 [] State.reset (fun _ h => ∀ i : Fin x.2, h.payload ≠ [byteOf i.val])) ∧
    Meets 0 .stopRead [64] State.reset (fun _ h => ∀ i : Fin 64, h.payload ≠ [byteOf i.val]) ∧
    Meets 0 .commentaryRead [12] State.reset (fun _ h => (12 : Prog) ≠ 0 ∧ h.payload = [byteOf (12 : Prog).val]) ∧
    Meets 0 .commentaryRead [0] State.reset (fun _ h => ∀ i : Prog, i ≠ 0 → h.payload ≠ [byteOf i.val]) ∧
    Meets 0 .clipQuery [9, 0] State.reset (fun _ h => h.payload = [9, 0]) ∧
    Meets 0 .clipQuery [9] State.reset (fun _ h => h.payload.length ≠ 2) :=
  ⟨fun _ _ => ⟨meets good rfl, meets good fun _ => nofun⟩, meets good (past 64 64 (by decide) (by decide)), meets good (by decide),
    meets good (fun i h => by revert h; revert i; decide), meets good rfl, meets good (by decide)⟩

theorem witness_RecordsReadBackAsWritten :
    (stop 262143 262143 .called).a < 2 ^ 32 ∧ stopBytes 63 (some (stop 1 2 .called)) =
      [63, 1, 0, 0, 0, 2, 0, 0, 0, 2, 1, 1, 10, 0, 0, 0, 1, 11, 0, 0, 0, 0, 0] ++ [0, 2] ∧
    segmentBytes 255 (some (segment 1 .missed)) = [255, 1, 0, 0, 0, 100, 0, 1, 0, 1, 1, 20, 0, 0, 0] ++ [3, 0, 0] ∧
    (ProgRec.reset 12).lang < 256 ∧ (DuckTable.reset.announce.announce = none ∧ DuckTable.reset.liveDriver.live = none ∧
      DuckTable.reset.liveGuide.live = none ∧ (∀ v, v ≠ .announce → (DuckTable.reset.announce.get v).isSome = true) ∧
      (∀ v, v ≠ .live → (DuckTable.reset.liveDriver.get v).isSome = true) ∧ DuckTable.reset.r < 65536) ∧
    Loudness.reset.pa.lmax < 65536 ∧ (List.replicate 96 (none : Cell)).length ≤ 96 :=
  ⟨by decide, by decide +kernel, by decide +kernel, by decide, ⟨rfl, rfl, rfl, fun v => by cases v <;> decide, fun v => by cases v <;> decide,
    by decide⟩, by decide, by decide⟩

theorem witness_LookupsAndFreedChains :
    (∃ st : Store, st.badMap = [] ∧ ∀ n e, st.map.get n = some e → ¬(e.standing = true ∧ e.clip = 9)) ∧
    (∀ x ∈ [EntryState.damaged, .ready], ∃ st : Store, ∃ n e, st.badMap = [] ∧ st.map.get n = some e ∧ e.clip = 9 ∧ e.state = x ∧
      (∀ m, m < n → ∀ f, st.map.get m = some f → ¬(f.standing = true ∧ f.clip = 9)) ∧ audioKind e.kind = true) ∧
    audioKind ClipKind.cue = false ∧
    (∃ st : Store, st.badMap = [] ∧ st.badLinks = [] ∧ sparseWf Link.free st.links = true ∧
      ∃ n e, st.map.get n = some e ∧ (e.state ≠ .retiring ∨ 1 < e.useCount)) ∧
    (∃ st : Store, st.badMap = [] ∧ st.badLinks = [] ∧ sparseWf Link.free st.links = true ∧
      ∃ n e, st.map.get n = some e ∧ e.state = .retiring ∧ e.useCount ≤ 1) := by
  refine ⟨⟨Store.reset, rfl, fun n e h => ?_⟩, fun x _ => ⟨(entry 191 { clip 9 .audio24 with state := x } State.reset).store, 191, _, rfl,
    Tab.get_set_self _ _ _, rfl, rfl, fun m h f k => ?_, rfl⟩, rfl,
    ⟨(entry 0 { clip 9 .audio24 with state := .retiring, useCount := 2 } State.reset).store, rfl, rfl, rfl, 0, _, Tab.get_set_self _ _ _,
      .inr (by decide)⟩,
    ⟨(entry 0 { clip 9 .audio24 with state := .retiring, useCount := 1 } State.reset).store, rfl, rfl, rfl, 0, _, Tab.get_set_self _ _ _,
      rfl, by decide⟩⟩
  · rw [show Store.reset.map.get n = none from no_entry n] at h; cases h
  · rw [(only_entry _ _ _ _ k).1] at h; exact absurd h (lt_irrefl _)

theorem witness_EvictionTakesTheFirstCandidate :
    (State.reset.store.badMap = [] ∧ ∀ n e, State.reset.store.map.get n = some e → e.candidate = false) ∧
    ∃ s : State, ∃ n e, s.store.badMap = [] ∧ s.store.map.get n = some e ∧ e.candidate = true :=
  ⟨⟨rfl, fun n e h => by rw [no_entry] at h; cases h⟩, entry 8 (clip 9 .audio24) State.reset, 8, _, rfl, Tab.get_set_self _ _ _, rfl⟩

theorem witness_LoadOpenTakesASlot :
    let legal := fun (clip len lang : Nat) (kind : ClipKind) =>
      clip ≠ 0 ∧ lang ≤ 63 ∧ 1 ≤ len ∧ len ≤ 4194304 ∧ (kind = .cue ∨ len % 2 = 0)
    Meets 0 .loadOpen [9, 0] State.reset (fun s h => h.payload.length ≠ 9 ∧ s.store.slots.get 0 = .closed) ∧
    Meets 0 .loadOpen [9, 0, 1, 63, 0, 0, 64, 0, 1] State.reset (fun s h =>
      h.payload = [9, 0, byteOf (clipKindCode .audio24), 63, 0, 0, 64, 0, flagByte true] ∧ s.store.slots.get 0 = .closed ∧
      legal 9 4194304 63 .audio24 ∧ s.store.map.get 0 = none ∧
      ¬((∃ q, q ≠ 0 ∧ ∃ x, (s.store.slots.get q).load = some x ∧ x.clip = 9) ∨
        ∃ n e, s.store.map.get n = some e ∧ e.state = .retiring ∧ e.clip = 9)) ∧
    ¬legal 9 4194305 63 .audio24 ∧ ¬legal 9 4194304 64 .audio24 ∧ ¬legal 9 0 0 .cue ∧ legal 9 1 0 .cue ∧
    (∃ s : State, s.parityGood ∧ s.store.slots.get 0 ≠ .closed) ∧
    (∃ s : State, s.parityGood ∧ s.store.slots.get 0 = .closed ∧ ∃ n e, s.store.map.get n = some e ∧ e.state = .retiring ∧ e.clip = 9) ∧
    (∃ s : State, s.parityGood ∧ s.store.slots.get 0 = .closed ∧ ∀ n, ∃ e, s.store.map.get n = some e ∧ e.candidate = false) ∧
    (∃ s : State, s.parityGood ∧ s.store.slots.get 0 = .closed ∧ (∀ n, s.store.map.get n ≠ none) ∧
      ∃ n e, s.store.map.get n = some e ∧ e.candidate = true) := by
  refine ⟨meets good (by decide), meets good ⟨rfl, by decide, by decide +kernel, no_entry 0, ?_⟩, by decide, by decide, by decide, by decide,
    ⟨State.reset.onStore fun st => { st with slots := st.slots.set 0 (.opened ⟨0, 9, .cue, 1, false, 0, none⟩) }, ⟨rfl, rfl, rfl⟩, nofun⟩,
    ⟨entry 3 { clip 9 .audio24 with state := .retiring, useCount := 1 } State.reset, ⟨rfl, rfl, rfl⟩, rfl, 3, _, Tab.get_set_self _ _ _,
      rfl, rfl⟩,
    ⟨State.reset.onStore fun st => { st with map := Tab.fill 192 (some { clip 8 .audio24 with useCount := 1 }) }, ⟨rfl, rfl, rfl⟩, rfl,
      fun n => ⟨_, Tab.get_fill _ _, rfl⟩⟩,
    ⟨State.reset.onStore fun st => { st with map := Tab.fill 192 (some (clip 8 .audio24)) }, ⟨rfl, rfl, rfl⟩, rfl,
      fun n h => (nomatch (Tab.get_fill (some (clip 8 .audio24)) n).symm.trans h), 0, _, Tab.get_fill _ _, rfl⟩⟩
  rintro (⟨q, -, x, h, -⟩ | ⟨n, e, h, -⟩)
  · rw [show (held 0 .loadOpen [9, 0, 1, 63, 0, 0, 64, 0, 1] State.reset).store.slots.get q = .closed from Tab.get_fill _ _] at h; cases h
  · rw [show (held 0 .loadOpen [9, 0, 1, 63, 0, 0, 64, 0, 1] State.reset).store.map.get n = none from no_entry n] at h; cases h

/-- A state with an OPEN load slot on port 0 that has received `got` bytes of `len`, on a chain of page 7. -/
def Sys2Proof.Tests.loading (got len : Nat) (chain : Option Chain) : State :=
  (entry 0 { clip 9 .audio24 with state := .loading, firstPage := none, pageCount := none, lastUse := none, loader := some 0 }
    State.reset).onStore fun st => { st with
      slots := st.slots.set 0 (.opened ⟨0, 9, .audio24, len, false, got, chain⟩)
      links := [(7, .last)], freeList := [8, 9] }

theorem Sys2Proof.Tests.loading_good (got len : Nat) (chain : Option Chain) : (loading got len chain).parityGood := ⟨rfl, rfl, rfl⟩

theorem Sys2Proof.Tests.loading_slot (got len : Nat) (chain : Option Chain) :
    (loading got len chain).store.slots.get 0 = .opened ⟨0, 9, .audio24, len, false, got, chain⟩ := Tab.get_set_self _ _ _

theorem witness_LoadDataFillsLinesAndPages :
    Meets 0 .loadData [0, 0, 0, 0, 1] State.reset (fun s _ => ∀ l, s.store.slots.get 0 ≠ .opened l) ∧
    (∀ bs ∈ [[0, 0, 0, 0], List.replicate 261 (0 : Byte)], Meets 0 .loadData bs (loading 0 600 none) (fun s h =>
      (∃ l, s.store.slots.get 0 = .opened l) ∧ (h.payload.length < 5 ∨ 260 < h.payload.length))) ∧
    Meets 0 .loadData [1, 0, 0, 0, 5] (loading 0 600 none) (fun s h => ∃ l, s.store.slots.get 0 = .opened l ∧ h.payload = 1 :: 0 :: 0 :: 0 :: [5] ∧
      natLE [1, 0, 0, 0] ≠ l.received) ∧
    Meets 0 .loadData [0, 0, 0, 0, 5, 6, 7] (loading 0 2 none) (fun s _ => ∃ l, s.store.slots.get 0 = .opened l ∧
      natLE [0, 0, 0, 0] = l.received ∧ l.len < natLE [0, 0, 0, 0] + 3) ∧
    Meets 0 .loadData [62, 0, 0, 0, 5, 6] (loading 62 64 (some ⟨7, 7, 1⟩)) (fun s _ => ∃ l c, s.store.slots.get 0 = .opened l ∧
      l.chain = some c ∧ natLE [62, 0, 0, 0] = l.received ∧ 62 + 2 ≤ l.len ∧ 62 / 4096 < c.count ∧
      (s.store.chain c.first)[62 / 4096]? = some 7 ∧ 62 % 64 + 2 ≤ 64 ∧ s.store.filling.length + s.store.eligible.length < 4) ∧
    Meets 0 .loadData [0, 16, 0, 0, 5, 6] (loading 4096 4098 (some ⟨7, 7, 1⟩)) (fun s _ => ∃ l c, s.store.slots.get 0 = .opened l ∧
      l.chain = some c ∧ sparseWf Link.free s.store.links = true ∧ natLE [0, 16, 0, 0] = l.received ∧
      (4096 + 2 - 1) / 64 + 1 - 4096 / 64 + s.store.filling.length + s.store.eligible.length ≤ 4 ∧ c.count ≤ (4096 + 2 - 1) / 4096 ∧
      ∃ q rest, s.store.freeList = q :: rest ∧ c.last ≠ q) :=
  ⟨meets good (fun l h => by
      rw [show (held 0 .loadData [0, 0, 0, 0, 1] State.reset).store.slots.get 0 = .closed from Tab.get_fill _ _] at h; cases h),
    fun bs h => by
      rcases List.mem_pair.1 h with rfl | rfl
      · exact meets (loading_good _ _ _) ⟨⟨_, loading_slot _ _ _⟩, .inl (by decide)⟩
      · exact meets (loading_good _ _ _) ⟨⟨_, loading_slot _ _ _⟩, .inr (by rw [show (hand .loadData (List.replicate 261 0)).payload.length = 261 from List.length_replicate]; decide)⟩,
    meets (loading_good _ _ _) ⟨_, loading_slot _ _ _, rfl, by decide⟩,
    meets (loading_good _ _ _) ⟨_, loading_slot _ _ _, by decide, by decide⟩,
    meets (loading_good _ _ _) ⟨_, ⟨7, 7, 1⟩, loading_slot _ _ _, rfl, by decide, by decide, by decide, by decide +kernel, by decide, by decide⟩,
    meets (loading_good _ _ _) ⟨_, ⟨7, 7, 1⟩, loading_slot _ _ _, rfl, by decide +kernel, by decide, by decide, by decide, 8, [9], rfl, by decide⟩⟩

theorem witness_LoadsAreClosedAndAborted :
    Meets 0 .loadClose [0] State.reset (fun _ h => h.payload ≠ []) ∧
    Meets 0 .loadClose [] (loading 63 64 none) (fun s h => h.payload = [] ∧ ∃ l, s.store.slots.get 0 = .opened l ∧ l.received < l.len) ∧
    Meets 0 .loadClose [] (loading 64 64 (some ⟨7, 7, 1⟩)) (fun s _ => ∃ l e, s.store.slots.get 0 = .opened l ∧ l.len ≤ l.received ∧
      s.store.pendingOf 0 = [] ∧ s.store.map.get l.entry = some e ∧ e.state = .loading ∧
      ∀ n f, s.store.map.get n = some f → f.state = .ready ∨ f.state = .damaged → f.clip ≠ l.clip) ∧
    Meets 0 .loadClose [] (entry 5 (clip 9 .audio24) (loading 64 64 (some ⟨7, 7, 1⟩))) (fun s _ => ∃ l n f, s.store.slots.get 0 = .opened l ∧
      s.store.map.get n = some f ∧ f.state = .ready ∧ f.clip = l.clip) ∧
    Meets 0 .loadAbort [] (loading 64 64 (some ⟨7, 7, 1⟩)) (fun s _ => ∃ l e, s.store.slots.get 0 = .opened l ∧
      s.store.map.get l.entry = some e ∧ e.firstPage = none) ∧
    Meets 0 .loadAbort [] State.reset (fun s _ => s.store.slots.get 0 = .closed) ∧
    (∃ s : State, s.parityGood ∧ ∃ l, s.store.slots.get 0 = .closing l) :=
  ⟨meets good nofun, meets (loading_good _ _ _) ⟨rfl, _, loading_slot _ _ _, by decide⟩,
    meets (loading_good _ _ _) ⟨_, _, loading_slot _ _ _, by decide, rfl, Tab.get_set_self _ _ _, rfl, fun n f h k => by
      rw [(only_entry 0 _ n f h).2] at k; rcases k with k | k <;> cases k⟩,
    meets ⟨rfl, rfl, rfl⟩ ⟨_, 5, _, loading_slot _ _ _, Tab.get_set_self _ _ _, rfl, rfl⟩,
    meets (loading_good _ _ _) ⟨_, _, loading_slot _ _ _, Tab.get_set_self _ _ _, rfl⟩,
    meets good rfl,
    ⟨State.reset.onStore fun st => { st with slots := st.slots.set 0 (.closing ⟨0, 9, .cue, 1, false, 1, none⟩) }, ⟨rfl, rfl, rfl⟩, _, rfl⟩⟩

theorem witness_ClipsAreDeletedAndPinned :
    (∀ c ∈ [Command.clipDelete, .clipPin, .clipUnpin], Meets 0 c [9, 0] (entry 5 (clip 9 .audio24) State.reset) (fun s h =>
      h.payload = [9, 0] ∧ ∃ e, s.store.map.get 5 = some e ∧ e.state = .ready ∧ e.clip = natLE [9, 0] ∧ e.useCount = 0 ∧ e.pinned = false ∧
      s.store.pinTotal + e.pageCount.getD 0 ≤ 3072 ∧
      ∀ m f, m ≠ 5 → s.store.map.get m = some f → f.state = .ready ∨ f.state = .damaged → f.clip ≠ natLE [9, 0])) ∧
    Meets 0 .clipPin [9, 0] ((entry 5 (clip 9 .audio24) State.reset).onStore fun st => { st with pinTotal := 3072 }) (fun s _ =>
      ∃ e, s.store.map.get 5 = some e ∧ e.pinned = false ∧ 3072 < s.store.pinTotal + e.pageCount.getD 0) ∧
    Meets 0 .clipPin [9, 0] ((entry 5 (clip 9 .audio24) State.reset).onStore fun st => { st with pinTotal := 3071 }) (fun s _ =>
      ∃ e, s.store.map.get 5 = some e ∧ e.pinned = false ∧ s.store.pinTotal + e.pageCount.getD 0 ≤ 3072) ∧
    Meets 0 .clipDelete [9, 0] (entry 5 { clip 9 .audio24 with useCount := 1, pinned := true } State.reset) (fun s _ =>
      ∃ e, s.store.map.get 5 = some e ∧ e.useCount ≠ 0 ∧ e.pinned = true) ∧
    Meets 0 .clipDelete [9, 0] State.reset (fun s h => h.payload = [9, 0] ∧ ∀ m f, s.store.map.get m = some f →
      f.state = .ready ∨ f.state = .damaged → f.clip ≠ natLE [9, 0]) ∧
    Meets 0 .clipUnpin [9] State.reset (fun _ h => h.payload.length ≠ 2) :=
  ⟨fun _ _ => meets ⟨rfl, rfl, rfl⟩ ⟨rfl, _, Tab.get_set_self _ _ _, rfl, by decide, rfl, rfl, Nat.le_of_ble_eq_true rfl, fun m f h k =>
      absurd (only_entry 5 _ m f k).1 h⟩,
    meets ⟨rfl, rfl, rfl⟩ ⟨_, Tab.get_set_self _ _ _, rfl, by decide⟩, meets ⟨rfl, rfl, rfl⟩ ⟨_, Tab.get_set_self _ _ _, rfl, by decide⟩,
    meets ⟨rfl, rfl, rfl⟩ ⟨_, Tab.get_set_self _ _ _, by decide, rfl⟩,
    meets good ⟨rfl, fun m f h => by rw [show (held 0 .clipDelete [9, 0] State.reset).store.map.get m = none from no_entry m] at h; cases h⟩,
    meets good (by decide)⟩

/-- After reset no block is in progress. -/
theorem Sys2Proof.Tests.no_block (q : Prog) (c : Block) (h : State.reset.mix.block.get q = some c) : c.want = [] := by
  rw [show State.reset.mix.block.get q = none from Tab.get_fill _ _] at h; cases h

/-- After reset every cue player is STOPPED. -/
theorem Sys2Proof.Tests.no_player (j : PlayerNo) (z : Player) (h : State.reset.light.players.get j = some z) : z.want = [] := by
  rw [show State.reset.light.players.get j = none from Tab.get_fill _ _] at h; cases h

/-- A cue player that waits for a line. -/
def Sys2Proof.Tests.player : Player := Player.begin ⟨0, 9, .cue, 100, 7⟩

/-- A line of the write buffer, of port 0's load. -/
def Sys2Proof.Tests.wline : WriteLine := ⟨some 0, 7, 63, List.replicate 64 5, 64⟩

theorem witness_GrantsGoByPriority :
    (∃ s : State, s.parityGood ∧ s.store.burst ≠ none) ∧
    (∃ s : State, s.parityGood ∧ s.store.burst = none ∧ ∃ b v r rest x, s.mix.block.get 0 = some b ∧ b.want = (v, r) :: rest ∧
      b.src.get v = some x ∧ ∀ q, q < (0 : Prog) → ∀ c, s.mix.block.get q = some c → c.want = []) ∧
    (∃ s : State, s.parityGood ∧ s.store.burst = none ∧ (∀ q c, s.mix.block.get q = some c → c.want = []) ∧
      ∃ y r rest, s.light.players.get 0 = some y ∧ y.want = r :: rest) ∧
    (∃ s : State, s.parityGood ∧ s.store.burst = none ∧ (∀ q c, s.mix.block.get q = some c → c.want = []) ∧
      (∀ j z, s.light.players.get j = some z → z.want = []) ∧ (∃ page w rest, s.store.scrub = (page, w) :: rest ∧
        linkOf s.store.links page ≠ .free ∧ ∃ e, s.store.map.get 0 = some e ∧ e.state ≠ .loading ∧
          ∃ q, e.firstPage = some q ∧ page ∈ s.store.chain q)) ∧
    (∃ s : State, s.parityGood ∧ s.store.burst = none ∧ (∀ q c, s.mix.block.get q = some c → c.want = []) ∧
      (∀ j z, s.light.players.get j = some z → z.want = []) ∧ (∃ page w rest, s.store.scrub = (page, w) :: rest ∧
        ∀ n e, s.store.map.get n ≠ some e)) ∧
    (∃ s : State, s.parityGood ∧ s.store.burst = none ∧ s.store.scrub = [] ∧ ∃ w rest, s.store.eligible = w :: rest) ∧
    (State.reset.parityGood ∧ State.reset.store.burst = none ∧ State.reset.store.scrub = [] ∧ State.reset.store.eligible = []) :=
  ⟨⟨State.reset.onStore fun st => { st with burst := some ⟨.drain wline, true⟩ }, ⟨rfl, rfl, rfl⟩, nofun⟩,
    ⟨State.reset.onMix fun m => { m with block := m.block.set 0 (some { Block.silent with
        want := [(.bed, ⟨0, 7, 0⟩)], src := ⟨none, none, none, some ⟨⟨0, 9, .audio24, 100, 7⟩, 0⟩⟩ }) }, good, rfl,
      _, _, _, _, _, Tab.get_set_self _ _ _, rfl, rfl, fun q h => absurd h (Nat.not_lt_zero _)⟩,
    ⟨State.reset.onLight fun g => { g with players := g.players.set 0 (some { player with want := [⟨0, 7, 0⟩] }) }, good, rfl, no_block,
      _, _, _, Tab.get_set_self _ _ _, rfl⟩,
    ⟨(entry 0 { clip 9 .cue with firstPage := some 7 } State.reset).onStore fun st => { st with links := [(7, .last)], scrub := [(7, 511)] },
      ⟨rfl, rfl, rfl⟩, rfl, no_block, no_player, 7, 511, [], rfl, by decide, _, Tab.get_set_self _ _ _, by decide, 7, rfl,
      by decide +kernel⟩,
    ⟨State.reset.onStore fun st => { st with scrub := [(7, 0)] }, ⟨rfl, rfl, rfl⟩, rfl, no_block, no_player, 7, 0, [], rfl,
      fun n e h => by
        rw [show (State.reset.onStore fun st => { st with scrub := [(7, 0)] }).store.map.get n = none from no_entry n] at h; cases h⟩,
    ⟨State.reset.onStore fun st => { st with eligible := [wline] }, ⟨rfl, rfl, rfl⟩, rfl, rfl, _, _, rfl⟩,
    ⟨good, rfl, rfl, rfl⟩⟩

theorem witness_DrainsWriteAndCompleteALoad :
    ∃ s : State, ∃ w rest l e, s.parityGood ∧ s.store.burst = some ⟨.drain w, true⟩ ∧ s.store.eligible = w :: rest ∧ w.data.length = 64 ∧
      Memory.wf s.store.dram = true ∧ sparseWf none s.store.dramErr = true ∧ w.slot = some 0 ∧ s.store.slots.get 0 = .closing l ∧
      (∀ x ∈ s.store.filling ++ rest, x.slot ≠ some 0) ∧ s.store.map.get l.entry = some e ∧ e.state = .loading :=
  ⟨(loading 64 64 (some ⟨7, 7, 1⟩)).onStore fun st => { st with
      burst := some ⟨.drain wline, true⟩, eligible := [wline], slots := st.slots.set 0 (.closing ⟨0, 9, .audio24, 64, false, 64, some ⟨7, 7, 1⟩⟩) },
    wline, [], _, _, ⟨rfl, rfl, rfl⟩, rfl, rfl, by decide, rfl, rfl, rfl, Tab.get_set_self _ _ _, nofun, Tab.get_set_self _ _ _, rfl⟩

theorem witness_FetchesAndScrubsReadTheDram :
    (∃ s : State, ∃ x r b, s.store.noted = [] ∧ s.store.burst = some ⟨.fetch 12 .bed x r, true⟩ ∧
      (∀ i : Fin 8, errorOf s.store.dramErr r.page (r.line.val * 8 + i.val) = none) ∧ s.mix.block.get 12 = some b) ∧
    (∃ s : State, ∃ x r y, s.store.noted = [] ∧ s.store.burst = some ⟨.cue 2 x r, true⟩ ∧
      (∀ i : Fin 8, errorOf s.store.dramErr r.page (r.line.val * 8 + i.val) = none) ∧ s.light.players.get 2 = some y ∧ y.want ≠ []) ∧
    (∃ s : State, ∃ b, s.store.noted = [] ∧ s.store.burst = some b ∧ b.wanted = false ∧ ∀ w, b.job ≠ .drain w) ∧
    (∀ err ∈ [none, some WordError.single, some .double], ∃ s : State, ∃ e, s.parityGood ∧
      s.store.burst = some ⟨.scrub 4095 511 0 9, true⟩ ∧ s.store.readError [] 4095 511 = err ∧ s.store.map.get 0 = some e ∧
      e.state = .ready ∧ e.clip = 9) := by
  refine ⟨⟨(State.reset.onStore fun st => { st with burst := some ⟨.fetch 12 .bed ⟨0, 9, .audio24, 100, 7⟩ ⟨0, 7, 63⟩, true⟩ }).onMix
      fun m => { m with block := m.block.set 12 (some Block.silent) }, _, _, _, rfl, rfl, fun _ => rfl, Tab.get_set_self _ _ _⟩,
    ⟨(State.reset.onStore fun st => { st with burst := some ⟨.cue 2 ⟨0, 9, .cue, 100, 7⟩ ⟨0, 7, 0⟩, true⟩ }).onLight fun g =>
      { g with players := g.players.set 2 (some { player with want := [⟨1, 7, 1⟩] }) }, _, _, _, rfl, rfl, fun _ => rfl,
      Tab.get_set_self _ _ _, nofun⟩,
    ⟨State.reset.onStore fun st => { st with burst := some ⟨.cue 2 ⟨0, 9, .cue, 100, 7⟩ ⟨0, 7, 0⟩, false⟩ }, _, rfl, rfl, rfl, nofun⟩, ?_⟩
  intro err h
  refine ⟨(entry 0 (clip 9 .audio24) State.reset).onStore fun st =>
    { st with burst := some ⟨.scrub 4095 511 0 9, true⟩, dramErr := err.toList.map fun x => (4095 * 512 + 511, some x) }, clip 9 .audio24, ⟨rfl, rfl, rfl⟩, rfl, ?_, Tab.get_set_self _ _ _, rfl, rfl⟩
  simp only [List.mem_cons, List.not_mem_nil, or_false] at h
  rcases h with rfl | rfl | rfl <;> decide +kernel

theorem witness_ReadsAreChecked :
    ∀ err ∈ [none, some WordError.single, some .double], ∃ s : State, ∃ e, s.store.badMap = [] ∧
      s.store.readError [] 7 (wordOfLine 63 7) = err ∧ s.store.map.get 0 = some e ∧ e.state = .ready ∧ e.clip = 9 := by
  intro err h
  refine ⟨(entry 0 (clip 9 .audio24) State.reset).onStore fun st => { st with dramErr := err.toList.map fun x => (7 * 512 + 511, some x) }, clip 9 .audio24, rfl, ?_, Tab.get_set_self _ _ _, rfl, rfl⟩
  simp only [List.mem_cons, List.not_mem_nil, or_false] at h
  rcases h with rfl | rfl | rfl <;> decide +kernel

theorem witness_DramChangesOnlyByDrains :
    let s := State.reset.onStore fun st => { st with burst := some ⟨.drain wline, true⟩, eligible := [wline] }
    Memory.wf s.store.dram = true ∧ ∃ t, exec (.burstCompletion []) s = .next t ∧
      Memory.read t.store.dram (7 * 4096 + 63 * 64) ≠ Memory.read s.store.dram (7 * 4096 + 63 * 64) :=
  ⟨rfl, _, rfl, by decide +kernel⟩

/-- The state after reset with entries whose parity fails. -/
def Sys2Proof.Tests.badMap (l : List EntryNo) (op : OpState) (pending : Bool) : State :=
  ((State.reset.onStore fun st => { st with badMap := l }).onCtl fun c => { c with op := op }).onFaults fun f => { f with pending := pending }

theorem witness_ParityFailuresAreFiled :
    (∃ s : State, ∃ h n, s.holds 0 .clipQuery h ∧ h.payload.length = 2 ∧ s.store.badMap = [n] ∧ s.store.noted = [] ∧
      s.faults.pending = false ∧ (s.faults.banks.get 0).mask.getLsbD 4 = true) ∧
    (∃ s : State, ∃ h, s.holds 0 .clipQuery h ∧ h.payload.length = 2 ∧ s.store.badMap ≠ [] ∧ s.store.noted = [] ∧
      s.faults.pending = true ∧ (s.faults.banks.get 0).mask.getLsbD 4 = true ∧ s.ctl.op = .fallback) ∧
    (∃ s : State, ∃ h x, s.holds 0 .loadOpen h ∧ loadOpenOf h.payload = some x ∧ loadOpenLegal x = true ∧ s.store.slots.get 0 = .closed ∧
      s.store.noted = [] ∧ s.ctl.op = .fallback ∧ s.store.loadBusy 0 x.clip = true) ∧
    (∃ s : State, ∃ h x, s.holds 0 .loadOpen h ∧ loadOpenOf h.payload = some x ∧ loadOpenLegal x = true ∧ s.store.slots.get 0 = .closed ∧
      s.store.noted = [] ∧ s.ctl.op = .fallback ∧ s.store.loadBusy 0 x.clip = false ∧
      ∀ n, ∃ e, s.store.map.get n = some e ∧ e.candidate = false) ∧
    (∃ s : State, ∃ page w rest, s.store.burst = none ∧ (∀ q c, s.mix.block.get q = some c → c.want = []) ∧
      (∀ j z, s.light.players.get j = some z → z.want = []) ∧ s.store.scrub = (page, w) :: rest ∧ linkOf s.store.links page = .free ∧
      page ∈ s.store.badLinks ∧ s.store.noted = [] ∧ s.faults.pending = false) ∧
    (∃ st : Store, ∃ n e q, st.map.get n = some e ∧ e.state = .retiring ∧ e.useCount ≤ 1 ∧ e.firstPage = some q ∧
      linkOf st.links q ≠ .free ∧ n ∈ st.badMap) ∧
    (∃ s : State, ∃ t, s.evict = some t ∧ s.store.badMap ≠ []) :=
  ⟨⟨held 0 .clipQuery [9, 0] (badMap [191] .run false), _, 191, held_holds _ _ _ _, rfl, rfl, rfl, rfl, by decide⟩,
    ⟨held 0 .clipQuery [9, 0] (badMap [3, 191] .fallback true), _, held_holds _ _ _ _, rfl, nofun, rfl, rfl, by decide, rfl⟩,
    ⟨held 0 .loadOpen [9, 0, 3, 0, 2, 0, 0, 0, 0] (entry 5 { clip 9 .audio24 with state := .retiring } (badMap [5] .fallback true)), _, _,
      held_holds _ _ _ _, rfl, by decide, rfl, rfl, rfl, by decide +kernel⟩,
    ⟨held 0 .loadOpen [9, 0, 3, 0, 2, 0, 0, 0, 0] ((badMap [5] .fallback true).onStore fun st =>
        { st with map := Tab.fill 192 (some { clip 8 .audio24 with pinned := true }) }), _, _,
      held_holds _ _ _ _, rfl, by decide, rfl, rfl, rfl, by decide +kernel, fun n => ⟨_, Tab.get_fill _ _, rfl⟩⟩,
    ⟨State.reset.onStore fun st => { st with scrub := [(7, 0)], badLinks := [7] }, 7, 0, [], rfl, no_block, no_player, rfl, by decide,
      by decide, rfl, rfl⟩,
    ⟨((entry 5 { clip 9 .audio24 with state := .retiring, useCount := 1 } (badMap [5] .run false)).store).putLink 0 .last, 5, _, 0,
      Tab.get_set_self _ _ _, rfl, by decide, rfl, by decide +kernel, by decide⟩,
    ⟨entry 5 (clip 9 .audio24) (badMap [7] .run false), _, rfl, nofun⟩⟩

/-- The state after reset with stop 3 and segment 5, and the cursor SET. -/
def Sys2Proof.Tests.routed (d : Nat) (st : StopState) (sg : SegState) : State :=
  atDistance d (State.reset.onRoute fun r => { r with
    stops := r.stops.set 3 (some (stop 100 200 st)), segments := r.segments.set 5 (some (segment 150 sg))
    cursor := { r.cursor with nextStop := some 3 } })

theorem Sys2Proof.Tests.routed_good (d : Nat) (st : StopState) (sg : SegState) : (routed d st sg).parityGood := ⟨rfl, rfl, rfl⟩

theorem witness_PositionFixesAndHolds :
    Meets 0 .position [0xFF, 0xFF, 3, 0, 120] State.reset (fun s h => h.payload = [0xFF, 0xFF, 3, 0, 120] ∧ natLE [0xFF, 0xFF, 3, 0] = 262143 ∧
      s.route.cursor.set = false ∧ (120 : Byte).toNat ≤ 120) ∧
    Meets 0 .position [0, 0, 4, 0, 0] State.reset (fun _ h => h.payload = [0, 0, 4, 0, 0] ∧ 262143 < natLE [0, 0, 4, 0]) ∧
    Meets 0 .position [0, 0, 0, 0, 121] State.reset (fun s h => h.payload = [0, 0, 0, 0, 121] ∧ s.route.cursor.set = false ∧
      120 < (121 : Byte).toNat) ∧
    Meets 0 .position [70, 0, 0, 0, 5] (atDistance 100 State.reset) (fun s h => h.payload = [70, 0, 0, 0, 5] ∧ s.route.cursor.set = true ∧
      natLE [70, 0, 0, 0] < s.route.cursor.distance ∧ ¬(30 < s.route.cursor.distance - 70)) ∧
    Meets 0 .position [69, 0, 0, 0, 121] (atDistance 100 State.reset) (fun s h => h.payload = [69, 0, 0, 0, 121] ∧
      natLE [69, 0, 0, 0] < s.route.cursor.distance ∧ 30 < s.route.cursor.distance - 69) :=
  ⟨meets good (by decide), meets good (by decide), meets good (by decide), meets ⟨rfl, rfl, rfl⟩ (by decide), meets ⟨rfl, rfl, rfl⟩ (by decide)⟩

theorem witness_ForwardMovesSettleThePoints :
    Meets 0 .position [200, 0, 0, 0, 5] (routed 50 .ahead .armed) (fun s h => h.payload = [200, 0, 0, 0, 5] ∧ s.route.cursor.set = true ∧
      s.route.cursor.distance ≤ natLE [200, 0, 0, 0] ∧ natLE [200, 0, 0, 0] ≤ 262143 ∧
      (∃ x, s.route.stops.get 3 = some x ∧ x.state = .ahead ∧ s.route.cursor.distance < x.b ∧ x.b ≤ 200) ∧
      (∃ x, s.route.segments.get 5 = some x ∧ x.state = .armed ∧ s.route.cursor.distance < x.t ∧ x.t ≤ 200 ∧ 200 - x.t ≤ x.late)) ∧
    Meets 0 .position [199, 0, 0, 0, 5] (routed 99 .ahead .armed) (fun s _ => ∃ x, s.route.stops.get 3 = some x ∧ x.state = .ahead ∧
      s.route.cursor.distance < x.a ∧ x.a ≤ natLE [199, 0, 0, 0] ∧ ¬(s.route.cursor.distance < x.b ∧ x.b ≤ natLE [199, 0, 0, 0])) ∧
    Meets 0 .position [251, 0, 0, 0, 5] (routed 149 .called .armed) (fun s _ => (∃ x, s.route.stops.get 3 = some x ∧ x.state = .called) ∧
      ∃ x, s.route.segments.get 5 = some x ∧ s.route.cursor.distance < x.t ∧ x.late < natLE [251, 0, 0, 0] - x.t) :=
  ⟨meets (routed_good _ _ _) (by decide +kernel), meets (routed_good _ _ _) ⟨_, rfl, rfl, by decide, by decide, by decide⟩,
    meets (routed_good _ _ _) ⟨⟨_, rfl, rfl⟩, _, rfl, by decide, by decide⟩⟩

theorem witness_DistanceFallsOnlyByJump :
    let s := held 0 .jump [50, 0, 0, 0] (atDistance 100 State.reset)
    ∃ t, exec (.jump 0) s = .next t ∧ s.route.cursor.set = true ∧ t.route.cursor.set = true ∧
      t.route.cursor.distance < s.route.cursor.distance :=
  ⟨_, rfl, rfl, by decide +kernel⟩

theorem witness_JumpAndRouteClearMoveTheCursor :
    Meets 0 .jump [0xFF, 0xFF, 3, 0] (routed 100 .called .missed) (fun s h => h.payload.length = 4 ∧ natLE h.payload ≤ 262143 ∧
      ∃ x, s.route.segments.get 5 = some x ∧ x.state ≠ .triggered) ∧
    Meets 0 .jump [0, 0, 4, 0] State.reset (fun _ h => 262143 < natLE h.payload) ∧
    Meets 0 .jump [0] State.reset (fun _ h => h.payload.length ≠ 4) ∧
    Meets 0 .routeClear [] (routed 100 .called .missed) (fun _ h => h.payload = []) ∧
    Meets 0 .routeClear [0] State.reset (fun _ h => h.payload ≠ []) :=
  ⟨meets (routed_good _ _ _) ⟨by decide, by decide, _, rfl, by decide⟩, meets good (by decide), meets good (by decide),
    meets (routed_good _ _ _) rfl, meets good nofun⟩

/-- A STOP-WRITE of stop 3 with approach 100 and arrival 200. -/
def Sys2Proof.Tests.stopBs (i a : Byte) : List Byte := [i, a, 0, 0, 0, 200, 0, 0, 0, 2, 1, 1, 10, 0, 0, 0, 1, 11, 0, 0, 0, 0, 0]

theorem witness_StopWriteStoresTheStop :
    Meets 0 .stopWrite (stopBs 63 199) State.reset (fun s h => stopOf h.payload = some (63, stop 199 200 .ahead) ∧
      (∀ j y, s.route.stops.get j ≠ some y)) ∧
    stopLegal 63 (stop 199 200 .ahead) = true ∧ stopLegal 63 (stop 200 200 .ahead) = false ∧ stopLegal 64 (stop 100 200 .ahead) = false ∧
    Meets 0 .stopWrite [] State.reset (fun _ h => ∀ k x, stopOf h.payload ≠ some (k, x)) ∧
    Meets 0 .stopWrite (stopBs 3 99) (routed 50 .approaching .armed) (fun s h => stopOf h.payload = some (3, stop 99 200 .ahead) ∧
      ∃ y, s.route.stops.get 3 = some y ∧ y.state = .approaching) ∧
    Meets 0 .stopWrite (stopBs 4 100) (routed 50 .ahead .armed) (fun s h => stopOf h.payload = some (4, stop 100 200 .ahead) ∧
      ∃ y, s.route.stops.get 3 = some y ∧ (100 : Nat) ≤ y.a) :=
  ⟨meets good ⟨by decide +kernel, fun j y h => by
      rw [show (held 0 .stopWrite (stopBs 63 199) State.reset).route.stops.get j = none from Tab.get_fill _ _] at h; cases h⟩,
    by decide, by decide, by decide, meets good (fun k x h => nomatch (show none = some (k, x) from h)),
    meets (routed_good _ _ _) ⟨by decide +kernel, _, rfl, rfl⟩, meets (routed_good _ _ _) ⟨by decide +kernel, _, rfl, by decide⟩⟩

theorem witness_StopsAreRemovedSkippedAndRequested :
    (∀ c ∈ [Command.stopRemove, .stopSkip], Meets 0 c [64] State.reset (fun _ h => ∀ i : StopNo, h.payload ≠ [byteOf i.val]) ∧
      Meets 0 c [63] State.reset (fun s h => h.payload = [byteOf (63 : StopNo).val] ∧ s.route.stops.get 63 = none) ∧
      (∀ st ∈ [StopState.ahead, .approaching, .called], Meets 0 c [3] (routed 50 st .armed) (fun s h => h.payload = [byteOf (3 : StopNo).val] ∧
        s.ctl.op ≠ .parkPending ∧ ∃ x, s.route.stops.get 3 = some x ∧ x.state = st))) ∧
    Meets 0 .stopRequest [1] State.reset (fun _ h => h.payload ≠ []) ∧
    Meets 0 .stopRequest [] State.reset (fun s _ => s.route.cursor.nextStop = none) ∧
    (∀ d ∈ [99, 100, 199, 200], Meets 0 .stopRequest [] (routed d .ahead .armed) (fun s _ => ∃ x, s.route.cursor.nextStop = some 3 ∧
      s.route.stops.get 3 = some x ∧ x.request = false ∧ x.state = .ahead ∧ s.route.cursor.set = true ∧ s.route.cursor.distance = d)) ∧
    (∃ s : State, ∃ x, s.parityGood ∧ s.route.cursor.nextStop = some 3 ∧ s.route.stops.get 3 = some x ∧ x.request = true) :=
  ⟨fun _ _ => ⟨meets good (past 64 64 (by decide) (by decide)), meets good ⟨rfl, Tab.get_fill _ _⟩, fun _ _ =>
      meets (routed_good _ _ _) ⟨rfl, nofun, _, rfl, rfl⟩⟩, meets good nofun, meets good rfl,
    fun _ _ => meets (routed_good _ _ _) ⟨_, rfl, rfl, rfl, rfl, rfl, rfl⟩,
    ⟨(routed 50 .ahead .armed).onRoute fun r => { r with stops := r.stops.set 3 (some { stop 100 200 .ahead with request := true }) }, _,
      ⟨rfl, rfl, rfl⟩, rfl, Tab.get_set_self _ _ _, rfl⟩⟩

theorem witness_SegmentsAreWrittenAndRemoved :
    Meets 0 .segmentWrite [255, 0xFF, 0xFF, 3, 0, 0xD0, 7, 3, 1, 1, 63, 20, 0, 0, 0] State.reset (fun s h =>
      (∃ x, segmentOf h.payload = some (255, x) ∧ x.t = 262143 ∧ x.late = 2000 ∧ x.priority = 3 ∧ x.langs = [(63, 20)]) ∧
      s.route.segments.get 255 = none) ∧
    Meets 0 .segmentWrite [] State.reset (fun _ h => ∀ k x, segmentOf h.payload ≠ some (k, x)) ∧
    Meets 0 .segmentRemove [] State.reset (fun _ h => h.payload.length ≠ 1) ∧
    Meets 0 .segmentRemove [255] State.reset (fun s h => h.payload = [byteOf (255 : SegNo).val] ∧ s.route.segments.get 255 = none) ∧
    (∀ c ∈ [Command.segmentWrite, .segmentRemove], ∀ st ∈ [SegState.triggered, .finished], Meets 0 c [5] (routed 50 .ahead st) (fun s h =>
      h.payload = [byteOf (5 : SegNo).val] ∧ ∃ y, s.route.segments.get 5 = some y ∧ y.state = st)) :=
  ⟨meets good ⟨⟨_, rfl, rfl, rfl, rfl, rfl⟩, Tab.get_fill _ _⟩, meets good (fun k x h => nomatch (show none = some (k, x) from h)),
    meets good (by decide), meets good ⟨rfl, Tab.get_fill _ _⟩, fun _ _ _ _ => meets (routed_good _ _ _) ⟨rfl, _, rfl, rfl⟩⟩

/-- The state after reset with a commentary queue on programme 12. -/
def Sys2Proof.Tests.queued (q : List Item) : State := State.reset.onCom fun c => { c with queues := c.queues.set 12 q }

theorem Sys2Proof.Tests.queued_queue (q : List Item) : (queued q).queueOf 12 = q := Tab.get_set_self _ _ _

theorem witness_CommentaryItemsJoinTheirQueue :
    (queued [item 10 1 false, item 20 1 false, item 20 1 false] |>.queueOf 12).length < 4 ∧
    (let s := queued [item 10 1 true, item 20 2 false, item 20 2 false, item 30 2 false]
     4 ≤ (s.queueOf 12).length ∧ ∀ y ∈ s.queueOf 12, y.playing = true ∨ (item 20 1 false).priority < y.priority) ∧
    (∃ u y v, (queued [item 10 1 true, item 20 2 false, item 20 1 false, item 30 2 false]).queueOf 12 = u ++ y :: v ∧
      (∀ z ∈ u, z.playing = true ∨ (1 : Nat) < z.priority) ∧ y.playing = false ∧ y.priority ≤ 1) := by
  refine ⟨by rw [queued_queue]; decide, ?_, [item 10 1 true, item 20 2 false], item 20 1 false, [item 30 2 false], queued_queue _, by decide,
    rfl, by decide⟩
  dsimp only
  rw [queued_queue]
  decide

/-- The state after reset with announcements waiting, the DRIVER channel ON, in an operating state. -/
def Sys2Proof.Tests.waiting (q : List AnnItem) (op : OpState) : State :=
  (State.reset.onAnn fun a => { a with queue := q, nextNumber := 65535, live := ⟨some ⟨0, 5⟩, none⟩ }).onCtl fun c => { c with op := op }

theorem Sys2Proof.Tests.waiting_good (q : List AnnItem) (op : OpState) : (waiting q op).parityGood := ⟨rfl, rfl, rfl⟩

theorem witness_StopItemsAreNumberedAndArrive :
    (let s := waiting (List.replicate 8 (ann 1 .cab)) .run; s.ann.queue.length ≤ 8 ∧ s.ann.nextNumber ≤ 65535 ∧ 8 ≤ s.ann.queue.length ∧
      s.ctl.op = .run) ∧
    (let s := waiting (List.replicate 7 (ann 1 .cab)) .parkPending; s.ann.queue.length < 8 ∧ s.ann.live.driver ≠ none ∧
      s.ctl.op = .parkPending) ∧
    (waiting [] .standby).ctl.op = .standby ∧ (waiting [] .fallback).ctl.op = .fallback ∧
    (State.reset.ctl.op = .run ∧ State.reset.ann.queue = [] ∧ State.reset.ann.current = none ∧ State.reset.ann.live.driver = none) :=
  ⟨by decide, by decide, rfl, rfl, rfl, rfl, rfl, rfl⟩

/-- An ANNOUNCE of a kind with one PA clip. -/
def Sys2Proof.Tests.annBs (k : Byte) : List Byte := [k, 1, 63, 12, 0, 0, 0, 1, 11, 0, 0, 0]

theorem Sys2Proof.Tests.ann_cab : announceOf (annBs 2) = some ⟨.cab, [(63, 12)], none, [11], none⟩ := by decide +kernel

theorem Sys2Proof.Tests.ann_safety : announceOf (annBs 3) = some ⟨.safety, [(63, 12)], none, [11], none⟩ := by decide +kernel

/-- A current announcement in a phase. -/
def Sys2Proof.Tests.current (ph : Phase) : Current :=
  ⟨ann 4 .cab, ph, Tab.fill 13 AnnVoice.empty, 0, .complete, Tab.fill 13 false⟩

/-- The arguments that R79 accepts. -/
def Sys2Proof.Tests.Legal (x : AnnounceArgs) : Prop := (x.kind = .cab ∨ x.kind = .safety) ∧
  (∀ y ∈ x.langs, 1 ≤ y.1 ∧ y.1 ≤ 63 ∧ y.2 ≠ 0) ∧ (x.langs.map Prod.fst).Nodup ∧ 1 ≤ x.pa.length ∧ x.pa.length ≤ 3 ∧ ∀ c ∈ x.pa, c ≠ 0

theorem Sys2Proof.Tests.legal (k : AnnKind) (h : k = .cab ∨ k = .safety) : Legal ⟨k, [(63, 12)], none, [11], none⟩ :=
  ⟨h, (by decide : ∀ y ∈ [((63 : Nat), (12 : Nat))], 1 ≤ y.1 ∧ y.1 ≤ 63 ∧ y.2 ≠ 0), (by decide : [(63 : Nat)].Nodup), by show 1 ≤ 1; decide,
    by show 1 ≤ 3; decide, (by decide : ∀ c ∈ [(11 : Nat)], c ≠ 0)⟩

theorem witness_AnnouncementsEnterAndAreCancelled :
    Meets 0 .announce [] State.reset (fun _ h => ∀ x, announceOf h.payload ≠ some x) ∧
    Meets 0 .announce (annBs 2) State.reset (fun s h => (∃ x, announceOf h.payload = some x ∧ Legal x ∧ x.kind = .cab) ∧
      s.ctl.op = .run ∧ s.ann.queue = [] ∧ s.ann.current = none ∧ s.ann.live.driver = none) ∧
    Meets 0 .announce (annBs 3) (waiting [] .standby) (fun s h => (∃ x, announceOf h.payload = some x ∧ Legal x) ∧ s.ctl.op = .standby) ∧
    Meets 0 .announce (annBs 2) (waiting [] .fallback) (fun s h => (∃ x, announceOf h.payload = some x ∧ Legal x ∧ x.kind = .cab) ∧
      s.ctl.op = .fallback) ∧
    Meets 0 .announce (annBs 3) (waiting [ann 1 .safety, ann 2 .cab] .fallback) (fun s h =>
      (∃ x, announceOf h.payload = some x ∧ Legal x ∧ x.kind = .safety) ∧ s.ctl.op = .fallback ∧ s.ann.queue.length < 8 ∧
      s.ann.live.driver ≠ none ∧ ∃ a b, s.ann.queue = a ++ b ∧ (∀ y ∈ a, y.kind = .safety) ∧ ∀ y ∈ b.head?, y.kind ≠ .safety) ∧
    Meets 0 .announce (annBs 2) (waiting (List.replicate 8 (ann 1 .cab)) .run) (fun s _ => 8 ≤ s.ann.queue.length) ∧
    Meets 0 .announce (annBs 3) (waiting (List.replicate 8 (ann 1 .safety)) .run) (fun s _ => 8 ≤ s.ann.queue.length ∧
      ∀ y ∈ s.ann.queue, y.kind = .safety) ∧
    Meets 0 .announce (annBs 3) (waiting ([ann 1 .safety] ++ List.replicate 6 (ann 2 .cab) ++ [ann 3 .cab]) .run) (fun s _ =>
      8 ≤ s.ann.queue.length ∧ ∃ a b y, s.ann.queue = a ++ b ++ [y] ∧ (∀ z ∈ a, z.kind = .safety) ∧ ∀ z ∈ b ++ [y], z.kind ≠ .safety) ∧
    Meets 0 .announceCancel [1] State.reset (fun _ h => h.payload.length ≠ 2) ∧
    Meets 0 .announceCancel [2, 0] (waiting [ann 1 .cab, ann 2 .cab, ann 3 .cab] .run) (fun s h => ∃ a x b, s.ann.queue = a ++ x :: b ∧
      x.number = natLE h.payload ∧ (∀ y ∈ a ++ b, y.number ≠ natLE h.payload) ∧ s.ctl.op ≠ .parkPending) ∧
    Meets 0 .announceCancel [9, 0] State.reset (fun s h => (∀ x ∈ s.ann.queue, x.number ≠ natLE h.payload) ∧
      ∀ c, s.ann.current = some c → c.item.number ≠ natLE h.payload) ∧
    (∀ ph ∈ [Phase.tail, .leadIn, .speaking], Meets 0 .announceCancel [4, 0] (State.reset.onAnn fun a => { a with current := some (current ph) })
      (fun s h => (∀ x ∈ s.ann.queue, x.number ≠ natLE h.payload) ∧ ∃ c, s.ann.current = some c ∧ c.item.number = natLE h.payload ∧
        c.phase = ph)) :=
  ⟨meets good (fun x h => nomatch (show none = some x from h)), meets good ⟨⟨_, ann_cab, legal _ (.inl rfl), rfl⟩, rfl, rfl, rfl, rfl⟩,
    meets (waiting_good _ _) ⟨⟨_, ann_safety, legal _ (.inr rfl)⟩, rfl⟩, meets (waiting_good _ _) ⟨⟨_, ann_cab, legal _ (.inl rfl), rfl⟩, rfl⟩,
    meets (waiting_good _ _) ⟨⟨_, ann_safety, legal _ (.inr rfl), rfl⟩, rfl, by decide, nofun, [ann 1 .safety], [ann 2 .cab], rfl, by decide, by decide⟩,
    meets (waiting_good _ _) (by decide), meets (waiting_good _ _) (by decide),
    meets (waiting_good _ _) ⟨by decide, [ann 1 .safety], List.replicate 6 (ann 2 .cab), ann 3 .cab, rfl, by decide, by decide⟩,
    meets good (by decide),
    meets (waiting_good _ _) ⟨[ann 1 .cab], ann 2 .cab, [ann 3 .cab], rfl, rfl, by decide, nofun⟩, meets good ⟨fun _ h => absurd h List.not_mem_nil,
      fun c h => absurd (show none = some c from h) (Option.some_ne_none c).symm⟩,
    fun _ _ => meets ⟨rfl, rfl, rfl⟩ ⟨nofun, _, rfl, rfl, rfl⟩⟩

theorem witness_NoAnnouncementStartsUnderTheDriver :
    let s := (waiting [] .run).onAnn fun a => { a with current := some (current .speaking) }
    ∃ t c, exec .pollBegin s = .next t ∧ s.ann.live.driver ≠ none ∧ t.ann.current = some c :=
  ⟨_, _, rfl, nofun, rfl⟩

theorem witness_LiveChannelsTurnOnAndOff :
    (∀ x ∈ [Command.liveOn, .liveOff], Meets 0 x [2] State.reset (fun _ h => ∀ c, h.payload ≠ [byteOf (channelCode c)])) ∧
    Meets 0 .liveOn [1] (waiting [] .standby) (fun s h => h.payload = [byteOf (channelCode .guide)] ∧ s.ctl.op = .standby) ∧
    Meets 1 .liveOn [0] (waiting [] .run) (fun s h => h.payload = [byteOf (channelCode .driver)] ∧ s.ctl.op ≠ .standby ∧
      ∃ l, s.ann.live.get .driver = some l ∧ l.owner ≠ 1) ∧
    Meets 0 .liveOn [0] (waiting [] .run) (fun s _ => ∃ l, s.ann.live.get .driver = some l ∧ l.owner = 0) ∧
    Meets 0 .liveOn [1] State.reset (fun s _ => ∀ l, s.ann.live.get .guide = some l → l.owner = 0) ∧
    Meets 0 .liveOff [1] State.reset (fun s h => h.payload = [byteOf (channelCode .guide)] ∧ s.ann.live.get .guide = none) ∧
    Meets 1 .liveOff [0] (waiting [] .run) (fun s _ => ∃ l, s.ann.live.get .driver = some l ∧ l.owner ≠ 1) ∧
    Meets 0 .liveOff [0] (waiting [] .run) (fun s _ => (∃ l, s.ann.live.get .driver = some l ∧ l.owner = 0) ∧ s.ann.queue = [] ∧
      s.ctl.op ≠ .parkPending) ∧
    (State.reset.parityGood ∧ State.reset.ann.live.get .driver = none) ∧
    (∀ n ∈ [90004, 90005], ∃ s : State, ∃ l, s.parityGood ∧ s.ann.live.get .driver = some l ∧ (s.ctl.time - l.start).toNat = n - 5) :=
  ⟨fun _ _ => meets good fun c => by
      cases c
      · exact (by decide : ([2] : List Byte) ≠ [byteOf 0])
      · exact (by decide : ([2] : List Byte) ≠ [byteOf 1]), meets (waiting_good _ _) ⟨rfl, rfl⟩,
    meets (waiting_good _ _) ⟨rfl, nofun, _, rfl, by decide⟩, meets (waiting_good _ _) ⟨_, rfl, rfl⟩, meets good nofun,
    meets good ⟨rfl, rfl⟩, meets (waiting_good _ _) ⟨_, rfl, by decide⟩, meets (waiting_good _ _) ⟨⟨_, rfl, rfl⟩, rfl, nofun⟩, ⟨good, rfl⟩,
    fun n h => ⟨(waiting [] .run).onCtl fun c => { c with time := BitVec.ofNat 32 n }, _, ⟨rfl, rfl, rfl⟩, rfl, by
      rcases List.mem_pair.1 h with rfl | rfl <;> decide⟩⟩

theorem witness_MicPeriodsDeliverFrames :
    (State.reset.ann.live.get .guide = none) ∧ ((waiting [] .run).ann.live.get .driver ≠ none ∧ (waiting [] .run).ann.lost.get .driver = false) ∧
    ((waiting [] .run).onAnn fun a => { a with lost := ⟨true, false⟩ }).ann.lost.get .driver = true :=
  ⟨rfl, ⟨nofun, rfl⟩, rfl⟩

/-- A PROGRAMME-WRITE with gains of 4096. -/
def Sys2Proof.Tests.progBs (k on lang flags mirror : Byte) : List Byte :=
  [k, on, lang, 0, 16, 0, 16, 0, 16, 0, 16, 0, 32, flags, 0, 0, mirror]

theorem witness_ProgrammeWriteStoresTheRecord :
    let legal := fun (k : Nat) (x : ProgRec) => if k = 0 then x.on = true ∧ x.lang = 0 ∧ x.guide = false ∧ x.mirror ≤ 12
      else k ≤ 12 ∧ 1 ≤ x.lang ∧ x.lang ≤ 63 ∧ x.mirror = 0
    Meets 0 .programmeWrite (progBs 13 1 1 0 0) State.reset (fun _ h => ∃ k x, programmeOf h.payload = some (k, x) ∧ ¬legal k x) ∧
    Meets 0 .programmeWrite (progBs 12 1 63 1 0) State.reset (fun s h => ∃ x, programmeOf h.payload = some ((12 : Prog).val, x) ∧
      legal 12 x ∧ x.guide = true ∧ s.progOn 12 = false ∧ x.on = true) ∧
    Meets 0 .programmeWrite (progBs 12 0 1 0 0) (State.reset.onMix fun m => { m with progs := m.progs.modify 12 fun x => { x with on := true } })
      (fun s h => ∃ x, programmeOf h.payload = some ((12 : Prog).val, x) ∧ legal 12 x ∧ s.progOn 12 = true ∧ x.on = false) ∧
    Meets 0 .programmeWrite (progBs 0 1 0 0 12) State.reset (fun s h => ∃ x, programmeOf h.payload = some ((0 : Prog).val, x) ∧ legal 0 x ∧
      (s.mix.progs.get 0).mirror ≠ x.mirror ∧ (12 : Prog).val = x.mirror) ∧
    Meets 0 .programmeWrite (progBs 0 1 0 0 0) (State.reset.onMix fun m =>
      { m with progs := m.progs.modify 0 fun x => { x with mirror := 12 } }) (fun s h => ∃ x, programmeOf h.payload = some ((0 : Prog).val, x) ∧
      legal 0 x ∧ (s.mix.progs.get 0).mirror ≠ x.mirror ∧ (12 : Prog) ≠ 0 ∧ (12 : Prog).val = (s.mix.progs.get 0).mirror) ∧
    Meets 0 .programmeWrite (progBs 0 1 0 0 0) State.reset (fun s h => ∃ x, programmeOf h.payload = some ((0 : Prog).val, x) ∧ legal 0 x ∧
      s.progOn 0 = x.on ∧ (s.mix.progs.get 0).mirror = x.mirror) :=
  ⟨meets good ⟨_, _, rfl, by decide⟩, meets good ⟨_, rfl, by decide, rfl, rfl, rfl⟩, meets good ⟨_, rfl, by decide, by decide +kernel, rfl⟩,
    meets good ⟨_, rfl, by decide, by decide, rfl⟩, meets good ⟨_, rfl, by decide, by decide +kernel, by decide, by decide +kernel⟩,
    meets good ⟨_, rfl, by decide, rfl, rfl⟩⟩

theorem witness_MixSettingsAreStored :
    Meets 0 .duckWrite [] State.reset (fun _ h => duckOf h.payload = none) ∧
    Meets 0 .duckWrite (List.replicate 20 0xFF) State.reset (fun _ h => (duckOf h.payload).isSome = true) ∧
    Meets 0 .loudnessWrite [] State.reset (fun _ h => loudnessOf h.payload = none) ∧
    Meets 0 .loudnessWrite (List.replicate 8 0xFF) State.reset (fun _ h => (loudnessOf h.payload).isSome = true) ∧
    Meets 0 .mixCountClear [13] State.reset (fun _ h => ∀ i : Prog, h.payload ≠ [byteOf i.val]) ∧
    Meets 0 .mixCountClear [12] State.reset (fun _ h => h.payload = [byteOf (12 : Prog).val]) :=
  ⟨meets good rfl, meets good rfl, meets good rfl, meets good rfl, meets good (past 13 13 (by decide) (by decide)), meets good rfl⟩

theorem witness_DuckGainsRampAndBlocksAreMixed :
    let s := (waiting [] .run).onAnn fun a => { a with ducker := true }
    DuckTable.reset.announce ∈ s.duckRows 0 ∧ DuckTable.reset.announce.get .commentary = some 1024 := by decide +kernel

theorem witness_BlockStartSettlesTheBlock :
    (∃ s : State, s.parityGood ∧ s.mix.block.get 12 ≠ none) ∧
    (State.reset.parityGood ∧ State.reset.mix.block.get 0 = none ∧ State.reset.progOn 0 = true ∧ State.reset.progOn 12 = false) ∧
    (∃ s : State, ∃ x rest, s.parityGood ∧ s.mix.block.get 12 = none ∧ s.progOn 12 = true ∧ s.queueOf 12 = x :: rest ∧ x.playing = false ∧
      (x.hold = false ∨ s.com.window = false)) :=
  ⟨⟨State.reset.onMix fun m => { m with block := m.block.set 12 (some Block.silent) }, good, nofun⟩, ⟨good, rfl, rfl, rfl⟩,
    ⟨(queued [item 10 1 false]).onMix fun m => { m with progs := m.progs.modify 12 fun x => { x with on := true } }, _, _, ⟨rfl, rfl, rfl⟩,
      rfl, by decide +kernel, queued_queue _, rfl, .inl rfl⟩⟩

theorem witness_DeadlinesPutTheBlockOut :
    (State.reset.parityGood ∧ State.reset.mix.block.get 12 = none) ∧
    (∃ s : State, ∃ b y, s.parityGood ∧ s.mix.block.get 12 = some b ∧ b.want = [] ∧ s.store.burst = none ∧ s.ctl.op ≠ .parkPending ∧
      b.on = true ∧ b.cut = false ∧ b.src.get .bed = some y ∧ (s.voice 12 .bed).started = true ∧ (s.voice 12 .bed).bind = some y.bind ∧
      y.pos + 384 < y.bind.len) ∧
    (∃ s : State, ∃ b v r rest, s.parityGood ∧ s.mix.block.get 12 = some b ∧ b.want = (v, r) :: rest ∧ v ≠ .live ∧
      s.mix.streak.get 12 < 15 ∧ (s.faults.banks.get 1).mask.getLsbD 1 = true ∧ (s.faults.banks.get 1).record = none ∧
      (s.ports.get 2).mask.getLsbD (eventKindCode .fault) = true ∧ (s.ports.get 2).queue.length < 16) ∧
    (∃ s : State, ∃ b v r rest, s.parityGood ∧ s.mix.block.get 12 = some b ∧ b.want = (v, r) :: rest ∧ v ≠ .live ∧
      s.mix.streak.get 12 = 15 ∧ (s.faults.banks.get 1).mask.getLsbD 2 = true ∧ (∀ x, (s.faults.banks.get 1).record = some x → x.uncorrected = false) ∧
      s.faults.pending = true) :=
  ⟨⟨good, rfl⟩,
    ⟨(State.reset.onVoice 12 .bed (VoiceState.bindTo ⟨0, 9, .audio24, 386, 7⟩ true)).onMix fun m => { m with
        block := m.block.set 12 (some { Block.silent with on := true, src := ⟨none, none, none, some ⟨⟨0, 9, .audio24, 386, 7⟩, 0⟩⟩ }) },
      _, _, good, Tab.get_set_self _ _ _, rfl, rfl, nofun, rfl, rfl, rfl, by decide +kernel, by decide +kernel, by decide⟩,
    ⟨State.reset.onMix fun m => { m with
        block := m.block.set 12 (some { Block.silent with want := [(.bed, ⟨0, 7, 0⟩)] }), streak := m.streak.set 12 14 },
      _, .bed, _, _, good, Tab.get_set_self _ _ _, rfl, nofun, by decide +kernel, by decide, rfl, by decide, by decide⟩,
    ⟨(State.reset.onMix fun m => { m with
        block := m.block.set 12 (some { Block.silent with want := [(.bed, ⟨0, 7, 0⟩)] }), streak := m.streak.set 12 15 }).onFaults fun f =>
          { f with pending := true },
      _, .bed, _, _, good, Tab.get_set_self _ _ _, rfl, nofun, by decide +kernel, by decide, nofun, rfl⟩⟩

theorem witness_SeatConfigSetsTheTable :
    Meets 0 .seatConfig [1] State.reset (fun _ h => h.payload.length ≠ 3) ∧
    Meets 0 .seatConfig [0, 0, 0] State.reset (fun _ h => h.payload = [0, 0, 0] ∧ (0 : Byte) = 0) ∧
    (∀ c ∈ ([1, 80, 81] : List Byte), Meets 0 .seatConfig [c, 0x60, 0xEA] State.reset (fun s h => h.payload = [c, 0x60, 0xEA] ∧ c ≠ 0 ∧
      natLE [0x60, 0xEA] = 60000 ∧ (s.seat.seats.get 79).state ≠ .disabled)) :=
  ⟨meets good (by decide), meets good ⟨rfl, rfl⟩, fun c h => meets good ⟨rfl, by
    simp only [List.mem_cons, List.not_mem_nil, or_false] at h
    rcases h with rfl | rfl | rfl <;> decide, by decide, (by decide : (State.reset.seat.seats.get 79).state ≠ .disabled)⟩⟩

theorem witness_PollsAndHoldoffs :
    (State.reset.seat.poll = none ∧ State.reset.ctl.op ≠ .standby ∧ State.reset.seat.pointer = (0 : SeatNo).val) ∧
    (waiting [] .standby).ctl.op = .standby ∧
    (∀ n ∈ [0, 2, 3], ∃ s : State, ∃ x, s.seat.poll = some x ∧ x.dead = false ∧ (s.seat.seats.get x.seat).state = .idle ∧
      (s.seat.seats.get x.seat).misses = n ∧ (s.faults.banks.get 3).record = none) ∧
    (∃ s : State, ∃ x, s.seat.poll = some x ∧ x.dead = true) ∧
    (∀ n ∈ [9999, 10000], ∃ s : State, ∃ start, s.seat.hold.get 12 = some start ∧ (s.ctl.time - start).toNat = n ∧ s.seat.holdoff = 10000) :=
  ⟨⟨rfl, nofun, rfl⟩, rfl, fun n _ => ⟨State.reset.onSeat fun k => { k with
      poll := some ⟨79, false⟩, seats := k.seats.set 79 ⟨.idle, 0, n, false, 0⟩ }, _, rfl, rfl, rfl, rfl, rfl⟩,
    ⟨State.reset.onSeat fun k => { k with poll := some ⟨79, true⟩ }, _, rfl, rfl⟩,
    fun n h => ⟨(State.reset.onSeat fun k => { k with hold := k.hold.set 12 (some 0) }).onCtl fun c => { c with time := BitVec.ofNat 32 n },
      0, Tab.get_set_self _ _ _, by rcases List.mem_pair.1 h with rfl | rfl <;> decide, rfl⟩⟩

theorem witness_SeatRepliesAreTaken :
    (State.reset.parityGood ∧ State.reset.seat.poll = none) ∧
    (∃ s : State, ∃ x, s.parityGood ∧ s.seat.poll = some x ∧ x.dead = false ∧ (s.seat.seats.get x.seat).state ≠ .disabled ∧
      (∀ a b, ([79, 0, 0] : List Byte) ≠ [byteOf x.seat.val, a, b] ++ crcField [byteOf x.seat.val, a, b]) ∧
      ∃ i z, s.route.cursor.nextStop = some i ∧ s.route.stops.get i = some z) ∧
    (∃ s : State, ∃ x, s.parityGood ∧ s.seat.poll = some x ∧ x.dead = true) ∧
    (2#8 : Byte).getLsbD 1 = true ∧ (1#8 : Byte).getLsbD 1 = false :=
  ⟨⟨good, rfl⟩, ⟨(routed 50 .ahead .armed).onSeat fun k => { k with poll := some ⟨79, false⟩ }, _, ⟨rfl, rfl, rfl⟩, rfl, rfl, by decide,
      fun a b h => by have h := congrArg List.length h; rw [show ([byteOf (79 : SeatNo).val, a, b] ++ crcField [byteOf (79 : SeatNo).val, a, b]).length = 5 from rfl] at h; revert h; decide,
      3, _, rfl, rfl⟩,
    ⟨State.reset.onSeat fun k => { k with poll := some ⟨79, true⟩ }, _, ⟨rfl, rfl, rfl⟩, rfl, rfl⟩, by decide, by decide⟩

/-- A LAYER-WRITE with `n` cells and an offset. -/
def Sys2Proof.Tests.layerBs (k offset n : Nat) : List Byte :=
  [byteOf k, 1, 0, byteOf offset, 0, 0, 1, 2, 3, byteOf n] ++ (List.replicate n ([0, 9, 9, 9] : List Byte)).flatten

theorem witness_LightSettingsAreStored :
    (∀ x ∈ [(3, 95, 1), (0, 0, 2)], Meets 0 .layerWrite (layerBs x.1 x.2.1 x.2.2) State.reset (fun _ h => ∃ y : Layer,
      layerOf h.payload = some (x.1, y) ∧ 1 ≤ y.cells.length ∧ y.cells.length ≤ 96 ∧ y.offset ≤ 95)) ∧
    (∀ x ∈ [(4, 95, 1), (3, 96, 1), (3, 0, 0)], Meets 0 .layerWrite (layerBs x.1 x.2.1 x.2.2) State.reset (fun _ h =>
      ∀ k y, layerOf h.payload = some (k, y) → ¬(k ≤ 3 ∧ 1 ≤ y.cells.length ∧ y.cells.length ≤ 96 ∧ y.offset ≤ 95))) ∧
    Meets 0 .lightSet [] State.reset (fun _ h => h.payload.length ≠ 7) ∧
    Meets 0 .lightSet [255, 1, 2, 3, 4, 5, 6] State.reset (fun _ h => h.payload = [255, 1, 2, 3, 4, 5, 6]) := by
  refine ⟨fun x h => ?_, fun x h => ?_, meets good (by decide), meets good rfl⟩
  · rcases List.mem_pair.1 h with rfl | rfl
    · exact meets good ⟨_, rfl, by decide, by decide, by decide⟩
    · exact meets good ⟨_, rfl, by decide, by decide, by decide⟩
  · simp only [List.mem_cons, List.not_mem_nil, or_false] at h
    rcases h with rfl | rfl | rfl <;> refine meets good fun k y e => ?_ <;> cases e <;> decide

theorem witness_LayersAreSampled :
    let y : Layer := ⟨true, [some ⟨1, 2, 3⟩, none, some ⟨255, 0, 9⟩], .shrink2, 95, .add, false, ⟨0, 0, 0⟩⟩
    let cell := fun (i : Nat) => y.cells.getD ((i + y.offset) % y.cells.length) none
    0 < y.cells.length ∧ (cell 2, cell 3) = (none, some ⟨255, 0, 9⟩) ∧ (cell 0, cell 1) = (some ⟨255, 0, 9⟩, some ⟨1, 2, 3⟩) ∧
      (cell 4, cell 5) = (some ⟨1, 2, 3⟩, none) ∧
      (let z : Layer := ⟨true, [none], .shrink2, 0, .add, false, ⟨0, 0, 0⟩⟩; z.cells.getD ((2 * 47 + z.offset) % z.cells.length) none = none) := by
  decide

theorem witness_ZonesAndFadesAreComputed :
    let y : Layer := ⟨true, [some ⟨255, 0, 9⟩], .normal, 0, .scale, false, ⟨0, 0, 0⟩⟩
    (y.enabled = true ∧ y.sample 47 = some ⟨255, 0, 9⟩ ∧ Layer.reset.enabled = false) ∧
    (∀ c ∈ y.cells, ∀ x, c = some x → x.r ≤ 255 ∧ x.g ≤ 255 ∧ x.b ≤ 255) ∧ (44 ≤ (44 : ZoneNo).val ∧ (43 : ZoneNo).val < 44) ∧
    ((0 : Nat) < 1 ∧ (1000 : Nat) ≤ 1000) :=
  ⟨by decide, fun c h x e => by cases List.mem_singleton.1 h; cases e; decide, by decide, by decide⟩

theorem witness_CuesAreStartedAndStopped :
    Meets 0 .cueStart [1] State.reset (fun _ h => h.payload.length ≠ 3) ∧
    Meets 0 .cueStart [3, 9, 0] State.reset (fun _ h => h.payload = [3, 9, 0] ∧ 3 ≤ (3 : Byte).toNat) ∧
    Meets 0 .cueStart [2, 0, 0] State.reset (fun _ h => h.payload = [2, 0, 0] ∧ natLE [0, 0] = 0) ∧
    Meets 0 .cueStart [2, 9, 0] (waiting [] .fallback) (fun s h => h.payload = [2, 9, 0] ∧ natLE [9, 0] ≠ 0 ∧ s.ctl.op = .fallback) ∧
    Meets 0 .cueStart [2, 9, 0] State.reset (fun s h => h.payload = [2, 9, 0] ∧ s.ctl.op = .run ∧ s.light.players.get 2 = none ∧
      ∀ n e, s.store.map.get n = some e → e.state = .ready ∨ e.state = .damaged → e.clip ≠ natLE [9, 0]) ∧
    Meets 0 .cueStart [2, 9, 0] (entry 5 (clip 9 .cue) State.reset) (fun s _ => s.light.players.get 2 = none ∧ ∃ e q,
      s.store.map.get 5 = some e ∧ e.state = .ready ∧ e.kind = .cue ∧ e.clip = natLE [9, 0] ∧ e.firstPage = some q ∧
      ∀ m f, m ≠ 5 → s.store.map.get m = some f → f.state = .ready ∨ f.state = .damaged → f.clip ≠ natLE [9, 0]) ∧
    Meets 0 .cueStop [3] State.reset (fun _ h => ∀ j : PlayerNo, h.payload ≠ [byteOf j.val]) ∧
    Meets 0 .cueStop [2] State.reset (fun s h => h.payload = [byteOf (2 : PlayerNo).val] ∧ s.light.players.get 2 = none) ∧
    Meets 0 .cueStop [2] ((entry 0 { clip 9 .cue with useCount := 1 } State.reset).onLight fun g =>
        { g with players := g.players.set 2 (some player) }) (fun s _ => ∃ x e, s.light.players.get 2 = some x ∧
      s.store.map.get x.bind.entry = some e ∧ (e.state ≠ .retiring ∨ 1 < e.useCount)) :=
  ⟨meets good (by decide), meets good ⟨rfl, by decide⟩, meets good ⟨rfl, rfl⟩, meets (waiting_good _ _) ⟨rfl, by decide, rfl⟩,
    meets good ⟨rfl, rfl, rfl, fun n e h => by
      rw [show (held 0 .cueStart [2, 9, 0] State.reset).store.map.get n = none from no_entry n] at h; cases h⟩,
    meets ⟨rfl, rfl, rfl⟩ ⟨rfl, _, _, Tab.get_set_self _ _ _, rfl, rfl, rfl, rfl, fun m f h k => absurd (only_entry 5 _ m f k).1 h⟩,
    meets good (past 3 3 (by decide) (by decide)), meets good ⟨rfl, rfl⟩,
    meets ⟨rfl, rfl, rfl⟩ ⟨_, _, Tab.get_set_self _ _ _, Tab.get_set_self _ _ _, .inl nofun⟩⟩

theorem witness_LightFramesAreSent :
    State.reset.parityGood ∧ (∀ k, State.reset.light.players.get k = none) ∧ State.reset.light.awaiting = false ∧
    ∃ s : State, s.parityGood ∧ s.light.awaiting = true :=
  ⟨good, fun _ => Tab.get_fill _ _, rfl, State.reset.onLight fun g => { g with awaiting := true }, good, rfl⟩

theorem witness_FilingsAndFallbackFollowTheirRules :
    (State.reset.faults.banks.get 0).mask.getLsbD (faultNumber .mapParity) = true ∧ faultCritical .mapParity = true ∧
    faultCritical .eccCorrected = false ∧ State.reset.faults.pending = false ∧
    (∃ s : State, s.faults.pending = true ∧ (s.faults.banks.get 0).mask.getLsbD (faultNumber .mapParity) = true) ∧
    (∃ s : State, (s.faults.banks.get 0).mask.getLsbD (faultNumber .mapParity) = false) ∧
    (waiting [] .fallback).ctl.op = .fallback ∧
    (∃ s : State, ∃ c, s.ctl.op ≠ .fallback ∧ s.ann.current = some c ∧ c.item.kind ≠ .safety ∧ c.phase ≠ .tail) ∧
    (∃ s : State, ∃ c, s.ctl.op = .standby ∧ s.ann.current = some c ∧ c.phase = .tail) ∧
    ((State.reset.ports.get 2).mask.getLsbD 18 = true ∧ (State.reset.ports.get 2).queue.length < 16) :=
  ⟨by decide, rfl, rfl, rfl, ⟨State.reset.onFaults fun f => { f with pending := true }, rfl, by decide⟩,
    ⟨State.reset.onFaults fun f => { f with banks := f.banks.set 0 ⟨0, none⟩ }, by decide⟩, rfl,
    ⟨State.reset.onAnn fun a => { a with current := some (current .leadIn) }, _, nofun, rfl, nofun, nofun⟩,
    ⟨(waiting [] .standby).onAnn fun a => { a with current := some (current .tail) }, _, rfl, rfl, rfl⟩, by decide⟩

theorem witness_FaultCommandsActOnTheRecorder :
    Meets 0 .faultClear [6] State.reset (fun _ h => ∀ i : Fin 6, h.payload ≠ [byteOf i.val]) ∧
    Meets 0 .faultClear [5] State.reset (fun _ h => h.payload = [byteOf (5 : Fin 6).val]) ∧
    Meets 0 .faultEnable [5] State.reset (fun _ h => h.payload.length ≠ 2) ∧
    Meets 0 .faultEnable [6, 0] State.reset (fun _ h => h.payload = [6, 0] ∧ 5 < (6 : Byte).toNat) ∧
    Meets 0 .faultEnable [5, 4] State.reset (fun _ h => h.payload = [5, 4] ∧ (5 : Fin 6).val = (5 : Byte).toNat ∧ 2 ^ 2 ≤ (4 : Byte).toNat) ∧
    Meets 0 .faultEnable [0, 31] State.reset (fun _ h => h.payload = [0, 31] ∧ (0 : Fin 6).val = (0 : Byte).toNat ∧
      (31 : Byte).toNat < 2 ^ 5) ∧
    Meets 0 .faultResume [0] State.reset (fun _ h => h.payload ≠ []) ∧
    Meets 0 .faultResume [] State.reset (fun s h => h.payload = [] ∧ s.faults.pending = false) ∧
    Meets 0 .faultResume [] (State.reset.onFaults fun f => { f with pending := true }) (fun s h => h.payload = [] ∧ s.faults.pending = true) ∧
    (∃ s : State, ∃ h, (s.ports.get 0).slot = .inHand h ∧ h.conditional = true ∧ h.tested = false ∧ h.command = .faultClear) :=
  ⟨meets good (past 6 6 (by decide) (by decide)), meets good rfl, meets good (by decide), meets good (by decide),
    meets good ⟨rfl, rfl, by decide⟩, meets good ⟨rfl, rfl, by decide⟩, meets good nofun, meets good ⟨rfl, rfl⟩, meets ⟨rfl, rfl, rfl⟩ ⟨rfl, rfl⟩,
    ⟨State.reset.onPort 0 fun ps => { ps with slot := .inHand ⟨1, .faultClear, true, false, [0]⟩ }, _, rfl, rfl, rfl, rfl⟩⟩

theorem witness_FaultsAndFallbackStand :
    let s := ((waiting [] .fallback).fileFault .eccUncorrected 20 7).fileFault .eccCorrected 7 0
    ∃ t, exec .pollBegin s = .next t ∧ s.ctl.op = .fallback ∧
      ∃ r, (s.faults.banks.get 0).record = some r ∧ r.overrun = true ∧ r.uncorrected = true :=
  ⟨_, rfl, by decide +kernel, _, rfl, by decide +kernel, by decide +kernel⟩

theorem witness_ParkingFollowsItsTable :
    (∀ c ∈ [Command.park, .unpark], Meets 0 c [0] State.reset (fun _ h => h.payload ≠ []) ∧
      (∀ op ∈ [OpState.run, .parkPending, .standby, .fallback], Meets 0 c [] (waiting [] op) (fun s h => h.payload = [] ∧ s.ctl.op = op ∧
        s.ann.live.driver ≠ none))) ∧
    Meets 0 .park [] State.reset (fun s _ => s.ctl.op = .run ∧ s.ann.current = none ∧ s.ann.queue = [] ∧ s.ann.live.driver = none ∧
      s.ann.live.guide = none) ∧
    (State.reset.parityGood ∧ State.reset.ctl.parkLine = false ∧ State.reset.ctl.op = .run) ∧
    (∃ s : State, s.parityGood ∧ s.ctl.parkLine = true ∧ s.ctl.op = .standby ∧ s.ctl.hold = some .line) ∧
    (∃ s : State, s.parityGood ∧ s.ctl.parkLine = true ∧ s.ctl.op = .standby ∧ s.ctl.hold ≠ some .line) ∧
    (∃ s : State, ∃ h, (s.ports.get 0).slot = .inHand h ∧ h.conditional = true ∧ h.tested = false ∧ h.command = .unpark) :=
  ⟨fun _ _ => ⟨meets good nofun, fun _ _ => meets (waiting_good _ _) ⟨rfl, rfl, nofun⟩⟩, meets good ⟨rfl, rfl, rfl, rfl, rfl⟩, ⟨good, rfl, rfl⟩,
    ⟨State.reset.onCtl fun c => { c with parkLine := true, op := .standby, hold := some .line }, good, rfl, rfl, rfl⟩,
    ⟨State.reset.onCtl fun c => { c with parkLine := true, op := .standby, hold := some .command }, good, rfl, rfl, nofun⟩,
    ⟨State.reset.onPort 0 fun ps => { ps with slot := .inHand ⟨1, .unpark, true, false, []⟩ }, _, rfl, rfl, rfl, rfl⟩⟩

theorem witness_RestartTakesItsValues :
    Meets 0 .restart [0] State.reset (fun _ h => h.payload ≠ []) ∧
    Meets 0 .restart [] (entry 5 (clip 9 .audio24) State.reset) (fun s h => h.payload = [] ∧ s.ctl.parkLine = false ∧
      (∀ r, (s.ports.get 1).slot ≠ .ready r) ∧ (s.ports.get 1).mask.getLsbD 18 = true ∧
      (∃ e, s.store.map.get 5 = some e ∧ e.state = .ready) ∧ ∀ q l, (s.store.slots.get q).load = some l → l.entry ≠ 5) ∧
    (∃ s : State, s.parityGood ∧ s.ctl.parkLine = true ∧ (s.ports.get 1).slot = .ready ⟨1, .ok, []⟩ ∧
      (s.ports.get 1).mask.getLsbD 18 = false) :=
  ⟨meets good nofun, meets ⟨rfl, rfl, rfl⟩ ⟨rfl, rfl, nofun, by decide, ⟨_, Tab.get_set_self _ _ _, rfl⟩, fun q l h => by
      rw [show (held 0 .restart [] (entry 5 (clip 9 .audio24) State.reset)).store.slots.get q = .closed from Tab.get_fill _ _] at h; cases h⟩,
    ⟨(State.reset.onCtl fun c => { c with parkLine := true }).onPort 1 fun ps => { ps with slot := .ready ⟨1, .ok, []⟩, mask := 0 }, good, rfl,
      rfl, by decide⟩⟩

theorem witness_PowerOnAndTheTimeBase :
    State.reset.ctl.parkLine = false ∧ (State.reset.onCtl fun c => { c with parkLine := true }).ctl.parkLine = true ∧
    (State.reset.onCtl fun c => { c with time := 0xFFFFFFFF#32 }).ctl.time = 0xFFFFFFFF#32 := ⟨rfl, rfl, rfl⟩

/-- The state after reset, 5 ms on, with an event waiting. -/
def Sys2Proof.Tests.later : State :=
  { State.reset.onCtl fun c => { c with time := 5 } with pending := [.timeBaseTick [.word 7 3 .single]] }

theorem witness_TablesStayCanonical : ∃ t, step later = .next t ∧ TablesCanonical later := ⟨_, rfl, rfl, rfl, rfl⟩

theorem witness_EveryStepKeepsTheInvariant : ∃ t, step later = .next t ∧ Sound later := by
  refine ⟨_, rfl, ⟨by decide, fun p => ?_, by decide, by decide, by decide, by decide +kernel, by decide +kernel, by decide +kernel⟩,
    ⟨fun p v => ?_, fun p b h => ?_, by decide +kernel⟩, ⟨by decide, by decide, by decide, by decide +kernel, by decide +kernel⟩,
    fun p h => ?_⟩
  · rw [show later.queueOf p = [] from Tab.get_fill _ _]; decide
  · rw [show later.voice p v = VoiceState.reset by
      unfold State.voice
      rw [show later.mix.voices.get p = ⟨VoiceState.reset, VoiceState.reset, VoiceState.reset, VoiceState.reset⟩ from Tab.get_fill _ _]
      cases v <;> rfl]
    decide
  · rw [show later.mix.block.get p = none from Tab.get_fill _ _] at h; cases h
  · unfold activityAgrees decisionAgrees
    revert p
    decide +kernel

theorem witness_SettingsStayLegal : (∃ t, step later = .next t ∧ SettingsLegal later) ∧ setsSettings .pollBegin = false := by
  refine ⟨⟨_, rfl, fun p => ?_, by decide +kernel, ?_, ?_, ?_, by decide, ?_, ?_, by decide +kernel, fun p k => ?_⟩, rfl⟩
  · unfold progLegal
    refine ⟨fun v => ?_, ?_, ?_⟩
    · have : (later.mix.progs.get p).gains = ⟨4096, 4096, 4096, 4096⟩ := by revert p; decide +kernel
      rw [this]; cases v <;> decide
    · revert p; decide +kernel
    · revert p; decide +kernel
  · intro v; cases v <;> exact ⟨rfl, fun t h => by cases h <;> decide⟩
  · intro v; cases v <;> exact ⟨rfl, fun t h => by cases h <;> decide⟩
  · intro v; cases v <;> exact ⟨rfl, fun t h => by cases h <;> decide⟩
  · unfold loudLegal; decide
  · unfold loudLegal; decide
  · rw [show (later.ports.get p).mask = allEvents by revert p; decide]
    intro h
    have : k < 24 := by
      by_contra c
      rw [BitVec.getLsbD_of_ge _ _ (by omega)] at h
      cases h
    revert h
    interval_cases k <;> decide

end
end

section
/-! SUPPORT. POSITION (R32 to R34): what it takes of its sender, the first fix and the step backward. -/

namespace Sys2Proof

variable {α : Type} {n : Nat}

theorem Tab.get_foldl_modify (f : α → α) {l : List (Fin n)} (hl : l.Nodup) (t : Tab α n) (j : Fin n) :
    (l.foldl (fun u i => u.modify i f) t).get j = if j ∈ l then f (t.get j) else t.get j := by
  induction l generalizing t with
  | nil => simp
  | cons i l ih =>
    obtain ⟨hi, hl⟩ := List.nodup_cons.1 hl
    rw [List.foldl_cons, ih hl, Tab.get_modify]
    by_cases e : i = j
    · subst e; simp [hi]
    · simp [e, Ne.symm e]

/-- Each entry of a table changed in turn, by index, is the whole table changed. -/
theorem Tab.foldl_modify_indices (f : α → α) (t : Tab α n) : (indices n).foldl (fun u i => u.modify i f) t = t.map f := by
  have hn : (indices n).Nodup := List.nodup_ofFn.2 fun _ _ e => e
  exact Tab.ext_get fun j => by rw [Tab.get_foldl_modify f hn, if_pos (mem_indices j), Tab.get_map]

end Sys2Proof

namespace Sys2Proof.Machine

/-! ## The hub's own changes of the Route Unit (R163) -/

theorem State.setCursor_route (s : State) (c : Cursor) : (s.setCursor c).route = { s.route with cursor := c } := by
  unfold State.setCursor
  split
  · next e => rw [e]
  · rfl

theorem State.setStop_route (s : State) (i : StopNo) (x : Option Stop) :
    (s.setStop i x).route = { s.route with stops := s.route.stops.set i x } := by
  unfold State.setStop
  split
  · next e => rw [e, Tab.set_get]
  · rfl

theorem State.setSegment_route (s : State) (i : SegNo) (x : Option Segment) :
    (s.setSegment i x).route = { s.route with segments := s.route.segments.set i x } := by
  unfold State.setSegment
  split
  · next e => rw [e, Tab.set_get]
  · rfl

theorem State.recomputeNext_route (s : State) :
    s.recomputeNext.route = { s.route with cursor := { s.route.cursor with nextStop := s.route.firstOpenStop } } :=
  s.setCursor_route _

theorem State.touch_of_unreserved {s : State} {r : RecName} (h : ∀ q, (s.ports.get q).resv ≠ some r) : s.touch r = s := by
  have : s.ports.map (fun ps => if ps.resv = some r then { ps with resv := none } else ps) = s.ports :=
    Tab.ext_get fun q => by rw [Tab.get_map, if_neg (h q)]
  exact congrArg (fun x => { s with ports := x }) this

theorem State.setCursor_of_unreserved {s : State} (h : ∀ q, (s.ports.get q).resv ≠ some cursorRec) (c : Cursor) :
    s.setCursor c = s.onRoute fun r => { r with cursor := c } := by
  unfold State.setCursor
  split
  · next e => rw [e]; rfl
  · exact State.touch_of_unreserved h

/-! ## Filing a fault that is not critical (R168) -/

theorem State.fileFault_bank {k : FaultKind} (h : faultCritical k = false) (s : State) (d1 d2 : Nat) :
    (s.fileFault k d1 d2).faults.banks.get (bankIndex (faultBank k)) =
      let b := s.faults.banks.get (bankIndex (faultBank k))
      b.file k (b.enabled k) d1 d2 s.ctl.time := by
  unfold State.fileFault
  simp only [h, Bool.and_false, Bool.false_eq_true, if_false]
  split <;> exact Tab.get_set_self _ _ _

theorem State.fileFault_route {k : FaultKind} (h : faultCritical k = false) (s : State) (d1 d2 : Nat) :
    (s.fileFault k d1 d2).route = s.route :=
  (congrArg State.route (State.fileFault_noncritical (s := s) h d1 d2) :)

theorem State.fileFault_store {k : FaultKind} (h : faultCritical k = false) (s : State) (d1 d2 : Nat) :
    (s.fileFault k d1 d2).store = s.store :=
  (congrArg State.store (State.fileFault_noncritical (s := s) h d1 d2) :)

/-! ## Quiet moves: the Route Unit changes, and no event, item or fault comes of it -/

/-- An operation that changes the Route Unit and, of the ports, no event queue: reservations and response slots alone. -/
structure QuietMove (s t : State) : Prop where
  frame : t = { s with route := t.route, ports := t.ports }
  queue : ∀ q, (t.ports.get q).queue = (s.ports.get q).queue

namespace QuietMove
variable {s t u : State}

theorem refl (s : State) : QuietMove s s := ⟨rfl, fun _ => rfl⟩

theorem trans (h : QuietMove s t) (k : QuietMove t u) : QuietMove s u where
  frame := k.frame.trans (congrArg (fun x => { x with route := u.route, ports := u.ports }) h.frame)
  queue q := (k.queue q).trans (h.queue q)

theorem store (h : QuietMove s t) : t.store = s.store := (congrArg State.store h.frame :)

theorem faults (h : QuietMove s t) : t.faults = s.faults := (congrArg State.faults h.frame :)

theorem foldl {γ : Type} {f : State → γ → State} (h : ∀ s x, QuietMove s (f s x)) (l : List γ) (s : State) :
    QuietMove s (l.foldl f s) := by
  induction l generalizing s with
  | nil => exact .refl s
  | cons x l ih => exact (h s x).trans (ih _)

theorem onRoute (s : State) (f : Route → Route) : QuietMove s (s.onRoute f) := ⟨rfl, fun _ => rfl⟩

theorem onPort (s : State) (p : Port) {f : PortState → PortState} (h : ∀ a, (f a).queue = a.queue) : QuietMove s (s.onPort p f) where
  frame := rfl
  queue q := by
    rw [State.onPort_ports, Tab.get_modify]
    split
    · exact h _
    · rfl

theorem dropResv (s : State) (p : Port) : QuietMove s (s.dropResv p) := onPort s p fun _ => rfl

theorem withReply (s : State) (p : Port) (h : InHand) (st : Status) (bs : List Byte) : QuietMove s (s.withReply p h st bs) :=
  onPort s p fun _ => rfl

theorem touch (s : State) (r : RecName) : QuietMove s (s.touch r) where
  frame := rfl
  queue q := by
    rw [State.touch, State.onPorts_ports, Tab.get_map]
    split <;> rfl

theorem setCursor (s : State) (c : Cursor) : QuietMove s (s.setCursor c) := by
  unfold State.setCursor
  split
  · exact .refl s
  · exact (onRoute s _).trans (touch _ _)

theorem setStop (s : State) (i : StopNo) (x : Option Stop) : QuietMove s (s.setStop i x) := by
  unfold State.setStop
  split
  · exact .refl s
  · exact (onRoute s _).trans (touch _ _)

theorem setSegment (s : State) (i : SegNo) (x : Option Segment) : QuietMove s (s.setSegment i x) := by
  unfold State.setSegment
  split
  · exact .refl s
  · exact (onRoute s _).trans (touch _ _)

theorem fixStop (d : Nat) (s : State) (i : StopNo) : QuietMove s (s.fixStop d i) := by
  unfold State.fixStop
  split
  · exact .refl s
  · split
    · exact setStop _ _ _
    · exact .refl s

theorem fixSegment (d : Nat) (s : State) (i : SegNo) : QuietMove s (s.fixSegment d i) := by
  unfold State.fixSegment
  split
  · exact .refl s
  · split
    · exact setSegment _ _ _
    · exact .refl s

theorem firstFix (s : State) (d : Nat) : QuietMove s (s.firstFix d) := by
  unfold State.firstFix
  exact trans (setCursor s _) (trans (foldl (fixStop d) _ _) (trans (foldl (fixSegment d) _ _) (setCursor _ _)))

end QuietMove

/-! ## The first fix (R33) -/

/-- R33: a stop record at a first fix. -/
def Stop.fixedAt (d : Nat) (x : Stop) : Stop :=
  if x.state = .ahead ∧ x.b ≤ d then { x with state := .passed, request := false } else x

/-- R33: a segment record at a first fix. -/
def Segment.fixedAt (d : Nat) (x : Segment) : Segment :=
  if x.state = .armed ∧ x.t ≤ d then { x with state := .missed } else x

theorem State.fixStop_route (d : Nat) (s : State) (i : StopNo) :
    (s.fixStop d i).route = { s.route with stops := s.route.stops.modify i (Option.map (Stop.fixedAt d)) } := by
  unfold State.fixStop Tab.modify
  cases e : s.route.stops.get i with
  | none => dsimp only [Option.map_none]; rw [← e, Tab.set_get]
  | some x =>
    dsimp only [Option.map_some, Stop.fixedAt]
    split
    · exact s.setStop_route _ _
    · rw [← e, Tab.set_get]

theorem State.fixSegment_route (d : Nat) (s : State) (i : SegNo) :
    (s.fixSegment d i).route = { s.route with segments := s.route.segments.modify i (Option.map (Segment.fixedAt d)) } := by
  unfold State.fixSegment Tab.modify
  cases e : s.route.segments.get i with
  | none => dsimp only [Option.map_none]; rw [← e, Tab.set_get]
  | some x =>
    dsimp only [Option.map_some, Segment.fixedAt]
    split
    · exact s.setSegment_route _ _
    · rw [← e, Tab.set_get]

theorem State.foldl_fixStop_route (d : Nat) (l : List StopNo) (s : State) : (l.foldl (State.fixStop d) s).route =
    { s.route with stops := l.foldl (fun t i => t.modify i (Option.map (Stop.fixedAt d))) s.route.stops } := by
  induction l generalizing s with
  | nil => rfl
  | cons i l ih => rw [List.foldl_cons, ih, State.fixStop_route]; rfl

theorem State.foldl_fixSegment_route (d : Nat) (l : List SegNo) (s : State) : (l.foldl (State.fixSegment d) s).route =
    { s.route with segments := l.foldl (fun t i => t.modify i (Option.map (Segment.fixedAt d))) s.route.segments } := by
  induction l generalizing s with
  | nil => rfl
  | cons i l ih => rw [List.foldl_cons, ih, State.fixSegment_route]; rfl

/-- R33: the Route Unit after a first fix, but for the next stop. -/
def Route.fixedAt (d : Nat) (r : Route) : Route where
  cursor := { r.cursor with set := true, distance := d }
  stops := r.stops.map (Option.map (Stop.fixedAt d))
  segments := r.segments.map (Option.map (Segment.fixedAt d))

theorem State.firstFix_route (s : State) (d : Nat) : (s.firstFix d).route =
    let r := s.route.fixedAt d
    { r with cursor := { r.cursor with nextStop := r.firstOpenStop } } := by
  have h : ((indices 256).foldl (State.fixSegment d) ((indices 64).foldl (State.fixStop d)
      (s.setCursor { s.route.cursor with set := true, distance := d }))).route = s.route.fixedAt d := by
    rw [State.foldl_fixSegment_route, Tab.foldl_modify_indices, State.foldl_fixStop_route, Tab.foldl_modify_indices,
      State.setCursor_route]
    rfl
  unfold State.firstFix
  dsimp only
  rw [State.recomputeNext_route, h]

/-! ## POSITION (R32) -/

/-- R32: the overspeed filing of a POSITION offered at speed `v`. -/
def State.speedChecked (v : Nat) (s : State) : State := if 120 < v then s.fileFault .overspeed v 0 else s

theorem State.speedChecked_route (s : State) (v : Nat) : (s.speedChecked v).route = s.route := by
  unfold State.speedChecked
  split
  · exact State.fileFault_route rfl _ _ _
  · rfl

theorem State.speedChecked_frame (s : State) (v : Nat) :
    s.speedChecked v = { s with faults := (s.speedChecked v).faults, ports := (s.speedChecked v).ports } := by
  unfold State.speedChecked
  split
  · exact State.fileFault_noncritical rfl _ _
  · rfl

theorem State.speedChecked_slow {v : Nat} (h : v ≤ 120) (s : State) : s.speedChecked v = s := if_neg (Nat.not_lt.2 h)

theorem State.speedChecked_fast {v : Nat} (h : 120 < v) (s : State) : (s.speedChecked v).faults.banks.get 2 =
    (s.faults.banks.get 2).file .overspeed ((s.faults.banks.get 2).mask.getLsbD 1) v 0 s.ctl.time := by
  unfold State.speedChecked
  rw [if_pos h]
  exact State.fileFault_bank (k := .overspeed) rfl s v 0

/-- R32: the hub once a POSITION of port `p` has given up the cursor's reservations, and its speed and its sender are taken. -/
def State.moverTaken (p : Port) (v : Nat) (s : State) : State :=
  ((s.touch cursorRec).speedChecked v).onRoute fun r =>
    { r with cursor := { s.route.cursor with speed := min v 120, lastMover := some p } }

theorem State.moverTaken_route (p : Port) (v : Nat) (s : State) : (s.moverTaken p v).route =
    { s.route with cursor := { s.route.cursor with speed := min v 120, lastMover := some p } } := by
  rw [State.moverTaken, State.onRoute_route, State.speedChecked_route]; rfl

theorem State.moverTaken_store (p : Port) (v : Nat) (s : State) : (s.moverTaken p v).store = s.store :=
  (congrArg State.store ((s.touch cursorRec).speedChecked_frame v) :)

/-- No reservation of the cursor stands when the speed and the sender are taken, so none is cleared for them. -/
theorem State.setCursor_speedChecked (v : Nat) (s : State) (c : Cursor) : ((s.touch cursorRec).speedChecked v).setCursor c =
    ((s.touch cursorRec).speedChecked v).onRoute fun r => { r with cursor := c } := by
  have hd : Drift (s.touch cursorRec) ((s.touch cursorRec).speedChecked v) := .ite (.fileFault _ _ _ _) (.refl _)
  exact State.setCursor_of_unreserved (fun q e => State.touch_resv ((hd.ports q).resv_of e)) c

theorem State.position_eq (p : Port) (d v : Nat) (s : State) : s.position p d v =
    if s.route.cursor.set then if d < s.route.cursor.distance then (s.moverTaken p v).stepBack d else (s.moverTaken p v).forward d
    else (s.moverTaken p v).firstFix d := by
  have hr : ((s.touch cursorRec).speedChecked v).route = s.route := State.speedChecked_route _ _
  have hm : ((s.touch cursorRec).speedChecked v).setCursor
      { ((s.touch cursorRec).speedChecked v).route.cursor with speed := min v 120, lastMover := some p } = s.moverTaken p v := by
    rw [State.setCursor_speedChecked, hr]; rfl
  have hc := congrArg Route.cursor (s.moverTaken_route p v)
  calc s.position p d v
      = if (s.moverTaken p v).route.cursor.set then
          if d < (s.moverTaken p v).route.cursor.distance then (s.moverTaken p v).stepBack d else (s.moverTaken p v).forward d
        else (s.moverTaken p v).firstFix d := by rw [← hm]; rfl
    _ = _ := by rw [hc]

theorem State.stepBack_route (s : State) (d : Nat) : (s.stepBack d).route = s.route := by
  unfold State.stepBack
  dsimp only
  split
  · exact State.fileFault_route rfl _ _ _
  · rfl

theorem State.stepBack_store (s : State) (d : Nat) : (s.stepBack d).store = s.store := by
  unfold State.stepBack
  dsimp only
  split
  · exact State.fileFault_store rfl _ _ _
  · rfl

theorem exec_position (p : Port) (s : State) : exec (.position p) s = (s.take p .position (positionBody p)).done := rfl

section
variable {p : Port} {s : State} {h : InHand} {d0 d1 d2 d3 v : Byte}

/-- R32: a POSITION beyond the route is refused. -/
theorem exec_position_refused (hh : s.holds p .position h) (hn : s.store.noted = []) (hp : h.payload = [d0, d1, d2, d3, v])
    (hd : 262143 < natLE [d0, d1, d2, d3]) : exec (.position p) s = .next (s.refusedWrite p h .badArgument) := by
  have hb : positionBody p h.payload (s.dropResv p) = (s.dropResv p).answer .badArgument := by rw [hp]; exact if_pos hd
  rw [exec_position, State.take_of_holds hh, if_pos (show Command.position.kind = .write from rfl), hb, State.respond_answer]
  exact State.done_of_noted hn

/-- R32: a POSITION accepted, in whose move no table was read under parity. -/
theorem exec_position_accepted (hh : s.holds p .position h) (hp : h.payload = [d0, d1, d2, d3, v])
    (hd : natLE [d0, d1, d2, d3] ≤ 262143) {t : State} (ht : (s.dropResv p).position p (natLE [d0, d1, d2, d3]) v.toNat = t)
    (hn : t.store.noted = []) : exec (.position p) s = .next (t.withReply p h .ok (fixBytes t.route.cursor)) := by
  have hb : positionBody p h.payload (s.dropResv p) = t.fixAnswer := by rw [hp, ← ht]; exact if_neg (Nat.not_lt.2 hd)
  rw [exec_position, State.take_of_holds hh, if_pos (show Command.position.kind = .write from rfl), hb]
  exact State.done_of_noted hn

/-- R34: the outcome of a POSITION below the cursor's distance. -/
theorem exec_position_back (hh : s.holds p .position h) (hn : s.store.noted = []) (hp : h.payload = [d0, d1, d2, d3, v])
    (hd : natLE [d0, d1, d2, d3] ≤ 262143) (hs : s.route.cursor.set = true) (hb : natLE [d0, d1, d2, d3] < s.route.cursor.distance) :
    exec (.position p) s = .next ((((s.dropResv p).moverTaken p v.toNat).stepBack (natLE [d0, d1, d2, d3])).withReply p h .ok
      (fixBytes { s.route.cursor with speed := min v.toNat 120, lastMover := some p })) := by
  have ht : (s.dropResv p).position p (natLE [d0, d1, d2, d3]) v.toNat =
      ((s.dropResv p).moverTaken p v.toNat).stepBack (natLE [d0, d1, d2, d3]) := by
    rw [State.position_eq]
    exact (if_pos hs).trans (if_pos hb)
  have hr := congrArg Route.cursor ((State.stepBack_route _ (natLE [d0, d1, d2, d3])).trans ((s.dropResv p).moverTaken_route p v.toNat))
  rw [exec_position_accepted hh hp hd ht (by rw [State.stepBack_store, State.moverTaken_store]; exact hn), hr]
  rfl

/-- R33: the outcome of a POSITION taken while the cursor is UNSET. -/
theorem exec_position_fix (hh : s.holds p .position h) (hn : s.store.noted = []) (hp : h.payload = [d0, d1, d2, d3, v])
    (hd : natLE [d0, d1, d2, d3] ≤ 262143) (hs : s.route.cursor.set = false) :
    let t := ((s.dropResv p).moverTaken p v.toNat).firstFix (natLE [d0, d1, d2, d3])
    exec (.position p) s = .next (t.withReply p h .ok (fixBytes t.route.cursor)) := by
  have ht : (s.dropResv p).position p (natLE [d0, d1, d2, d3]) v.toNat =
      ((s.dropResv p).moverTaken p v.toNat).firstFix (natLE [d0, d1, d2, d3]) := by
    rw [State.position_eq]
    exact if_neg (by rw [State.dropResv, State.onPort_route, hs]; exact Bool.false_ne_true)
  refine exec_position_accepted hh hp hd ht ?_
  rw [(QuietMove.firstFix _ _).store, State.moverTaken_store]
  exact hn

end

/-- R33: the Route Unit after a first fix by port `p`: the cursor and, record by record, the tables. -/
theorem State.moverTaken_firstFix_route (s : State) (p : Port) (d v : Nat) :
    let r := ((s.moverTaken p v).firstFix d).route
    r.cursor = ⟨true, d, min v 120, r.firstOpenStop, some p⟩ ∧
    (∀ i, r.stops.get i = (s.route.stops.get i).map (Stop.fixedAt d)) ∧
    (∀ i, r.segments.get i = (s.route.segments.get i).map (Segment.fixedAt d)) := by
  dsimp only
  rw [State.firstFix_route, State.moverTaken_route]
  exact ⟨rfl, Tab.get_map _ _, Tab.get_map _ _⟩

/-- R33: what a first fix leaves alone, but for the filing of an overspeed. -/
theorem QuietMove.moverTaken_firstFix (s : State) (p : Port) (d v : Nat) :
    QuietMove ((s.touch cursorRec).speedChecked v) ((s.moverTaken p v).firstFix d) := (QuietMove.onRoute _ _).trans (.firstFix _ _)

/-- Settles O25: the refusal (R32), the first fix (R33) and the step backward that is held (R34). -/
theorem positionFixesAndHolds : Obligations.PositionFixesAndHolds := by
  unfold Obligations.PositionFixesAndHolds
  refine ⟨fun p s h d0 d1 d2 d3 v hh ⟨_, _, hn⟩ hp => ⟨exec_position_refused hh hn hp, fun hd hs =>
    ⟨_, exec_position_fix hh hn hp hd hs, ?_⟩⟩,
    fun p s h d0 d1 d2 d3 v hh ⟨_, _, hn⟩ hp hd hs hb => exec_position_back hh hn hp hd hs hb⟩
  obtain ⟨hc, hstops, hsegs⟩ := (s.dropResv p).moverTaken_firstFix_route p (natLE [d0, d1, d2, d3]) v.toNat
  have hq := QuietMove.moverTaken_firstFix (s.dropResv p) p (natLE [d0, d1, d2, d3]) v.toNat
  generalize ((s.dropResv p).moverTaken p v.toNat).firstFix (natLE [d0, d1, d2, d3]) = t at *
  have hq := hq.trans (.withReply t p h .ok (fixBytes t.route.cursor))
  refine ⟨hc, hstops, hsegs, ?_, ?_, fun hv => ?_, fun hv => ?_⟩
  · rw [State.withReply, State.onPort_ports, Tab.get_modify_self]; rfl
  · exact (congrArg (fun x => { x with route := s.route, ports := s.ports, faults := s.faults }) hq.frame).trans
      (congrArg (fun x => { x with route := s.route, ports := s.ports, faults := s.faults }) (State.speedChecked_frame _ _))
  · rw [State.speedChecked_slow hv] at hq
    have hq := (QuietMove.dropResv s p).trans ((QuietMove.touch _ _).trans hq)
    exact ⟨hq.faults, hq.queue⟩
  · rw [hq.faults]
    exact State.speedChecked_fast hv _

end Sys2Proof.Machine
end

section
/-! SUPPORT. The Deck Light Engine's arithmetic (R138 to R143, R153): samples, composition, outputs and fades. -/

namespace Sys2Proof.Machine

/-! ## Sampling (R138, R139) -/

/-- R139: INVERT leaves a sample, or turns an opaque one TRANSPARENT and a TRANSPARENT one into the fill colour. -/
theorem Layer.turn_eq (y : Layer) (c : Cell) :
    y.turn c = if y.invert = false then c else c.elim (some y.fillC) fun _ => none := by
  cases c <;> cases h : y.invert <;> simp [Layer.turn, h]

section
variable {y : Layer} {z : ZoneNo}

theorem Layer.sample_normal (h : y.scale = .normal) : y.sample z = y.turn (y.cellAt z.val) := by
  simp [Layer.sample, Layer.rawSample, h]

theorem Layer.sample_zoom2 (h : y.scale = .zoom2) : y.sample z = y.turn (y.cellAt (z.val / 2)) := by
  simp [Layer.sample, Layer.rawSample, h]

theorem Layer.sample_shrink2 (h : y.scale = .shrink2) {c d : Cell} (hc : y.cellAt (2 * z.val) = c) (hd : y.cellAt (2 * z.val + 1) = d) :
    y.sample z = y.turn (shrinkCells c d) := by
  simp [Layer.sample, Layer.rawSample, h, hc, hd]

end

/-- Settles O47: each scale's cells, turned over by INVERT. -/
theorem layersAreSampled : Obligations.LayersAreSampled := by
  unfold Obligations.LayersAreSampled
  intro y z n cell turned _
  have turned_eq (c : Cell) : y.turn c = turned c := by
    rw [y.turn_eq]
    cases c <;> rfl
  refine ⟨fun h => ?_, fun h => ?_, fun h => ⟨fun a b ha hb => ?_, fun a ha hb => ?_, fun b ha hb => ?_, fun ha hb => ?_⟩⟩
  · exact (Layer.sample_normal h).trans (turned_eq _)
  · exact (Layer.sample_zoom2 h).trans (turned_eq _)
  all_goals exact (Layer.sample_shrink2 h ha hb).trans (turned_eq _)

/-! ## Channels stay colours (R136, R140) -/

/-- A colour whose channels are 0 to 255. -/
def Colour.Legal (c : Colour) : Prop := c.r ≤ 255 ∧ c.g ≤ 255 ∧ c.b ≤ 255

/-- A cell that is TRANSPARENT or holds a legal colour. -/
def Cell.Legal (x : Cell) : Prop := ∀ c, x = some c → c.Legal

/-- A layer whose cells and fill colour are legal. -/
structure Layer.Legal (y : Layer) : Prop where
  cells : ∀ x ∈ y.cells, Cell.Legal x
  fillC : y.fillC.Legal

theorem Colour.black_legal : Colour.black.Legal := by simp [Colour.Legal, Colour.black]

theorem Cell.none_legal : Cell.Legal none := nofun

theorem Cell.some_legal {c : Colour} (h : c.Legal) : Cell.Legal (some c) := by
  rintro _ ⟨⟩
  exact h

theorem Cell.Legal.getD_black {x : Cell} (h : Cell.Legal x) : (x.getD Colour.black).Legal := by
  cases x with
  | none => exact Colour.black_legal
  | some c => exact h c rfl

theorem Colour.Legal.zip {f : Nat → Nat → Nat} (hf : ∀ u v, u ≤ 255 → v ≤ 255 → f u v ≤ 255) {a b : Colour} (ha : a.Legal) (hb : b.Legal) :
    (a.zip f b).Legal :=
  let ⟨ar, ag, ab⟩ := ha
  let ⟨br, bg, bb⟩ := hb
  ⟨hf _ _ ar br, hf _ _ ag bg, hf _ _ ab bb⟩

/-- R140: no combine function leaves the range of a channel. -/
theorem combineChannel_le (f : Combine) (a c : Nat) (ha : a ≤ 255) (hc : c ≤ 255) : combineChannel f a c ≤ 255 := by
  cases f with
  | replace => exact hc
  | max => exact Nat.max_le.2 ⟨ha, hc⟩
  | min => exact (Nat.min_le_left _ _).trans ha
  | add => exact Nat.min_le_left _ _
  | subtract => exact (Nat.sub_le _ _).trans ha
  | average => simp only [combineChannel]; omega
  | scale => exact Nat.div_le_of_le_mul (Nat.mul_le_mul ha hc)

theorem shrinkCells_legal {x y : Cell} (hx : Cell.Legal x) (hy : Cell.Legal y) : Cell.Legal (shrinkCells x y) := by
  cases x with
  | none => cases y <;> exact hy
  | some a =>
    cases y with
    | none => exact hx
    | some b => exact Cell.some_legal (.zip (fun u v _ _ => by omega) (hx a rfl) (hy b rfl))

namespace Layer.Legal
variable {y : Layer}

theorem cellAt (h : y.Legal) (i : Nat) : Cell.Legal (y.cellAt i) := by
  unfold Layer.cellAt
  by_cases hi : (i + y.offset) % y.cells.length < y.cells.length
  · rw [List.getD_eq_getElem _ _ hi]
    exact h.cells _ (List.getElem_mem hi)
  · rw [List.getD_eq_default _ _ (Nat.not_lt.1 hi)]
    exact Cell.none_legal

theorem rawSample (h : y.Legal) (z : ZoneNo) : Cell.Legal (y.rawSample z) := by
  unfold Layer.rawSample
  split
  · exact h.cellAt _
  · exact h.cellAt _
  · exact shrinkCells_legal (h.cellAt _) (h.cellAt _)

theorem turn (h : y.Legal) {c : Cell} (hc : Cell.Legal c) : Cell.Legal (y.turn c) := by
  rw [Layer.turn_eq]
  split
  · exact hc
  · cases c with
    | none => exact Cell.some_legal h.fillC
    | some _ => exact Cell.none_legal

theorem sample (h : y.Legal) (z : ZoneNo) : Cell.Legal (y.sample z) := h.turn (h.rawSample z)

theorem start (h : y.Legal) (z : ZoneNo) : (y.start z).Legal := by
  unfold Layer.start
  split
  · exact (h.sample z).getD_black
  · exact Colour.black_legal

end Layer.Legal

/-! ## Composition (R140) -/

section
variable {y : Layer} {z : ZoneNo}

theorem Layer.join_unchanged (h : y.enabled = false ∨ y.sample z = none) (acc : Colour) : y.join z acc = acc := by
  rcases h with h | h <;> simp [Layer.join, h]

theorem Layer.join_opaque {c : Colour} (he : y.enabled = true) (hs : y.sample z = some c) (acc : Colour) :
    y.join z acc = acc.zip (combineChannel y.combine) c := by
  simp [Layer.join, he, hs]

theorem Layer.start_eq (y : Layer) (z : ZoneNo) :
    y.start z = (y.sample z).elim Colour.black fun c => if y.enabled then c else Colour.black := by
  unfold Layer.start
  cases y.sample z <;> simp

theorem Layer.Legal.join (h : y.Legal) {acc : Colour} (ha : acc.Legal) : (y.join z acc).Legal := by
  by_cases he : y.enabled = true
  · cases hs : y.sample z with
    | none => rwa [Layer.join_unchanged (.inr hs)]
    | some c =>
      rw [Layer.join_opaque he hs]
      exact ha.zip (combineChannel_le _) (h.sample z c hs)
  · rwa [Layer.join_unchanged (.inl (Bool.eq_false_iff.2 he))]

end

theorem Light.composed_legal {g : Light} (h : ∀ k, (g.layers.get k).Legal) (z : ZoneNo) : (g.composed z).Legal :=
  (h 3).join ((h 2).join ((h 1).join ((h 0).start z)))

/-! ## Outputs (R142, R143) -/

section
variable {z : ZoneNo}

theorem Light.output_stair (g : Light) (h : 44 ≤ z.val) :
    g.output 0 z = (g.composed z).zip Max.max g.floorC ∧ g.output 1 z = g.fallback.zip Max.max g.floorC := by
  simp [Light.output, stairZone, h]

theorem Light.output_dimmed (g : Light) (h : z.val < 44) :
    g.output 0 z = (g.composed z).map (fun v => v * g.dim / 255) ∧ g.output 1 z = g.fallback := by
  simp [Light.output, stairZone, Nat.not_le.2 h]

end

/-! ## Fades (R153) -/

/-- R153: from the fade time on, and at once with a fade time of 0, a channel stands at its to value. -/
theorem fadeChannel_done {e f : Nat} (h : f ≤ e) (a b : Nat) : fadeChannel e f a b = b := by
  unfold fadeChannel
  split
  · rfl
  · next hf => rw [Nat.min_eq_right h, Int.mul_ediv_cancel _ (by omega)]; omega

theorem fadeChannel_zero {f : Nat} (h : 0 < f) (a b : Nat) : fadeChannel 0 f a b = a := by
  simp [fadeChannel, h.ne']

/-- R153: the quotient of a fade in progress, which its channel takes as it is: it is never negative. -/
theorem fadeChannel_cast {f : Nat} (h : 0 < f) (e a b : Nat) :
    (fadeChannel e f a b : Int) = a + ((b : Int) - a) * (min e f : Nat) / f := by
  have hf : (0 : Int) < f := by exact_mod_cast h
  have hm : ((min e f : Nat) : Int) ≤ f := by exact_mod_cast Nat.min_le_right e f
  have hq : -(a : Int) ≤ ((b : Int) - a) * (min e f : Nat) / f := by
    refine Int.le_ediv_of_mul_le hf ?_
    calc -(a : Int) * f ≤ -(a : Int) * (min e f : Nat) := Int.mul_le_mul_of_nonpos_left (by omega) hm
      _ ≤ ((b : Int) - a) * (min e f : Nat) := Int.mul_le_mul_of_nonneg_right (by omega) (by omega)
  rw [fadeChannel, if_neg h.ne', Int.toNat_of_nonneg (by omega)]

/-- R153: a channel moves one way, toward its to value. -/
theorem fadeChannel_mono {e e' : Nat} (h : e ≤ e') (f a b : Nat) :
    (a ≤ b → fadeChannel e f a b ≤ fadeChannel e' f a b) ∧ (b ≤ a → fadeChannel e' f a b ≤ fadeChannel e f a b) := by
  rcases Nat.eq_zero_or_pos f with rfl | hf
  · simp [fadeChannel]
  have hm : ((min e f : Nat) : Int) ≤ (min e' f : Nat) := by omega
  have hdiv {u v : Int} (huv : u ≤ v) : u / f ≤ v / f := Int.ediv_le_ediv (by omega) huv
  have hc := fadeChannel_cast hf e a b
  have hc' := fadeChannel_cast hf e' a b
  constructor <;> intro hab
  · have := hdiv (Int.mul_le_mul_of_nonneg_left hm (show (0 : Int) ≤ (b : Int) - a by omega))
    omega
  · have := hdiv (Int.mul_le_mul_of_nonpos_left (show (b : Int) - a ≤ 0 by omega) hm)
    omega

/-- R153: between its start and its end a channel is between its two values, since it moves one way. -/
theorem fadeChannel_between (e f a b : Nat) : min a b ≤ fadeChannel e f a b ∧ fadeChannel e f a b ≤ max a b := by
  rcases Nat.eq_zero_or_pos f with rfl | hf
  · rw [fadeChannel_done (Nat.zero_le e)]; omega
  have hstart := fadeChannel_mono (Nat.zero_le e) f a b
  have hend := fadeChannel_mono (Nat.le_max_left e f) f a b
  rw [fadeChannel_zero hf] at hstart
  rw [fadeChannel_done (Nat.le_max_right e f)] at hend
  omega

theorem fadeCell_some (e f : Nat) (a b : Colour) : fadeCell e f a (some b) = some (a.zip (fadeChannel e f) b) := rfl

/-- Settles O48: composition and the outputs (R140, R142, R143), then fades (R153). -/
theorem zonesAndFadesAreComputed : Obligations.ZonesAndFadesAreComputed := by
  unfold Obligations.ZonesAndFadesAreComputed
  refine ⟨⟨fun y z acc h => Layer.join_unchanged h acc, fun y z acc c he hs => ?_, fun g z h => ?_,
    fun g z => ⟨?_, fun hz => ?_, fun hz => g.output_dimmed hz, rfl⟩⟩, fun _ _ _ => rfl, fun e f a b => ?_,
    fun e e' f a b h => fadeChannel_mono h f a b⟩
  · rw [Layer.join_opaque he hs]
    refine ⟨?_, ?_, ?_, ?_, ?_, ?_, ?_⟩ <;> intro hf <;> rw [hf] <;> rfl
  · refine Light.composed_legal (fun k => ?_) z
    obtain ⟨hcells, hfill⟩ := h k
    exact ⟨hcells, hfill⟩
  · rw [Light.composed, Layer.start_eq]
    cases (g.layers.get 0).sample z <;> rfl
  · obtain ⟨hrun, hfall⟩ := g.output_stair hz
    rw [hrun, hfall]
    have most_ge (a b : Colour) : b.r ≤ (a.zip Max.max b).r ∧ b.g ≤ (a.zip Max.max b).g ∧ b.b ≤ (a.zip Max.max b).b :=
      ⟨Nat.le_max_right _ _, Nat.le_max_right _ _, Nat.le_max_right _ _⟩
    exact ⟨rfl, rfl, most_ge _ _, most_ge _ _⟩
  · refine ⟨_, fadeCell_some e f a b, fun hf => ⟨fadeChannel_cast hf .., fadeChannel_cast hf .., fadeChannel_cast hf ..⟩, fun h => ?_,
      fun h hf => ?_, fadeChannel_between .., fadeChannel_between .., fadeChannel_between ..⟩
    · simp only [Colour.zip, fadeChannel_done h]
    · simp only [Colour.zip, h, fadeChannel_zero hf]

end Sys2Proof.Machine
end

section
/-! SUPPORT. Events and the ATN lines (R182 to R184): when a line is asserted, and what posting, filing, EVENT-READ and power-on do to it. -/

namespace Sys2Proof.Machine

/-! ## The line of a port -/

theorem State.atn_iff (s : State) (p : Port) :
    s.atn p = true ↔ (s.ports.get p).queue ≠ [] ∨ (s.ports.get p).overrun = true := by
  simp [State.atn]

theorem State.withReply_atn (s : State) (p : Port) (h : InHand) (st : Status) (bs : List Byte) (q : Port) :
    (s.withReply p h st bs).atn q = s.atn q := by
  unfold State.atn State.withReply
  rw [State.onPort_ports, Tab.get_modify]
  split <;> rfl

/-! ## Posting (R182) -/

theorem State.post_get (s : State) (k : EventKind) (a b c : Nat) (p : Port) : (s.post k a b c).ports.get p =
    if maskSelects (s.ports.get p).mask k then (s.ports.get p).receive (s.event k a b c) else s.ports.get p := by
  rw [State.post, State.onPorts_ports, Tab.get_map]

/-- R184: an event that is received asserts the line, whether it joins the queue or is dropped. -/
theorem PortState.receive_signals (e : Event) (ps : PortState) : (!(ps.receive e).queue.isEmpty || (ps.receive e).overrun) = true := by
  unfold PortState.receive
  split <;> simp

/-- R184: a post asserts the lines of the ports that select its kind, and leaves the others. -/
theorem State.post_atn (s : State) (k : EventKind) (a b c : Nat) (p : Port) :
    (s.post k a b c).atn p = (s.atn p || maskSelects (s.ports.get p).mask k) := by
  unfold State.atn
  rw [State.post_get]
  cases maskSelects (s.ports.get p).mask k with
  | true => rw [if_pos rfl, PortState.receive_signals, Bool.or_true]
  | false => rw [if_neg Bool.false_ne_true, Bool.or_false]

/-- R168, R184: an enabled filing asserts the lines of the ports that select FAULT. -/
theorem State.fileFault_atn {k : FaultKind} (h : faultCritical k = false) (s : State) (d1 d2 : Nat) (p : Port) :
    (s.fileFault k d1 d2).atn p =
      (s.atn p || (s.faults.banks.get (bankIndex (faultBank k))).enabled k && maskSelects (s.ports.get p).mask .fault) := by
  unfold State.fileFault
  simp only [h, Bool.and_false, Bool.false_eq_true, if_false]
  cases (s.faults.banks.get (bankIndex (faultBank k))).enabled k with
  | true => exact State.post_atn _ _ _ _ _ p
  | false => exact (Bool.or_false _).symm

/-! ## EVENT-READ (R183) -/

/-- R183: the first `n` records taken from the queue of port `p`, and its overrun flag cleared. -/
def State.queueRead (p : Port) (n : Nat) (s : State) : State :=
  s.onPort p fun ps => { ps with queue := (s.ports.get p).queue.drop n, overrun := false }

/-- R183: the hub once an EVENT-READ of `n` records has filed the overrun flag that it found set. -/
def State.eventsTaken (p : Port) (n : Nat) (s : State) : State :=
  if (s.ports.get p).overrun then (s.queueRead p n).fileFault .eventOverrun p.val 0 else s.queueRead p n

theorem exec_eventRead {p : Port} {s : State} {h : InHand} {b : Byte} (hh : s.holds p .eventRead h) (hp : h.payload = [b])
    (h1 : 1 ≤ b.toNat) (h16 : b.toNat ≤ 16) :
    ∃ bs, exec (.eventRead p) s = .next ((s.eventsTaken p b.toNat).withReply p h .ok bs) := by
  have hb : eventReadBody p [b] s = (s.eventsTaken p b.toNat).ok (eventReadBody p [b] s).payload := by
    have hn : ¬ (b.toNat = 0 ∨ 16 < b.toNat) := by omega
    simp only [eventReadBody, oneNumber, natLE, List.length_singleton, if_true, Nat.mul_zero, Nat.add_zero, if_neg hn]
    rfl
  refine ⟨(eventReadBody p [b] s).payload, ?_⟩
  calc exec (.eventRead p) s = .next (s.take p .eventRead (eventReadBody p)) := rfl
    _ = _ := by rw [State.take_of_holds hh, if_neg (show ¬ Command.eventRead.kind = .write by decide), hp, hb, State.respond_ok]; rfl

theorem State.queueRead_all {s : State} {p : Port} {n : Nat} (hn : (s.ports.get p).queue.length ≤ n) :
    (s.queueRead p n).ports.get p = { s.ports.get p with queue := [], overrun := false } := by
  rw [State.queueRead, State.onPort_ports, Tab.get_modify_self, List.drop_eq_nil_of_le hn]

/-- R184: after a read that takes everything, the line is asserted by the FAULT record of EVENT-OVERRUN alone. -/
theorem State.eventsTaken_atn {s : State} {p : Port} {n : Nat} (hn : (s.ports.get p).queue.length ≤ n) :
    (s.eventsTaken p n).atn p = ((s.ports.get p).overrun &&
      ((s.faults.banks.get 5).mask.getLsbD 1 && (s.ports.get p).mask.getLsbD 16)) := by
  have hoff : (s.queueRead p n).atn p = false := by
    unfold State.atn
    rw [State.queueRead_all hn]
    rfl
  unfold State.eventsTaken
  cases (s.ports.get p).overrun with
  | true =>
    rw [if_pos rfl, State.fileFault_atn rfl, hoff, State.queueRead_all hn]
    rfl
  | false => exact hoff

/-! ## Parking a hub in which nothing plays (R186, R187) -/

/-- No item waits or plays, no bed is bound and no cue plays: there is nothing to release on entry to STANDBY. -/
structure State.NothingPlays (s : State) : Prop where
  queues : ∀ p, s.queueOf p = []
  beds : ∀ p, (s.voice p .bed).bind = none
  players : ∀ k, s.light.players.get k = none

section
variable {s : State}

theorem State.emptyQueue_of_empty {p : Prog} (h : s.queueOf p = []) : s.emptyQueue p = s := by
  have hset : s.setQueue p [] = s := by
    rw [← h, State.setQueue, State.queueOf]
    simp only [State.onCom, Tab.set_get]
  rw [State.emptyQueue, State.removeItems, h]
  exact hset

theorem State.bedRelease_of_unbound {p : Prog} (h : (s.voice p .bed).bind = none) : s.bedRelease p = s := by
  rw [State.bedRelease, h]

theorem State.playerStop_of_none {k : PlayerNo} (h : s.light.players.get k = none) : s.playerStop k = s := by
  rw [State.playerStop, h]

theorem State.NothingPlays.emptyQueues (h : s.NothingPlays) : s.emptyQueues = s :=
  List.foldl_fixed' (fun p => State.emptyQueue_of_empty (h.queues p)) _

theorem State.NothingPlays.releaseBeds (h : s.NothingPlays) : s.releaseBeds = s :=
  List.foldl_fixed' (fun p => State.bedRelease_of_unbound (h.beds p)) _

theorem State.NothingPlays.stopPlayers (h : s.NothingPlays) : s.stopPlayers = s := by
  rw [State.stopPlayers, State.playerStop_of_none (h.players 0), State.playerStop_of_none (h.players 1),
    State.playerStop_of_none (h.players 2)]

theorem State.NothingPlays.of_parts {t : State} (h : s.NothingPlays) (hcom : t.com = s.com) (hmix : t.mix = s.mix)
    (hlight : t.light = s.light) : t.NothingPlays where
  queues p := by rw [State.queueOf, hcom]; exact h.queues p
  beds p := by rw [State.voice, hmix]; exact h.beds p
  players k := by rw [hlight]; exact h.players k

theorem State.NothingPlays.changeOp (h : s.NothingPlays) (new : OpState) (cause : StateCause) : (s.changeOp new cause).NothingPlays :=
  h.of_parts rfl rfl rfl

theorem State.NothingPlays.setParkHold (h : s.NothingPlays) (hold : Option ParkHold) : (s.setParkHold hold).NothingPlays :=
  h.of_parts rfl rfl rfl

theorem State.seatStandby_rest (s : State) : s.seatStandby = { s with ports := s.seatStandby.ports, seat := s.seatStandby.seat } :=
  (SeatMove.recount _).rest

theorem State.seatStandby_store (s : State) : s.seatStandby.store = s.store := (congrArg State.store s.seatStandby_rest :)

theorem State.NothingPlays.seatStandby (h : s.NothingPlays) : s.seatStandby.NothingPlays :=
  h.of_parts (congrArg State.com s.seatStandby_rest :) (congrArg State.mix s.seatStandby_rest :) (congrArg State.light s.seatStandby_rest :)

/-- R187: STANDBY entered by a hub in which nothing plays. -/
theorem State.NothingPlays.enterStandby (h : s.NothingPlays) : s.enterStandby = (s.changeOp .standby .quiet).seatStandby := by
  have h' := h.changeOp .standby .quiet
  rw [State.enterStandby, h'.emptyQueues, h'.releaseBeds, h'.seatStandby.stopPlayers]

/-- R187: a hub that is quiet when PARK-PENDING is entered enters STANDBY in the same event. -/
theorem State.NothingPlays.enterPark (h : s.NothingPlays) (hq : s.ann.quiet = true) (hold : ParkHold) (cause : StateCause) :
    s.enterPark hold cause =
      (((s.changeOp .parkPending cause).setParkHold (some hold)).changeOp .standby .quiet).seatStandby := by
  rw [State.enterPark, State.quietCheck, if_pos ⟨rfl, hq⟩, ((h.changeOp _ _).setParkHold _).enterStandby]

end

/-! ## Lines that stay asserted -/

/-- Every line that is asserted before is asserted after. -/
def KeepsSignals (s t : State) : Prop := ∀ q, s.atn q = true → t.atn q = true

namespace KeepsSignals

theorem refl (s : State) : KeepsSignals s s := fun _ => id

theorem trans {s t u : State} (h : KeepsSignals s t) (k : KeepsSignals t u) : KeepsSignals s u := fun q => k q ∘ h q

theorem foldl {γ : Type} {f : State → γ → State} (h : ∀ s x, KeepsSignals s (f s x)) (l : List γ) (s : State) :
    KeepsSignals s (l.foldl f s) := by
  induction l generalizing s with
  | nil => exact refl s
  | cons x l ih => exact (h s x).trans (ih _)

theorem of_ports {s t : State} (h : t.ports = s.ports) : KeepsSignals s t := fun q hq => by
  rw [State.atn, h]
  exact hq

theorem post (s : State) (k : EventKind) (a b c : Nat) : KeepsSignals s (s.post k a b c) := fun q hq => by
  rw [State.post_atn, hq, Bool.true_or]

theorem changeOp (s : State) (new : OpState) (cause : StateCause) : KeepsSignals s (s.changeOp new cause) :=
  (of_ports rfl).trans (post _ _ _ _ _)

theorem decide128 (s : State) (p : Prog) (a : Activity) : KeepsSignals s (s.decide128 p a) := (of_ports rfl).trans (post _ _ _ _ _)

theorem setHold (s : State) (p : Prog) (t : Option Count32) : KeepsSignals s (s.setHold p t) := of_ports rfl

theorem startHold (s : State) (p : Prog) : KeepsSignals s (s.startHold p) := by
  unfold State.startHold
  dsimp only
  split
  · exact (setHold _ _ _).trans ((setHold _ _ _).trans (decide128 _ _ _))
  · exact setHold _ _ _

theorem recountOne (s : State) (p : Prog) : KeepsSignals s (s.recountOne p) := by
  unfold State.recountOne
  dsimp only
  refine (of_ports (t := s.onSeat fun k => { k with occ := k.occ.set p (s.seat.count127 p) }) rfl).trans ?_
  repeat' split
  · exact refl _
  · exact startHold _ _
  · exact (setHold _ _ _).trans (decide128 _ _ _)
  · exact setHold _ _ _
  · exact refl _

theorem seatStandby (s : State) : KeepsSignals s s.seatStandby := by
  unfold State.seatStandby
  exact (of_ports (s.onSeat_ports _)).trans (foldl recountOne _ _)

end KeepsSignals

/-! ## Power-on (R189) -/

/-- R189: the power-on values, with the instructions still to come and the PARK line at its level (log 20). -/
def State.poweredOn (s : State) : State :=
  { State.reset with pending := s.pending, fillSeq := s.fillSeq }.setParkLine s.ctl.parkLine

theorem State.poweredOn_nothingPlays (s : State) : s.poweredOn.NothingPlays where
  queues _ := Tab.get_fill _ _
  beds p := by
    show ((State.reset.mix.voices.get p).get .bed).bind = none
    rw [show State.reset.mix.voices.get p = ⟨.reset, .reset, .reset, .reset⟩ from Tab.get_fill _ _]
    rfl
  players _ := Tab.get_fill _ _

/-- R189: power-on leaves a STATE-CHANGED in every queue. -/
theorem State.poweredOn_atn (s : State) (p : Port) : s.poweredOn.atn p = true := by
  have hp : s.poweredOn.ports.get p = PortState.reset := Tab.get_fill _ _
  rw [State.atn_iff, hp]
  exact .inl (List.cons_ne_nil _ _)

/-- R189: a PARK line that is active after the reset is taken as going active. -/
theorem State.poweredOn_lineAfterReset (s : State) : s.poweredOn.lineAfterReset = if s.ctl.parkLine then
    (((s.poweredOn.changeOp .parkPending .parkLine).setParkHold (some .line)).changeOp .standby .quiet).seatStandby
    else s.poweredOn := by
  have hactive : s.poweredOn.lineActive = s.poweredOn.enterPark .line .parkLine := if_pos rfl
  have hline : s.poweredOn.ctl.parkLine = s.ctl.parkLine := rfl
  rw [State.lineAfterReset, hline, hactive, s.poweredOn_nothingPlays.enterPark rfl]

theorem exec_powerOnReset (s : State) : exec .powerOnReset s = .next s.poweredOn.lineAfterReset := by
  refine State.done_of_noted (s := s.poweredOn.lineAfterReset) ?_
  rw [State.poweredOn_lineAfterReset]
  split
  · rw [State.seatStandby_store]; rfl
  · rfl

theorem exec_powerOnReset_atn (s : State) : ∃ t, exec .powerOnReset s = .next t ∧ ∀ p, t.atn p = true := by
  refine ⟨_, exec_powerOnReset s, fun p => ?_⟩
  rw [State.poweredOn_lineAfterReset]
  split
  · have hpark : KeepsSignals s.poweredOn ((s.poweredOn.changeOp .parkPending .parkLine).setParkHold (some .line)) :=
      (KeepsSignals.changeOp _ _ _).trans (.of_ports rfl)
    exact (hpark.trans ((KeepsSignals.changeOp _ _ _).trans (.seatStandby _))) p (s.poweredOn_atn p)
  · exact s.poweredOn_atn p

/-- Settles O7: the post (R182), then the ATN lines (R184). -/
theorem eventsArePostedAndSignalled : Obligations.EventsArePostedAndSignalled := by
  unfold Obligations.EventsArePostedAndSignalled
  refine ⟨fun s k a b c => ⟨rfl, s.post_get k a b c⟩, State.atn_iff, fun p s h hh b hp h1 h16 hn => ?_, fun s k a b c p hm => ?_,
    exec_powerOnReset_atn⟩
  · obtain ⟨bs, ht⟩ := exec_eventRead hh hp h1 h16
    refine ⟨_, ht, ?_⟩
    rw [State.withReply_atn, State.eventsTaken_atn hn, Bool.and_eq_true, Bool.and_eq_true]
    exact and_congr_right fun _ => and_comm
  · rw [State.post_atn, show maskSelects (s.ports.get p).mask k = true from hm, Bool.or_true]

end Sys2Proof.Machine
end

section
/-! SUPPORT. Turns: every event is a chain of drifts and of the few changes that are none, each named with the event it belongs to. -/

namespace Sys2Proof.Machine

/-- A change of response slots, and of what is clocked out, alone. -/
structure SlotMove (s t : State) : Prop where
  frame : t = { s with ports := t.ports, fillSeq := t.fillSeq }
  port : ∀ p, t.ports.get p = { s.ports.get p with slot := (t.ports.get p).slot, dout := (t.ports.get p).dout }

theorem SlotMove.onPort (s : State) (p : Port) {f : PortState → PortState}
    (h : ∀ a, f a = { a with slot := (f a).slot, dout := (f a).dout }) : SlotMove s (s.onPort p f) where
  frame := rfl
  port q := by
    rw [State.onPort_ports, Tab.get_modify]
    split
    · exact h _
    · rfl

theorem SlotMove.trans {s t u : State} (h : SlotMove s t) (k : SlotMove t u) : SlotMove s u where
  frame := by rw [k.frame, h.frame]
  port q := by rw [k.port q, h.port q]

/-- The changes of which events are made: drifts, moves of response slots, and those that are neither. -/
inductive Turn : Instr → State → State → Prop
  | drift {i : Instr} {s t : State} : Drift s t → Turn i s t
  | slots {i : Instr} {s t : State} : SlotMove s t → Turn i s t
  | reserve (p : Port) (r : RecName) (s : State) : Turn (.reserve p) s (s.onPort p fun ps => { ps with resv := some r })
  | eventMask (p : Port) {bs : List Byte} {m : BitVec 24} (s : State) : eventMaskOf bs = some m →
      Turn (.eventMask p) s (s.onPort p fun ps => { ps with mask := m })
  | position (p : Port) (d v : Nat) (s : State) : Turn (.position p) s (s.position p d v)
  | jump (p : Port) (d : Nat) (s : State) : Turn (.jump p) s (s.jump p d)
  | routeClear (p : Port) (s : State) : Turn (.routeClear p) s s.routeClear
  | liveOn (p : Port) (c : Channel) (x : LiveOn) (s : State) : Turn (.liveOn p) s (s.setLive c (some x))
  | liveOff (p : Port) (c : Channel) (s : State) : Turn (.liveOff p) s (s.liveTurnsOff c)
  | liveTimeout (c : Channel) (s : State) : Turn (.liveTimeout c) s (s.liveTurnsOff c)
  | programmeWrite (p : Port) {q : Prog} {x : ProgRec} (s : State) : programmeLegal q.val x = true →
      Turn (.programmeWrite p) s (s.writeProgramme q (programmeClamp x))
  | duckWrite (p : Port) {bs : List Byte} {x : DuckTable} (s : State) : duckOf bs = some x →
      Turn (.duckWrite p) s ((s.onMix fun m => { m with duck := duckClamp x }).touch duckRec)
  | loudnessWrite (p : Port) (x : Loudness) (s : State) :
      Turn (.loudnessWrite p) s ((s.onMix fun m => { m with loud := loudnessClamp x }).touch loudnessRec)
  | seatConfig (p : Port) {n holdoff : Nat} (s : State) : 1 ≤ n → n ≤ 80 → holdoff ≤ 60000 →
      Turn (.seatConfig p) s (s.seatConfigure n holdoff)
  | layerWrite (p : Port) (l : LayerNo) (x : Layer) (s : State) :
      Turn (.layerWrite p) s ((s.onLight fun g => { g with layers := g.layers.set l x }).touch (layerRec l))
  | lightSet (p : Port) (d : Nat) (c e : Colour) (s : State) :
      Turn (.lightSet p) s (s.onLight fun g => { g with dim := d, floorC := c, fallback := e })
  | faultClear (p : Port) (b : Fin 6) (s : State) : Turn (.faultClear p) s (s.onBank b fun x => { x with record := none })
  | faultEnable (p : Port) {b : Fin 6} {m : Byte} (s : State) : m.toNat < 2 ^ bankSize b →
      Turn (.faultEnable p) s (s.onBank b fun x => { x with mask := m })
  | parkLine {i : Instr} (b : Bool) (s : State) : Turn i s (s.setParkLine b)
  | tick (ups : List Upset) (s : State) : Turn (.timeBaseTick ups) s (s.tick ups)
  | lamps {i : Instr} (z : Tab Colour 48) (a w : Bool) (s : State) :
      Turn i s (s.onLight fun g => { g with zones := z, acked := a, awaiting := w })
  | drain (noise : List (Fin 8 × WordError)) (w : WriteLine) (s : State) :
      Turn (.burstCompletion noise) s (s.onStore fun st => st.writeLine w)
  | restart (p : Port) (s : State) : Turn (.restart p) s s.restartValues
  | powerOnReset (s : State) : Turn .powerOnReset s s.poweredOn

/-- A chain of turns of one event. -/
abbrev Turns (i : Instr) : State → State → Prop := Relation.ReflTransGen (Turn i)

namespace Turns
variable {i : Instr} {s t u : State}

theorem one (h : Turn i s t) : Turns i s t := .single h

theorem drift (h : Drift s t) : Turns i s t := one (.drift h)

/-- A relation that every turn of an event keeps holds across the event. -/
theorem lift {R : State → State → Prop} (hr : ∀ s, R s s) (ht : ∀ s t u, R s t → R t u → R s u)
    (h1 : ∀ s t, Turn i s t → R s t) (h : Turns i s t) : R s t := by
  induction h with
  | refl => exact hr s
  | tail _ k ih => exact ht _ _ _ ih (h1 _ _ k)

theorem respond (p : Port) (tag : Byte) {a : Answer} (h : Turns i s a.state) : Turns i s (State.respond p tag a) :=
  h.tail (.slots (.onPort _ _ fun _ => rfl))

/-- R180: the turns of a command are those of its owning block's body. -/
theorem take (p : Port) (c : Command) {body : List Byte → State → Answer} (h : ∀ bs u, Turns i u (body bs u).state) (s : State) :
    Turns i s (s.take p c body) := by
  have hd : Turns i s (if c.kind = .write then s.dropResv p else s) := drift (.ite (.dropResv _ _) (.refl _))
  rcases s.take_spec p c body with e | ⟨x, _, _, _, ⟨_, e⟩ | ⟨_, e⟩⟩ <;> rw [e]
  · exact .respond _ _ (hd.trans (h _ _))
  · exact .respond _ _ hd

/-- The end of an event is a drift. -/
theorem done (h : Turns i s u) (e : u.done = .next t) : Turns i s t := by
  cases e
  exact h.tail (.drift (.settleParity _))

theorem next (h : Turns i s u) (e : Host.Outcome.next u = (.next t : Out)) : Turns i s t := by
  cases e
  exact h

theorem noArgs {bs : List Byte} {k : State → Answer} (h : Turns i s (k s).state) : Turns i s (Machine.noArgs bs s k).state := by
  unfold Machine.noArgs
  split
  · exact h
  · exact .refl

theorem withIndex {n : Nat} {bs : List Byte} {k : Fin n → State → Answer} (h : ∀ j, Turns i s (k j s).state) :
    Turns i s (Machine.withIndex n bs s k).state := by
  unfold Machine.withIndex
  split
  · exact h _
  · exact .refl

theorem withChannel {bs : List Byte} {k : Channel → State → Answer} (h : ∀ c, Turns i s (k c s).state) :
    Turns i s (Machine.withChannel bs s k).state := by
  unfold Machine.withChannel
  split
  · exact h _
  · exact .refl

/-! ## The bodies that are no drifts -/

theorem eventMaskBody (p : Port) (bs : List Byte) (s : State) : Turns (.eventMask p) s (eventMaskBody p bs s).state := by
  unfold Machine.eventMaskBody
  split
  · next m hm => exact one (.eventMask p s hm)
  · exact .refl

theorem reserveBody (p : Port) (bs : List Byte) (s : State) : Turns (.reserve p) s (reserveBody p bs s).state := by
  unfold Machine.reserveBody
  split
  · exact one (.reserve p _ s)
  · exact .refl

theorem positionBody (p : Port) (bs : List Byte) (s : State) : Turns (.position p) s (positionBody p bs s).state := by
  unfold Machine.positionBody
  split
  · dsimp only
    split
    · exact .refl
    · rw [State.fixAnswer_state]
      exact one (.position p _ _ s)
  · exact .refl

theorem jumpBody (p : Port) (bs : List Byte) (s : State) : Turns (.jump p) s (jumpBody p bs s).state := by
  unfold Machine.jumpBody
  split
  · split
    · exact .refl
    · rw [State.fixAnswer_state]
      exact one (.jump p _ s)
  · exact .refl

theorem liveOnBody (p : Port) (c : Channel) (s : State) : Turns (.liveOn p) s (liveOnBody p c s).state := by
  unfold Machine.liveOnBody
  have hon : Turns (.liveOn p) s (s.setLive c (some ⟨p, s.ctl.time⟩)) := one (.liveOn p c _ s)
  split
  · exact .refl
  · dsimp only
    split
    · exact hon
    · split
      · exact hon
      · exact .refl

theorem liveOffBody (p : Port) (c : Channel) (s : State) : Turns (.liveOff p) s (liveOffBody p c s).state := by
  unfold Machine.liveOffBody
  split
  · exact .refl
  · split
    · exact (one (.liveOff p c s)).tail (.drift (.afterLive _ c))
    · exact .refl

theorem programmeWriteBody (p : Port) (bs : List Byte) (s : State) :
    Turns (.programmeWrite p) s (programmeWriteBody bs s).state := by
  unfold Machine.programmeWriteBody
  split
  · exact .refl
  · next k x hx =>
    split
    · exact .refl
    · next q hq =>
      have hl : programmeLegal k x = true := (Option.filter_eq_some_iff.1 hx).2
      rw [toIndex_eq_some.1 hq] at hl
      exact one (.programmeWrite p s hl)

theorem duckWriteBody (p : Port) (bs : List Byte) (s : State) : Turns (.duckWrite p) s (duckWriteBody bs s).state := by
  unfold Machine.duckWriteBody
  split
  · exact .refl
  · next x hx => exact one (.duckWrite p s hx)

theorem loudnessWriteBody (p : Port) (bs : List Byte) (s : State) :
    Turns (.loudnessWrite p) s (loudnessWriteBody bs s).state := by
  unfold Machine.loudnessWriteBody
  split
  · exact .refl
  · exact one (.loudnessWrite p _ s)

theorem seatConfigBody (p : Port) (bs : List Byte) (s : State) : Turns (.seatConfig p) s (seatConfigBody bs s).state := by
  unfold Machine.seatConfigBody
  split
  · split
    · exact .refl
    · next h =>
      rw [State.ok_state]
      exact one (.seatConfig p s (by omega) (Nat.min_le_left _ _) (Nat.min_le_left _ _))
  · exact .refl

theorem layerWriteBody (p : Port) (bs : List Byte) (s : State) : Turns (.layerWrite p) s (layerWriteBody bs s).state := by
  unfold Machine.layerWriteBody
  split
  · exact .refl
  · split
    · exact .refl
    · exact one (.layerWrite p _ _ s)

theorem lightSetBody (p : Port) (bs : List Byte) (s : State) : Turns (.lightSet p) s (lightSetBody bs s).state := by
  unfold Machine.lightSetBody
  split
  · exact one (.lightSet p _ _ _ s)
  · exact .refl

theorem faultEnableBody (p : Port) (bs : List Byte) (s : State) : Turns (.faultEnable p) s (faultEnableBody bs s).state := by
  unfold Machine.faultEnableBody
  split
  · split
    · exact .refl
    · split
      · next h => exact one (.faultEnable p s h)
      · exact .refl
  · exact .refl

theorem lineAfterReset (s : State) : Turns i s s.lineAfterReset := drift (.ite (.lineActive _) (.refl _))

theorem restart (p : Port) (s : State) : Turns (.restart p) s s.restart :=
  ((one (.restart p s)).tail (.drift (.post _ _ _ _ _))).trans (lineAfterReset _)

theorem liveTimeout (c : Channel) (s : State) : Turns (.liveTimeout c) s (s.liveTimeout c) := by
  unfold State.liveTimeout
  split
  · exact .refl
  · split
    · exact ((one (.liveTimeout c s)).tail (.drift (.post _ _ _ _ _))).tail (.drift (.afterLive _ c))
    · exact .refl

theorem lampAnswer (ack : Bool) (s : State) : Turns (.lampLinkAnswer ack) s (s.lampAnswer ack) := by
  unfold State.lampAnswer
  split
  · exact (one (.lamps s.light.zones ack false s)).tail (.drift (.ite (.refl _) (.fileFault _ _ _ _)))
  · exact .refl

theorem burstDone (noise : List (Fin 8 × WordError)) (s : State) : Turns (.burstCompletion noise) s (s.burstDone noise) := by
  rcases s.burstDone_spec noise with h | ⟨w, x, _, h⟩
  · exact drift h
  · exact ((drift (.setBurst s none)).tail (.drain noise w _)).tail (.drift h)

theorem lightFrame (s : State) : Turns .lightFrame s s.lightFrame := by
  have hsend : ∀ u : State, Turn .lightFrame u u.sendFrame := fun u => .lamps (Tab.ofFn (u.light.output u.engineMode)) false true u
  unfold State.lightFrame
  exact (drift (.frameSteps s)).tail (hsend _)

theorem transact (p : Port) (bs : List Byte) (s : State) : Turns (.transaction p bs) s (s.transact p bs) := by
  have hclock : ∀ n, SlotMove s (s.clock p n) := fun n =>
    ⟨rfl, (SlotMove.onPort s p (f := fun ps => { ps with dout := clockOut (s.ports.get p).slot n s.fillSeq }) fun _ => rfl).port⟩
  have hslot : ∀ u x, SlotMove u (u.setResp p x) := fun u x => .onPort u p fun _ => rfl
  unfold State.transact
  split
  · exact one (.slots (hclock _))
  · have h : Turns (.transaction p bs) s ((s.clock p bs.length).setResp p .empty) := one (.slots ((hclock _).trans (hslot _ _)))
    unfold State.arrive
    dsimp only
    split
    · exact h
    · exact (h.tail (.slots (hslot _ _))).tail (.drift (.badFrame _ _ _ _))
    · exact h.tail (.slots (hslot _ _))
    · exact h.tail (.slots (hslot _ _))
    · exact h.tail (.slots (hslot _ _))

theorem conditionalTest (p : Port) (s : State) : Turns (.conditionalTest p) s (s.conditionalTest p) := by
  have hslot : ∀ u x, SlotMove u (u.setResp p x) := fun u x => .onPort u p fun _ => rfl
  unfold State.conditionalTest
  split
  · split
    · split
      · exact one (.slots (hslot _ _))
      · exact (drift (.dropResv s p)).tail (.slots (hslot _ _))
    · exact .refl
  · exact .refl

/-- A command that answers and changes nothing. -/
theorem read {bs : List Byte} {n : Nat} {k : Fin n → State → Answer} (h : ∀ j, (k j s).state = s) :
    Turns i s (Machine.withIndex n bs s k).state :=
  withIndex fun j => by rw [h j]

theorem plainRead {bs : List Byte} {k : State → Answer} (h : (k s).state = s) : Turns i s (Machine.noArgs bs s k).state :=
  noArgs (by rw [h])

end Turns

/-- Every event is a chain of turns. -/
theorem exec_turns {i : Instr} {s t : State} (h : exec i s = .next t) : Turns i s t := by
  cases i with
  | transaction p bs => exact .next (.transact p bs s) h
  | conditionalTest p => exact .next (.conditionalTest p s) h
  | identify p => exact .next (.take p _ (fun _ _ => .plainRead rfl) s) h
  | eventRead p => exact .next (.take p _ (fun bs u => .drift (.eventReadBody p bs u)) s) h
  | eventMask p => exact .next (.take p _ (Turns.eventMaskBody p) s) h
  | reserve p => exact .next (.take p _ (Turns.reserveBody p) s) h
  | reservationRead p => exact .next (.take p _ (fun _ _ => .plainRead rfl) s) h
  | park p => exact .done (.take p _ (fun _ u => .drift (.noArgs (.parkBody u))) s) h
  | unpark p => exact .next (.take p _ (fun _ u => .drift (.noArgs (.unparkBody u))) s) h
  | restart p => exact .done (.take p _ (fun _ u => .noArgs (Turns.restart p u)) s) h
  | loadOpen p => exact .done (.take p _ (fun bs u => .drift (.loadOpenBody p bs u)) s) h
  | loadData p => exact .done (.take p _ (fun bs u => .drift (.loadDataBody p bs u)) s) h
  | loadClose p => exact .done (.take p _ (fun _ u => .drift (.noArgs (.loadCloseBody p u))) s) h
  | loadAbort p => exact .done (.take p _ (fun _ u => .drift (.noArgs (.loadAbortBody p u))) s) h
  | clipDelete p => exact .done (.take p _ (fun _ u => .drift (.withWord fun c => .clipDeleteBody c u)) s) h
  | clipPin p => exact .done (.take p _ (fun _ u => .drift (.withWord fun c => .clipPinBody c u)) s) h
  | clipUnpin p => exact .done (.take p _ (fun _ u => .drift (.withWord fun c => .clipUnpinBody c u)) s) h
  | clipQuery p => exact .done (.take p _ (fun _ u => .drift (.withWord fun _ => Drift.onStore (.searchMap _))) s) h
  | storeStatus p => exact .done (.take p _ (fun _ u => .drift (.noArgs (Drift.onStore (.searchMap _)))) s) h
  | position p => exact .done (.take p _ (Turns.positionBody p) s) h
  | jump p => exact .done (.take p _ (Turns.jumpBody p) s) h
  | routeClear p => exact .done (.take p _ (fun _ u => .noArgs (by rw [State.answer_state]; exact .one (.routeClear p u))) s) h
  | cursorRead p => exact .next (.take p _ (fun _ _ => .plainRead rfl) s) h
  | stopWrite p => exact .next (.take p _ (fun bs u => .drift (.stopWriteBody bs u)) s) h
  | stopRemove p => exact .done (.take p _ (fun _ u => .drift (.withIndex fun j => .stopRemoveBody j u)) s) h
  | stopSkip p => exact .done (.take p _ (fun _ u => .drift (.withIndex fun j => .stopSkipBody j u)) s) h
  | stopRequest p => exact .done (.take p _ (fun _ u => .drift (.noArgs (.stopRequestBody p u))) s) h
  | stopRead p => exact .next (.take p _ (fun _ _ => .read fun _ => rfl) s) h
  | segmentWrite p => exact .next (.take p _ (fun bs u => .drift (.segmentWriteBody bs u)) s) h
  | segmentRemove p => exact .next (.take p _ (fun _ u => .drift (.withIndex fun j => .segmentRemoveBody j u)) s) h
  | segmentRead p => exact .next (.take p _ (fun _ _ => .read fun _ => rfl) s) h
  | commentaryRead p =>
    exact .next (.take p _ (fun _ _ => .read fun j => by unfold commentaryReadBody; split <;> rfl) s) h
  | announce p => exact .done (.take p _ (fun bs u => .drift (.announceBody p bs u)) s) h
  | announceCancel p => exact .done (.take p _ (fun _ u => .drift (.withWord fun n => .announceCancelBody n u)) s) h
  | announceRead p => exact .next (.take p _ (fun _ _ => .plainRead rfl) s) h
  | liveOn p => exact .next (.take p _ (fun _ u => .withChannel fun c => Turns.liveOnBody p c u) s) h
  | liveOff p => exact .done (.take p _ (fun _ u => .withChannel fun c => Turns.liveOffBody p c u) s) h
  | programmeWrite p => exact .done (.take p _ (Turns.programmeWriteBody p) s) h
  | programmeRead p => exact .next (.take p _ (fun _ _ => .read fun _ => rfl) s) h
  | mixCountClear p => exact .next (.take p _ (fun _ u => .drift (.withIndex fun j => .mixCountClearBody j u)) s) h
  | duckWrite p => exact .next (.take p _ (Turns.duckWriteBody p) s) h
  | duckRead p => exact .next (.take p _ (fun _ _ => .plainRead rfl) s) h
  | loudnessWrite p => exact .next (.take p _ (Turns.loudnessWriteBody p) s) h
  | loudnessRead p => exact .next (.take p _ (fun _ _ => .plainRead rfl) s) h
  | seatConfig p => exact .next (.take p _ (Turns.seatConfigBody p) s) h
  | seatRead p => exact .next (.take p _ (fun _ _ => .read fun _ => rfl) s) h
  | seatSummary p => exact .next (.take p _ (fun _ _ => .plainRead rfl) s) h
  | layerWrite p => exact .next (.take p _ (Turns.layerWriteBody p) s) h
  | layerRead p => exact .next (.take p _ (fun _ _ => .read fun _ => rfl) s) h
  | lightSet p => exact .next (.take p _ (Turns.lightSetBody p) s) h
  | lightStatus p => exact .next (.take p _ (fun _ _ => .plainRead rfl) s) h
  | cueStart p => exact .done (.take p _ (fun bs u => .drift (.cueStartBody bs u)) s) h
  | cueStop p => exact .done (.take p _ (fun _ u => .drift (.withIndex fun k => .playerStop u k)) s) h
  | faultRead p => exact .next (.take p _ (fun _ _ => .read fun _ => rfl) s) h
  | faultClear p => exact .next (.take p _ (fun _ u => .withIndex fun b => .one (.faultClear p b u)) s) h
  | faultEnable p => exact .next (.take p _ (Turns.faultEnableBody p) s) h
  | faultResume p => exact .next (.take p _ (fun _ u => .drift (.noArgs (.faultResumeBody u))) s) h
  | powerOnReset => exact .done ((Turns.one (.powerOnReset s)).trans (Turns.lineAfterReset _)) h
  | parkLineActive =>
    simp only [exec, execParkLineActive] at h
    split at h
    · exact .next .refl h
    · exact .done ((Turns.one (.parkLine true s)).tail (.drift (.lineActive _))) h
  | parkLineInactive =>
    refine .next ?_ h
    split
    · exact (Turns.one (.parkLine false s)).tail (.drift (.lineInactive _))
    · exact .refl
  | timeBaseTick ups => exact .next (.one (.tick ups s)) h
  | liveTimeout c => exact .done (Turns.liveTimeout c s) h
  | holdoffExpiry p =>
    refine .next ?_ h
    split
    · next hd => exact .drift (.expireHold s p (State.holdDue_isSome hd))
    · exact .refl
  | micPeriodEnd c frame => exact .next (.drift (.micPeriod c frame s)) h
  | pollBegin => exact .next (.drift (.pollBegin s)) h
  | seatReply bs => exact .done (.drift (.seatReply bs s)) h
  | replyWindowClose => exact .next (.drift (.pollEnds s _ fun i u hi => .noReply u i hi)) h
  | blockStart p => exact .done (.drift (.blockStart p s)) h
  | blockDeadline p => exact .done (.drift (.blockDeadline p s)) h
  | dramGrant => exact .done (.drift (.grant s)) h
  | burstCompletion noise => exact .done (.burstDone noise s) h
  | lightFrame => exact .done (Turns.lightFrame s) h
  | lampLinkAnswer ack => exact .next (.lampAnswer ack s) h

end Sys2Proof.Machine
end

section
/-! SUPPORT. What every event keeps: records under a reservation, the DRAM, the cursor's distance, the current announcement, captured
faults, and the canonical tables. Each is a relation that every turn keeps. -/

namespace Sys2Proof.Machine

variable {i : Instr} {s t u : State}

theorem step_pending_nil (h : s.pending = []) : step s = .next s := by
  unfold step
  rw [h]

theorem step_pending_cons {rest : List Instr} (h : s.pending = i :: rest) : step s = exec i { s with pending := rest } := by
  unfold step
  rw [h]

/-- Settles O1, by the two cases of the queue. -/
theorem stepTakesTheFrontEvent : Obligations.StepTakesTheFrontEvent := by
  unfold Obligations.StepTakesTheFrontEvent
  exact fun s => ⟨fun _ _ => step_pending_cons, step_pending_nil⟩

/-- A property that no waiting event bears on, and that every event keeps, is kept by every step. -/
theorem step_keeps {P : State → Prop} (hq : ∀ s q, P s → P { s with pending := q })
    (he : ∀ i s t, exec i s = .next t → P s → P t) (h : step s = .next t) (hs : P s) : P t := by
  cases e : s.pending with
  | nil =>
    rw [step_pending_nil e] at h
    cases h
    exact hs
  | cons i rest =>
    rw [step_pending_cons e] at h
    exact he i _ t h (hq s rest hs)

/-! ## PROGRAMME-WRITE (R100, R101): what it leaves of the programme records -/

theorem State.writeProg_progs (s : State) (p : Prog) (x : ProgRec) : (s.writeProg p x).mix.progs = s.mix.progs.set p x := rfl

/-- R100: a record whose guide flag is cleared where the flag goes to another programme. -/
def ProgRec.unguided (x : ProgRec) : ProgRec := { x with guide := false }

@[simp] theorem ProgRec.unguided_unguided (x : ProgRec) : x.unguided.unguided = x.unguided := rfl

theorem ProgRec.unguided_of_clear {x : ProgRec} (h : x.guide = false) : x.unguided = x := by
  rw [unguided, ← h]

theorem State.clearGuide_progs (s : State) (p q r : Prog) : (s.clearGuide p q).mix.progs.get r =
    if r = q ∧ r ≠ p then (s.mix.progs.get r).unguided else s.mix.progs.get r := by
  unfold State.clearGuide
  dsimp only
  split
  · next h =>
    rw [State.writeProg_progs, Tab.get_set]
    by_cases hr : q = r
    · subst hr; rw [if_pos rfl, if_pos ⟨rfl, h.1⟩]; rfl
    · rw [if_neg hr, if_neg fun k => hr k.1.symm]
  · next h =>
    split
    · next k =>
      obtain ⟨rfl, hp⟩ := k
      exact (ProgRec.unguided_of_clear (Bool.eq_false_iff.2 fun hg => h ⟨hp, hg⟩)).symm
    · rfl

theorem State.foldl_clearGuide_progs (s : State) (p r : Prog) (l : List Prog) : (l.foldl (State.clearGuide p) s).mix.progs.get r =
    if r ∈ l ∧ r ≠ p then (s.mix.progs.get r).unguided else s.mix.progs.get r := by
  induction l generalizing s with
  | nil => simp
  | cons q l ih =>
    rw [List.foldl_cons, ih, State.clearGuide_progs]
    by_cases hp : r = p
    · simp [hp]
    · by_cases hq : r = q
      · subst hq; simp [hp]
      · simp [hp, hq]

/-- R100: clearing guide flags changes programme records alone, and clears reservations on them. -/
theorem State.clearGuide_frame (s : State) (p : Prog) (l : List Prog) : ∃ m q, l.foldl (State.clearGuide p) s =
    { s with mix := { s.mix with progs := m }, ports := q } ∧ ∀ k, PortDrift (s.ports.get k) (q.get k) := by
  induction l generalizing s with
  | nil => exact ⟨_, _, rfl, fun _ => .refl _⟩
  | cons r l ih =>
    obtain ⟨m, q, e, hq⟩ := ih (s.clearGuide p r)
    rw [List.foldl_cons, e]
    unfold State.clearGuide at hq ⊢
    dsimp only at hq ⊢
    split
    · next h =>
      rw [if_pos h] at hq
      exact ⟨m, q, rfl, fun k => (touch_ports _ _ k).trans (hq k)⟩
    · next h =>
      rw [if_neg h] at hq
      exact ⟨m, q, rfl, hq⟩

/-- R100: the programme records before anything is switched. -/
def State.writeRecords (p : Prog) (x : ProgRec) (s : State) : State :=
  if x.guide then langProgs.foldl (State.clearGuide p) (s.writeProg p x) else s.writeProg p x

theorem State.writeRecords_progs (s : State) (p q : Prog) (x : ProgRec) : (s.writeRecords p x).mix.progs.get q =
    if q = p then x else if x.guide = true ∧ q ≠ 0 then (s.mix.progs.get q).unguided else s.mix.progs.get q := by
  have hl : ∀ q : Prog, q ∈ langProgs ↔ q ≠ 0 := by decide
  unfold State.writeRecords
  cases x.guide with
  | true =>
    rw [if_pos rfl, State.foldl_clearGuide_progs, State.writeProg_progs, Tab.get_set]
    by_cases hp : q = p
    · simp [hp]
    · simp [hp, Ne.symm hp, hl]
  | false =>
    rw [if_neg Bool.false_ne_true, State.writeProg_progs, Tab.get_set]
    by_cases hp : q = p
    · simp [hp]
    · simp [hp, Ne.symm hp]

/-- R100: the writing of the records changes nothing but them and the reservations on them. -/
theorem State.writeRecords_frame (s : State) (p : Prog) (x : ProgRec) : ∃ m q, s.writeRecords p x =
    { s with mix := { s.mix with progs := m }, ports := q } ∧ ∀ k, PortDrift (s.ports.get k) (q.get k) := by
  unfold State.writeRecords
  split
  · obtain ⟨m, q, e, hq⟩ := (s.writeProg p x).clearGuide_frame p langProgs
    exact ⟨m, q, e, fun k => (touch_ports _ _ k).trans (hq k)⟩
  · exact ⟨_, _, rfl, touch_ports _ _⟩

theorem State.writeProgramme_eq (s : State) (p : Prog) (x : ProgRec) : s.writeProgramme p x =
    let t := (s.writeRecords p x).switchProg p (s.mix.progs.get p).on x.on
    if p = 0 then t.switchMirror (s.mix.progs.get p).mirror x.mirror else t := rfl

theorem SeatMove.seatProgOff (s : State) (p : Prog) : SeatMove s (s.seatProgOff p) := (SeatMove.setAct s p none).trans (.setHold _ _ _)

theorem SeatMove.seatProgOn (s : State) (p : Prog) : SeatMove s (s.seatProgOn p) := by
  unfold State.seatProgOn
  dsimp only
  split
  · exact (SeatMove.setAct s p _).trans (.startHold _ _)
  · exact (SeatMove.setAct s p _).trans (.setHold _ _ _)

/-- R101: a programme is switched by drifts and then a change of the Seat Link's decision alone. -/
theorem State.switchProg_spec (s : State) (p : Prog) (was now : Bool) :
    ∃ u, Drift s u ∧ SeatMove u (s.switchProg p was now) := by
  unfold State.switchProg
  split
  · exact ⟨_, .of (.mixProgOff _ _) (.of (.annProgOff _ _) (.emptyQueue _ _)), .seatProgOff _ _⟩
  · split
    · exact ⟨_, .of (.mixProgOn _ _) (.annProgOn _ _), .seatProgOn _ _⟩
    · exact ⟨s, .refl s, .refl s⟩

/-- R100, R101: a PROGRAMME-WRITE is its records written, a drift, a change of the Seat Link's decision, and a drift. -/
theorem State.writeProgramme_spec (s : State) (p : Prog) (x : ProgRec) :
    ∃ u v, Drift (s.writeRecords p x) u ∧ SeatMove u v ∧ Drift v (s.writeProgramme p x) := by
  obtain ⟨u, hu, hv⟩ := (s.writeRecords p x).switchProg_spec p (s.mix.progs.get p).on x.on
  exact ⟨u, _, hu, hv, .ite (.switchMirror _ _ _) (.refl _)⟩

theorem State.writeProgramme_progs (s : State) (p q : Prog) (x : ProgRec) :
    (s.writeProgramme p x).mix.progs.get q = (s.writeRecords p x).mix.progs.get q := by
  obtain ⟨u, v, hu, hv, ht⟩ := s.writeProgramme_spec p x
  rw [ht.progs, hv.rest, hu.progs]

/-! ## SEAT-CONFIG (R120): its parts -/

/-- R120: the seat table brought into line with a new count, before its seats are counted. -/
def SeatLink.reconfigured (k : SeatLink) (n holdoff : Nat) (time : Count32) : SeatLink :=
  { k with
    count := n, holdoff := holdoff
    seats := Tab.ofFn fun i => (k.seats.get i).configure n time i
    pointer := if n ≤ k.pointer then 0 else k.pointer
    poll := k.poll.map fun x => { x with dead := x.dead || decide (n ≤ x.seat.val) } }

/-- R120: the hub with its seat table brought into line, the reservations on it cleared. -/
def State.seatTableSet (n holdoff : Nat) (s : State) : State :=
  (s.onSeat fun k => k.reconfigured n holdoff s.ctl.time).touch seatConfigRec

theorem State.seatConfigure_eq (s : State) (n holdoff : Nat) :
    s.seatConfigure n holdoff = (((s.seatTableSet n holdoff).recount).expireDue).linkBreakTest s.seat.broken := rfl

theorem Drift.seatConfigure (s : State) (n holdoff : Nat) : Drift (s.seatTableSet n holdoff) (s.seatConfigure n holdoff) :=
  .of (.linkBreakTest _ _) (.of (.expireDue _) (.recount _))

/-! ## Records under a reservation (R158, R162, R163) -/

/-- A reservation that stands after stood before, on the same content. -/
def Guarded (s t : State) : Prop :=
  ∀ p r, r.real → (t.ports.get p).resv = some r → (s.ports.get p).resv = some r ∧ t.recordBytes r = s.recordBytes r

namespace Guarded

theorem refl (s : State) : Guarded s s := fun _ _ _ h => ⟨h, rfl⟩

theorem trans (h : Guarded s t) (k : Guarded t u) : Guarded s u := fun p r hr e =>
  have ⟨e', b⟩ := k p r hr e
  have ⟨e'', b'⟩ := h p r hr e'
  ⟨e'', b.trans b'⟩

theorem slide (h : Slide s t) : Guarded s t := fun p r hr e => ⟨(h.ports p).resv_of e, h.record p r hr e⟩

theorem drift (h : Drift s t) : Guarded s t := slide h.toSlide

/-- Reservations kept, and no record changed. -/
theorem same (hp : ∀ p, (t.ports.get p).resv = (s.ports.get p).resv) (hb : ∀ r, t.recordBytes r = s.recordBytes r) : Guarded s t :=
  fun p r _ e => ⟨(hp p).symm.trans e, hb r⟩

/-- No reservation left. -/
theorem cleared (h : ∀ p, (t.ports.get p).resv = none) : Guarded s t := fun p r _ e => by
  rw [h p] at e
  cases e

/-- A record written, and the reservations on it cleared. -/
theorem touch {r : RecName} (hp : t.ports = s.ports) (hb : ∀ r', r'.real → r' ≠ r → t.recordBytes r' = s.recordBytes r') :
    Guarded s (t.touch r) := fun p r' hr e => by
  have hne : r' ≠ r := fun he => State.touch_resv (he ▸ e)
  have h := drift (.touch t r) p r' hr e
  exact ⟨hp ▸ h.1, h.2.trans (hb r' hr hne)⟩

theorem slotMove (h : SlotMove s t) : Guarded s t :=
  same (fun p => by rw [h.port p]) fun r => by
    rw [h.frame]
    exact State.recordBytes_congr r rfl rfl rfl rfl rfl rfl rfl

theorem seatMove (h : SeatMove s t) : Guarded s t := fun p r _ e => by
  refine ⟨(h.ports p).resv_of e, ?_⟩
  rw [h.rest]
  exact State.recordBytes_congr r rfl rfl rfl rfl rfl h.count h.holdoff

theorem writeProg (s : State) (p : Prog) (x : ProgRec) : Guarded s (s.writeProg p x) := by
  refine touch rfl fun r hr hne => ?_
  obtain ⟨cls, idx⟩ := r
  cases cls
  case programme =>
    change idx < 13 at hr
    have hp : p ≠ ⟨idx, hr⟩ := fun e => hne (by rw [e]; rfl)
    have hi : toIndex 13 idx = some ⟨idx, hr⟩ := toIndex_eq_some.2 rfl
    unfold State.recordBytes
    dsimp only
    rw [hi]
    dsimp only
    rw [State.onMix_mix, Tab.get_set_other hp]
  all_goals rfl

theorem writeRecords (s : State) (p : Prog) (x : ProgRec) : Guarded s (s.writeRecords p x) := by
  have hc : ∀ (l : List Prog) (u : State), Guarded u (l.foldl (State.clearGuide p) u) := by
    intro l
    induction l with
    | nil => exact refl
    | cons q l ih =>
      intro u
      refine trans ?_ (ih _)
      unfold State.clearGuide
      dsimp only
      split
      · exact writeProg _ _ _
      · exact refl _
  unfold State.writeRecords
  split
  · exact (writeProg s p x).trans (hc _ _)
  · exact writeProg s p x

theorem writeProgramme (s : State) (p : Prog) (x : ProgRec) : Guarded s (s.writeProgramme p x) := by
  obtain ⟨u, v, hu, hv, ht⟩ := s.writeProgramme_spec p x
  exact (((writeRecords s p x).trans (drift hu)).trans (seatMove hv)).trans (drift ht)

theorem seatConfigure (s : State) (n holdoff : Nat) : Guarded s (s.seatConfigure n holdoff) := by
  refine trans (t := s.seatTableSet n holdoff) (touch rfl fun r hr hne => ?_) (drift (.seatConfigure s n holdoff))
  obtain ⟨cls, idx⟩ := r
  cases cls
  case seatConfig => exact absurd (congrArg (RecName.mk .seatConfig) (Nat.lt_one_iff.1 hr)) hne
  all_goals rfl

theorem layerWrite (s : State) (l : LayerNo) (x : Layer) :
    Guarded s ((s.onLight fun g => { g with layers := g.layers.set l x }).touch (layerRec l)) := by
  refine touch rfl fun r hr hne => ?_
  obtain ⟨cls, idx⟩ := r
  cases cls
  case layer =>
    change idx < 4 at hr
    have hl : l ≠ ⟨idx, hr⟩ := fun e => hne (by rw [e]; rfl)
    have hi : toIndex 4 idx = some ⟨idx, hr⟩ := toIndex_eq_some.2 rfl
    unfold State.recordBytes
    dsimp only
    rw [hi]
    dsimp only
    rw [State.onLight_light, Tab.get_set_other hl]
  all_goals rfl

theorem turn (h : Turn i s t) (hi : ∀ p, i ≠ .reserve p) : Guarded s t := by
  cases h with
  | drift h => exact drift h
  | slots h => exact slotMove h
  | reserve p => exact absurd rfl (hi p)
  | eventMask p _ _ =>
    refine same (fun q => ?_) fun r => State.recordBytes_congr r rfl rfl rfl rfl rfl rfl rfl
    rw [State.onPort_ports, Tab.get_modify]
    split <;> rfl
  | position p d v => exact slide (Glide.position s p d v).toSlide
  | jump p d => exact slide (Glide.jump s p d).toSlide
  | routeClear p => exact slide (Glide.routeClear s).toSlide
  | programmeWrite => exact writeProgramme _ _ _
  | duckWrite =>
    refine touch rfl fun r hr hne => ?_
    obtain ⟨cls, idx⟩ := r
    cases cls
    case duck => exact absurd (congrArg (RecName.mk .duck) (Nat.lt_one_iff.1 hr)) hne
    all_goals rfl
  | loudnessWrite =>
    refine touch rfl fun r hr hne => ?_
    obtain ⟨cls, idx⟩ := r
    cases cls
    case loudness => exact absurd (congrArg (RecName.mk .loudness) (Nat.lt_one_iff.1 hr)) hne
    all_goals rfl
  | seatConfig => exact seatConfigure _ _ _
  | layerWrite => exact layerWrite _ _ _
  | restart => exact cleared fun p => by rw [State.restartValues, Tab.get_map]; rfl
  | powerOnReset =>
    refine cleared fun p => ?_
    show (State.reset.ports.get p).resv = none
    rw [show State.reset.ports.get p = PortState.reset from Tab.get_fill _ _]
    rfl
  | _ => exact same (fun _ => rfl) fun r => State.recordBytes_congr r rfl rfl rfl rfl rfl rfl rfl

end Guarded

/-- RESERVE changes no record. -/
theorem reserve_recordBytes (h : exec (.reserve p) s = .next t) (r : RecName) : t.recordBytes r = s.recordBytes r := by
  cases h
  rcases s.take_spec p .reserve (reserveBody p) with e | ⟨x, _, _, _, ⟨_, e⟩ | ⟨_, e⟩⟩
  · rw [e]
  · rw [e, if_neg (by decide)]
    unfold reserveBody
    split <;> exact State.recordBytes_congr r rfl rfl rfl rfl rfl rfl rfl
  · rw [e]
    exact State.recordBytes_congr r rfl rfl rfl rfl rfl rfl rfl

/-- Settles O6: RESERVE changes no record, and every turn of another event keeps the record under a reservation. -/
theorem standingReservationGuardsItsRecord : Obligations.StandingReservationGuardsItsRecord := by
  unfold Obligations.StandingReservationGuardsItsRecord
  intro i s t h p r hr _ ht
  by_cases hi : ∃ q, i = .reserve q
  · obtain ⟨q, rfl⟩ := hi
    exact reserve_recordBytes h r
  · have hg : Guarded s t := (exec_turns h).lift Guarded.refl (fun _ _ _ => Guarded.trans) fun _ _ k =>
      Guarded.turn k fun q e => hi ⟨q, e⟩
    exact (hg p r hr ht).2

/-! ## The DRAM (R16, R22) -/

theorem StoreDrift.freeRetiring (st : Store) (n : EntryNo) : StoreDrift st (st.freeRetiring n) := by
  unfold Store.freeRetiring
  split
  · split
    · exact .freeEntry _ _
    · exact .refl _
  · exact .refl _

theorem StoreDrift.dropSlot (st : Store) (p : Port) : StoreDrift st (st.dropSlot p) := by
  unfold Store.dropSlot
  split
  · exact (StoreDrift.freeEntry _ _).trans ((StoreDrift.freeChain _ _).trans (.setSlot _ _ _))
  · exact .refl _

theorem StoreDrift.restart (st : Store) : StoreDrift st st.restart := by
  have h := (StoreDrift.foldl _ StoreDrift.freeRetiring (indices 192) st).trans (.foldl _ StoreDrift.dropSlot (indices 3) _)
  unfold Store.restart
  generalize (indices 3).foldl Store.dropSlot ((indices 192).foldl Store.freeRetiring st) = u at h
  exact ⟨h.dram, fun _ => Nat.zero_le _, h.links, h.errs⟩

theorem Turn.dram (h : Turn i s t) (hb : ∀ noise, i ≠ .burstCompletion noise) (hp : i ≠ .powerOnReset) :
    t.store.dram = s.store.dram := by
  have upset_dram : ∀ (ups : List Upset) (st : Store), (ups.foldl Store.upset st).dram = st.dram := by
    intro ups
    induction ups with
    | nil => exact fun _ => rfl
    | cons x ups ih =>
      intro st
      rw [List.foldl_cons, ih]
      cases x <;> unfold Store.upset <;> dsimp only <;> split <;> rfl
  cases h with
  | drift h => exact h.store.dram
  | slots h => rw [h.frame]
  | position p d v => exact (Glide.position s p d v).store.dram
  | jump p d => exact (Glide.jump s p d).store.dram
  | routeClear p => exact (Glide.routeClear s).store.dram
  | @programmeWrite p q x =>
    obtain ⟨u, v, hu, hv, ht⟩ := s.writeProgramme_spec q (programmeClamp x)
    obtain ⟨m, o, e, _⟩ := s.writeRecords_frame q (programmeClamp x)
    rw [ht.store.dram, hv.rest, hu.store.dram, e]
  | @seatConfig p n holdoff => exact (Drift.seatConfigure s n holdoff).store.dram
  | tick ups => exact upset_dram ups s.store
  | drain noise => exact absurd rfl (hb noise)
  | restart => exact (StoreDrift.restart s.store).dram
  | powerOnReset => exact absurd rfl hp
  | reserve => rfl
  | _ => rfl

theorem burstCompletion_dram {noise : List (Fin 8 × WordError)} (h : exec (.burstCompletion noise) s = .next t) :
    t.store.dram = s.store.dram ∨ ∃ w x, s.store.burst = some ⟨.drain w, x⟩ ∧
      t.store.dram = Memory.writeAll s.store.dram (lineAddress w.page w.line) w.data := by
  cases h
  have hf := (Drift.settleParity (s.burstDone noise)).store.dram
  rcases s.burstDone_spec noise with hd | ⟨w, x, hb, hd⟩
  · exact .inl (hf.trans hd.store.dram)
  · exact .inr ⟨w, x, hb, hf.trans hd.store.dram⟩

/-- Settles O22: a burst's completion writes the line it drains or nothing; no other turn writes. -/
theorem dramChangesOnlyByDrains : Obligations.DramChangesOnlyByDrains := by
  unfold Obligations.DramChangesOnlyByDrains
  intro i s t h hw a ha
  by_cases hp : i = .powerOnReset
  · exact .inl hp
  by_cases hb : ∃ noise, i = .burstCompletion noise
  · obtain ⟨noise, rfl⟩ := hb
    rcases burstCompletion_dram h with e | ⟨w, x, hj, e⟩
    · exact absurd (by rw [e]) ha
    · refine .inr ⟨noise, w, x, rfl, hj, ?_⟩
      rw [e, Memory.read_writeAll hw] at ha
      by_contra hn
      rw [if_neg hn] at ha
      exact ha rfl
  · have hd : t.store.dram = s.store.dram :=
      (exec_turns h).lift (R := fun u v => v.store.dram = u.store.dram) (fun _ => rfl) (fun _ _ _ h k => k.trans h)
        fun _ _ k => k.dram (fun noise e => hb ⟨noise, e⟩) hp
    exact absurd (by rw [hd]) ha

/-! ## The cursor's distance (R31) -/

theorem State.forward_cursor (s : State) (d : Nat) :
    (s.forward d).route.cursor.set = s.route.cursor.set ∧ (s.forward d).route.cursor.distance = d := by
  unfold State.forward
  dsimp only
  have hg : Drift s ((s.route.gather s.route.cursor.distance d).foldl (State.evalPoint d) s) := .foldl _ (Drift.evalPoint d) _ _
  generalize (s.route.gather s.route.cursor.distance d).foldl (State.evalPoint d) s = u at hg ⊢
  have hd : Drift (u.setCursor { u.route.cursor with distance := d }) _ :=
    .of (.staleTest _ d) (.of (.lateTest _ d) (.recomputeNext _))
  rw [hd.cursor.1, hd.cursor.2.1, State.setCursor_route]
  exact ⟨hg.cursor.1, rfl⟩

/-- R32, R34, R35: a POSITION keeps a cursor SET, and never lowers its distance. -/
theorem State.position_cursor {s : State} (h : s.route.cursor.set = true) (p : Port) (d v : Nat) :
    (s.position p d v).route.cursor.set = true ∧ s.route.cursor.distance ≤ (s.position p d v).route.cursor.distance := by
  rw [State.position_eq, if_pos h]
  split
  · rw [State.stepBack_route, State.moverTaken_route]
    exact ⟨h, Nat.le_refl _⟩
  · next hd =>
    rw [((s.moverTaken p v).forward_cursor d).1, ((s.moverTaken p v).forward_cursor d).2, State.moverTaken_route]
    exact ⟨h, Nat.not_lt.1 hd⟩

theorem State.jump_cursor (s : State) (p : Port) (d : Nat) : (s.jump p d).route.cursor.set = true := by
  unfold State.jump
  dsimp only
  generalize ((s.touch cursorRec).cancelWaiting d false).dropStops = u
  have hd : Drift (u.setCursor { u.route.cursor with set := true, distance := d, lastMover := some p }) _ :=
    .of (.recomputeNext _) (.of (.foldl _ (Drift.jumpSegment d) (indices 256) _) (.foldl _ (Drift.jumpStop d) (indices 64) _))
  rw [hd.cursor.1, State.setCursor_route]

theorem State.routeClear_cursor (s : State) : s.routeClear.route.cursor.set = false := by
  unfold State.routeClear
  rw [State.setCursor_route]
  rfl

/-- The events that may leave the cursor UNSET (R37, R55, R189). -/
def clearsCursor : Instr → Bool
  | .routeClear _ | .restart _ | .powerOnReset => true
  | _ => false

/-- What an event does to a cursor that is SET. -/
structure CursorKept (i : Instr) (s t : State) : Prop where
  cleared : clearsCursor i = true → t.route.cursor.set = false ∨
    t.route.cursor.set = s.route.cursor.set ∧ t.route.cursor.distance = s.route.cursor.distance
  set : clearsCursor i = false → s.route.cursor.set = true → t.route.cursor.set = true
  distance : clearsCursor i = false → (∀ p, i ≠ .jump p) → s.route.cursor.set = true →
    s.route.cursor.distance ≤ t.route.cursor.distance

namespace CursorKept

theorem same (hs : t.route.cursor.set = s.route.cursor.set) (hd : t.route.cursor.distance = s.route.cursor.distance) :
    CursorKept i s t :=
  ⟨fun _ => .inr ⟨hs, hd⟩, fun _ => hs.trans, fun _ _ _ => hd.ge⟩

theorem unset (hi : clearsCursor i = true) (h : t.route.cursor.set = false) : CursorKept i s t :=
  ⟨fun _ => .inl h, fun e => absurd (hi.symm.trans e) (by decide), fun e => absurd (hi.symm.trans e) (by decide)⟩

theorem trans (h : CursorKept i s t) (k : CursorKept i t u) : CursorKept i s u where
  cleared hi := by
    rcases k.cleared hi with e | ⟨e, d⟩
    · exact .inl e
    · rcases h.cleared hi with e' | ⟨e', d'⟩
      · exact .inl (e.trans e')
      · exact .inr ⟨e.trans e', d.trans d'⟩
  set hi := k.set hi ∘ h.set hi
  distance hi hj hs := (h.distance hi hj hs).trans (k.distance hi hj (h.set hi hs))

theorem turn (h : Turn i s t) : CursorKept i s t := by
  cases h with
  | drift h => exact same h.cursor.1 h.cursor.2.1
  | slots h => rw [h.frame]; exact same rfl rfl
  | position p d v =>
    exact ⟨fun e => absurd e (by simp [clearsCursor]), fun _ hs => (State.position_cursor hs p d v).1,
      fun _ _ hs => (State.position_cursor hs p d v).2⟩
  | jump p d =>
    exact ⟨fun e => absurd e (by simp [clearsCursor]), fun _ _ => s.jump_cursor p d, fun _ hj => absurd rfl (hj p)⟩
  | routeClear => exact unset rfl s.routeClear_cursor
  | @programmeWrite p q x =>
    obtain ⟨u, v, hu, hv, ht⟩ := s.writeProgramme_spec q (programmeClamp x)
    obtain ⟨m, o, e, _⟩ := s.writeRecords_frame q (programmeClamp x)
    have hr : v.route = u.route := by rw [hv.rest]
    have he : (s.writeRecords q (programmeClamp x)).route = s.route := by rw [e]
    exact same (by rw [ht.cursor.1, hr, hu.cursor.1, he]) (by rw [ht.cursor.2.1, hr, hu.cursor.2.1, he])
  | @seatConfig p n holdoff =>
    have hd := Drift.seatConfigure s n holdoff
    exact same hd.cursor.1 hd.cursor.2.1
  | restart => exact unset rfl rfl
  | powerOnReset => exact unset rfl rfl
  | _ => exact same rfl rfl

end CursorKept

/-- Settles O27: no turn but a JUMP lowers the distance of a SET cursor, and those that leave it UNSET are named. -/
theorem distanceFallsOnlyByJump : Obligations.DistanceFallsOnlyByJump := by
  unfold Obligations.DistanceFallsOnlyByJump
  intro i s t h hs
  have hk : CursorKept i s t := (exec_turns h).lift (fun _ => .same rfl rfl) (fun _ _ _ => .trans) fun _ _ => .turn
  cases hi : clearsCursor i with
  | true =>
    refine ⟨fun ht hd => ?_, fun _ => ?_⟩
    · rcases hk.cleared hi with e | ⟨_, e⟩
      · rw [ht] at e; cases e
      · exact absurd e hd.ne
    · unfold clearsCursor at hi
      split at hi
      · next p => exact .inl ⟨p, .inl rfl⟩
      · next p => exact .inl ⟨p, .inr rfl⟩
      · exact .inr rfl
      · cases hi
  | false =>
    refine ⟨fun _ hd => ?_, fun ht => ?_⟩
    · by_contra hj
      exact absurd (hk.distance hi (fun p e => hj ⟨p, e⟩) hs) (Nat.not_le.2 hd)
    · rw [hk.set hi hs] at ht
      cases ht

/-! ## RESTART and power-on: the values, and a PARK line that is active (R188, R189) -/

theorem VoiceState.reset_voices (p : Prog) (v : Voice) : (Mixer.reset.voices.get p).get v = VoiceState.reset := by
  rw [show Mixer.reset.voices.get p = ⟨.reset, .reset, .reset, .reset⟩ from Tab.get_fill _ _]
  cases v <;> rfl

/-- R188: the hub once every block has its RESTART values, and STATE-CHANGED is posted. -/
def State.restarted (s : State) : State :=
  s.restartValues.post .stateChanged (opStateCode .run) (opStateCode s.ctl.op) (causeCode .restart)

theorem State.restarted_nothingPlays (s : State) : s.restarted.NothingPlays where
  queues _ := Tab.get_fill _ _
  beds p := congrArg VoiceState.bind (VoiceState.reset_voices p .bed)
  players _ := Tab.get_fill _ _

/-- R188, R189: in a hub where nothing plays, a PARK line that is active after the reset parks it at once. -/
theorem State.NothingPlays.lineAfterReset (h : s.NothingPlays) (hop : s.ctl.op = .run) (hq : s.ann.quiet = true) :
    s.lineAfterReset = if s.ctl.parkLine then
      (((s.changeOp .parkPending .parkLine).setParkHold (some .line)).changeOp .standby .quiet).seatStandby else s := by
  rw [State.lineAfterReset, State.lineActive, if_pos hop, h.enterPark hq]

theorem State.restart_eq (s : State) : s.restart = if s.ctl.parkLine then
    (((s.restarted.changeOp .parkPending .parkLine).setParkHold (some .line)).changeOp .standby .quiet).seatStandby
    else s.restarted :=
  s.restarted_nothingPlays.lineAfterReset rfl rfl

theorem State.restart_ann (s : State) : s.restart.ann = Announcer.reset := by
  rw [State.restart_eq]
  split
  · rw [State.seatStandby_rest]; rfl
  · rfl

theorem State.restart_noted (s : State) : s.restart.store.noted = [] := by
  rw [State.restart_eq]
  split
  · rw [State.seatStandby_store]; rfl
  · rfl

theorem State.poweredOn_ann (s : State) : s.poweredOn.lineAfterReset.ann = Announcer.reset := by
  rw [State.poweredOn_lineAfterReset]
  split
  · rw [State.seatStandby_rest]; rfl
  · rfl

/-! ## The current announcement under the DRIVER channel (R83) -/

/-- While DRIVER is ON it stays ON, and no item becomes current. -/
def NoStart (s t : State) : Prop :=
  s.ann.live.driver.isSome = true → t.ann.live.driver.isSome = true ∧
    ∀ x, t.ann.current.map (·.item) = some x → s.ann.current.map (·.item) = some x

namespace NoStart

theorem refl (s : State) : NoStart s s := fun h => ⟨h, fun _ => id⟩

theorem trans (h : NoStart s t) (k : NoStart t u) : NoStart s u := fun hs =>
  ⟨(k (h hs).1).1, fun x hx => (h hs).2 x ((k (h hs).1).2 x hx)⟩

theorem slide (h : Slide s t) : NoStart s t := fun hs => ⟨by rw [h.live]; exact hs, h.current hs⟩

theorem same (h : t.ann = s.ann) : NoStart s t := by
  unfold NoStart
  rw [h]
  exact refl s

theorem turn (h : Turn i s t) (ho : ∀ p, i ≠ .liveOff p) (hd : i ≠ .liveTimeout .driver) (hr : ∀ p, i ≠ .restart p)
    (hp : i ≠ .powerOnReset) : NoStart s t := by
  cases h with
  | drift h => exact slide h.toSlide
  | slots h => exact same (by rw [h.frame])
  | position p d v => exact slide (Glide.position s p d v).toSlide
  | jump p d => exact slide (Glide.jump s p d).toSlide
  | routeClear => exact slide (Glide.routeClear s).toSlide
  | liveOn p c x =>
    intro hs
    cases c with
    | driver => exact ⟨rfl, fun _ => id⟩
    | guide => exact ⟨hs, fun _ => id⟩
  | liveOff p => exact absurd rfl (ho p)
  | liveTimeout c =>
    intro hs
    cases c with
    | driver => exact absurd rfl hd
    | guide => exact ⟨hs, fun _ => id⟩
  | @programmeWrite p q x =>
    obtain ⟨u, v, hu, hv, ht⟩ := s.writeProgramme_spec q (programmeClamp x)
    obtain ⟨m, o, e, _⟩ := s.writeRecords_frame q (programmeClamp x)
    exact (((same (by rw [e])).trans (slide hu.toSlide)).trans (same (by rw [hv.rest]))).trans (slide ht.toSlide)
  | @seatConfig p n holdoff => exact trans (t := s.seatTableSet n holdoff) (same rfl) (slide (Drift.seatConfigure s n holdoff).toSlide)
  | restart p => exact absurd rfl (hr p)
  | powerOnReset => exact absurd rfl hp
  | _ => exact same rfl

end NoStart

/-- A RESTART that is refused changes no announcement, and one that is taken leaves none. -/
theorem restart_current {p : Port} (h : exec (.restart p) s = .next t) :
    NoStart s t ∨ t.ann.current = none := by
  cases h
  have hsame : ∀ {a : Answer} {tag : Byte}, a.state.ann = s.ann → NoStart s (State.respond p tag a).settleParity := fun ha =>
    (NoStart.same (t := State.respond _ _ _) ha).trans (.slide (Drift.settleParity _).toSlide)
  rcases s.take_spec p .restart fun bs s => noArgs bs s fun s => s.restart.answer .ok with e | ⟨x, _, _, _, ⟨_, e⟩ | ⟨_, e⟩⟩ <;> rw [e]
  · exact .inl (.slide (Drift.settleParity _).toSlide)
  · unfold noArgs
    split
    · refine .inr ?_
      have hn : (State.respond p x.tag ((s.dropResv p).restart.answer .ok)).store.noted = [] := State.restart_noted _
      rw [if_pos (show Command.restart.kind = .write from rfl)]
      dsimp only
      rw [State.settleParity_of_noted hn]
      exact congrArg Announcer.current (State.restart_ann _)
    · exact .inl (hsame rfl)
  · exact .inl (hsame rfl)

/-- Settles O35: no turn starts an announcement while DRIVER is ON, and the resets leave none. -/
theorem noAnnouncementStartsUnderTheDriver : Obligations.NoAnnouncementStartsUnderTheDriver := by
  unfold Obligations.NoAnnouncementStartsUnderTheDriver
  intro i s t h hs c hc
  have hs' : s.ann.live.driver.isSome = true := Option.isSome_iff_ne_none.2 hs
  have kept : NoStart s t → (∃ b, s.ann.current = some b ∧ b.item = c.item) := fun k =>
    Option.map_eq_some_iff.1 ((k hs').2 c.item (by rw [hc]; rfl))
  by_cases ho : ∃ p, i = .liveOff p
  · exact .inr (.inl ho)
  by_cases hd : i = .liveTimeout .driver
  · exact .inr (.inr hd)
  refine .inl ?_
  by_cases hr : ∃ p, i = .restart p
  · obtain ⟨p, rfl⟩ := hr
    rcases restart_current h with k | e
    · exact kept k
    · rw [e] at hc; cases hc
  by_cases hp : i = .powerOnReset
  · subst hp
    rw [exec_powerOnReset] at h
    cases h
    rw [State.poweredOn_ann] at hc
    cases hc
  exact kept ((exec_turns h).lift NoStart.refl (fun _ _ _ => NoStart.trans) fun _ _ k =>
    .turn k (fun p e => ho ⟨p, e⟩) hd (fun p e => hr ⟨p, e⟩) hp)

/-! ## Captured faults and FALLBACK (R169, R172, R177) -/

/-- A captured fault stays captured, its overrun stays set, and an uncorrected one stays as it is but for its overrun. -/
def BankKept (a b : FaultBank) : Prop :=
  ∀ r, a.record = some r → ∃ q, b.record = some q ∧ (r.overrun = true → q.overrun = true) ∧
    (r.uncorrected = true → { q with overrun := r.overrun } = r)

theorem BankKept.same {a b : FaultBank} (h : b.record = a.record) : BankKept a b := fun r hr => ⟨r, h.trans hr, id, fun _ => rfl⟩

theorem BankKept.trans {a b c : FaultBank} (h : BankKept a b) (k : BankKept b c) : BankKept a c := by
  intro r hr
  obtain ⟨q, hq, ho, hu⟩ := h r hr
  obtain ⟨q', hq', ho', hu'⟩ := k q hq
  refine ⟨q', hq', ho' ∘ ho, fun e => ?_⟩
  have hrq := hu e
  have hqq : { q' with overrun := q.overrun } = q := hu' (by rw [← e, ← hrq])
  rw [← hrq, ← hqq]

theorem BankDrift.kept' {a b : FaultBank} (h : BankDrift a b) : BankKept a b := by
  intro r hr
  obtain ⟨q, hq, ho⟩ := h.stays r hr
  refine ⟨q, hq, ho, fun hu => ?_⟩
  obtain ⟨o, ho'⟩ := h.kept r hr hu
  cases hq.symm.trans ho'
  rfl

theorem Turn.banks (h : Turn i s t) (hc : ∀ p, i ≠ .faultClear p) (hp : i ≠ .powerOnReset) (b : Fin 6) :
    BankKept (s.faults.banks.get b) (t.faults.banks.get b) := by
  cases h with
  | drift h => exact (h.banks b).kept'
  | slots h => rw [h.frame]; exact .same rfl
  | position p d v => exact ((Glide.position s p d v).banks b).kept'
  | jump p d => exact ((Glide.jump s p d).banks b).kept'
  | routeClear => exact ((Glide.routeClear s).banks b).kept'
  | @programmeWrite p q x =>
    obtain ⟨u, v, hu, hv, ht⟩ := s.writeProgramme_spec q (programmeClamp x)
    obtain ⟨m, o, e, _⟩ := s.writeRecords_frame q (programmeClamp x)
    have h1 := (hu.banks b).kept'
    have h2 : v.faults = u.faults := by rw [hv.rest]
    rw [e] at h1
    exact h1.trans (.trans (.same (by rw [h2])) (ht.banks b).kept')
  | @seatConfig p n holdoff => exact ((Drift.seatConfigure s n holdoff).banks b).kept'
  | faultClear p => exact absurd rfl (hc p)
  | @faultEnable p c m =>
    refine .same ?_
    show ((s.faults.banks.modify c _).get b).record = _
    rw [Tab.get_modify]
    split <;> rfl
  | powerOnReset => exact absurd rfl hp
  | _ => exact .same rfl

theorem Turn.fallback (h : Turn i s t) (hr : ∀ p, i ≠ .restart p) (hp : i ≠ .powerOnReset) (hs : s.ctl.op = .fallback) :
    t.ctl.op = .fallback := by
  cases h with
  | drift h => exact h.fallback hs
  | slots h => rw [h.frame]; exact hs
  | position p d v => exact (Glide.position s p d v).fallback hs
  | jump p d => exact (Glide.jump s p d).fallback hs
  | routeClear => exact (Glide.routeClear s).fallback hs
  | @programmeWrite p q x =>
    obtain ⟨u, v, hu, hv, ht⟩ := s.writeProgramme_spec q (programmeClamp x)
    obtain ⟨m, o, e, _⟩ := s.writeRecords_frame q (programmeClamp x)
    have h1 : u.ctl.op = .fallback := hu.fallback (by rw [e]; exact hs)
    exact ht.fallback (by rw [hv.rest]; exact h1)
  | @seatConfig p n holdoff => exact (Drift.seatConfigure s n holdoff).fallback hs
  | restart p => exact absurd rfl (hr p)
  | powerOnReset => exact absurd rfl hp
  | _ => exact hs

/-- Settles O53, turn by turn. -/
theorem faultsAndFallbackStand : Obligations.FaultsAndFallbackStand := by
  unfold Obligations.FaultsAndFallbackStand
  intro i s t h
  refine ⟨fun hc hp b => ?_, fun hr hp => ?_⟩
  · exact (exec_turns h).lift (R := fun u v => BankKept (u.faults.banks.get b) (v.faults.banks.get b)) (fun _ => .same rfl)
      (fun _ _ _ => BankKept.trans) fun _ _ k => k.banks hc hp b
  · exact (exec_turns h).lift (R := fun u v => u.ctl.op = .fallback → v.ctl.op = .fallback) (fun _ => id)
      (fun _ _ _ h k => k ∘ h) fun _ _ k => k.fallback hr hp

/-! ## The sparse tables (R1, R2) -/

theorem setError_wf {m : List (Nat × Option WordError)} (h : sparseWf none m = true) (p : Page) (w : Nat) (e : Option WordError) :
    sparseWf none (setError m p w e) = true := sparseSet_wf _ _ _ h

theorem TablesCanonical.drift (h : StoreDrift s.store t.store) (hs : TablesCanonical s) : TablesCanonical t :=
  ⟨by rw [h.dram]; exact hs.dram, h.links hs.links, h.errs hs.errs⟩

theorem TablesCanonical.same (h : t.store = s.store) (hs : TablesCanonical s) : TablesCanonical t :=
  ⟨by rw [h]; exact hs.dram, by rw [h]; exact hs.links, by rw [h]; exact hs.errs⟩

theorem TablesCanonical.writeLine (hs : TablesCanonical s) (w : WriteLine) :
    TablesCanonical (s.onStore fun st => st.writeLine w) where
  dram := Memory.writeAll_wf hs.dram _ _
  links := hs.links
  errs := by
    have key : ∀ (l : List (Fin 8)) (m : List (Nat × Option WordError)), sparseWf none m = true →
        sparseWf none (l.foldl (fun m i => setError m w.page (wordOfLine w.line i).val none) m) = true := by
      intro l
      induction l with
      | nil => exact fun _ h => h
      | cons i l ih => exact fun m h => ih _ (setError_wf h _ _ _)
    exact key _ _ hs.errs

theorem Store.upset_tables {st : Store} (x : Upset) (h : sparseWf none st.dramErr = true) :
    (st.upset x).dram = st.dram ∧ (st.upset x).links = st.links ∧ sparseWf none (st.upset x).dramErr = true := by
  cases x with
  | link p => unfold Store.upset; dsimp only; split <;> exact ⟨rfl, rfl, h⟩
  | map e => unfold Store.upset; dsimp only; split <;> exact ⟨rfl, rfl, h⟩
  | word p w err => exact ⟨rfl, rfl, setError_wf h _ _ _⟩

theorem TablesCanonical.tick (hs : TablesCanonical s) (ups : List Upset) : TablesCanonical (s.tick ups) := by
  have key : ∀ (l : List Upset) (st : Store), Memory.wf st.dram = true → sparseWf Link.free st.links = true →
      sparseWf none st.dramErr = true → Memory.wf (l.foldl Store.upset st).dram = true ∧
        sparseWf Link.free (l.foldl Store.upset st).links = true ∧ sparseWf none (l.foldl Store.upset st).dramErr = true := by
    intro l
    induction l with
    | nil => exact fun _ h1 h2 h3 => ⟨h1, h2, h3⟩
    | cons x l ih =>
      intro st h1 h2 h3
      obtain ⟨e1, e2, e3⟩ := Store.upset_tables x h3
      exact ih _ (by rw [e1]; exact h1) (by rw [e2]; exact h2) e3
  have h := key ups s.store hs.dram hs.links hs.errs
  exact ⟨h.1, h.2.1, h.2.2⟩

theorem tablesCanonical_reset : TablesCanonical State.reset := ⟨rfl, rfl, rfl⟩

theorem Turn.tables (h : Turn i s t) (hs : TablesCanonical s) : TablesCanonical t := by
  cases h with
  | drift h => exact .drift h.store hs
  | slots h => exact .same (by rw [h.frame]) hs
  | position p d v => exact .drift (Glide.position s p d v).store hs
  | jump p d => exact .drift (Glide.jump s p d).store hs
  | routeClear => exact .drift (Glide.routeClear s).store hs
  | @programmeWrite p q x =>
    obtain ⟨u, v, hu, hv, ht⟩ := s.writeProgramme_spec q (programmeClamp x)
    obtain ⟨m, o, e, _⟩ := s.writeRecords_frame q (programmeClamp x)
    exact .drift ht.store (.same (by rw [hv.rest]) (.drift hu.store (.same (by rw [e]) hs)))
  | @seatConfig p n holdoff => exact .drift (s := s.seatTableSet n holdoff) (Drift.seatConfigure s n holdoff).store (TablesCanonical.same (s := s) rfl hs)
  | tick ups => exact hs.tick ups
  | drain noise w => exact hs.writeLine w
  | restart => exact .drift (StoreDrift.restart s.store) hs
  | powerOnReset => exact .same (s := State.reset) rfl tablesCanonical_reset
  | _ => exact TablesCanonical.same (s := s) rfl hs

/-- Settles O57, turn by turn. -/
theorem tablesStayCanonical : Obligations.TablesStayCanonical := by
  unfold Obligations.TablesStayCanonical
  intro s t hs h
  refine step_keeps (P := TablesCanonical) (fun u _ h => TablesCanonical.same (s := u) rfl h) (fun i s t h => ?_) h hs
  exact (exec_turns h).lift (R := fun u v => TablesCanonical u → TablesCanonical v) (fun _ => id) (fun _ _ _ h k => k ∘ h)
    fun _ _ => Turn.tables

end Sys2Proof.Machine
end

section
/-! SUPPORT. The settings: which turns change one, and that each stays within its range. -/

namespace Sys2Proof.Machine

variable {i : Instr} {s t : State}

/-! ## What changes no setting -/

theorem State.settings_of_parts (hp : t.mix.progs = s.mix.progs) (hd : t.mix.duck = s.mix.duck) (hl : t.mix.loud = s.mix.loud)
    (hdim : t.light.dim = s.light.dim) (hfl : t.light.floorC = s.light.floorC) (hfb : t.light.fallback = s.light.fallback)
    (hc : t.seat.count = s.seat.count) (hh : t.seat.holdoff = s.seat.holdoff)
    (hb : ∀ b, (t.faults.banks.get b).mask = (s.faults.banks.get b).mask)
    (hm : ∀ p, (t.ports.get p).mask = (s.ports.get p).mask) : t.settings = s.settings := by
  have hb' : t.faults.banks.map (·.mask) = s.faults.banks.map (·.mask) := Tab.ext_get fun b => by
    rw [Tab.get_map, Tab.get_map, hb]
  have hm' : t.ports.map (·.mask) = s.ports.map (·.mask) := Tab.ext_get fun p => by rw [Tab.get_map, Tab.get_map, hm]
  unfold State.settings
  rw [hp, hd, hl, hdim, hfl, hfb, hc, hh, hb', hm']

theorem Slide.settings (h : Slide s t) : t.settings = s.settings :=
  State.settings_of_parts h.progs h.duck h.loud h.dim h.floorC h.lfallback h.count h.holdoff (fun b => (h.banks b).mask)
    fun p => (h.ports p).mask

theorem Drift.settings (h : Drift s t) : t.settings = s.settings := h.toSlide.settings

theorem SlotMove.settings (h : SlotMove s t) : t.settings = s.settings := by
  have hm : ∀ p, (t.ports.get p).mask = (s.ports.get p).mask := fun p => by rw [h.port p]
  generalize ht : t.ports = q at *
  rw [h.frame]
  exact State.settings_of_parts rfl rfl rfl rfl rfl rfl rfl rfl (fun _ => rfl) (ht ▸ hm)

theorem SeatMove.settings (h : SeatMove s t) : t.settings = s.settings := by
  have hm : ∀ p, (t.ports.get p).mask = (s.ports.get p).mask := fun p => (h.ports p).mask
  have hr := h.rest
  exact State.settings_of_parts (by rw [hr]) (by rw [hr]) (by rw [hr]) (by rw [hr]) (by rw [hr]) (by rw [hr]) h.count h.holdoff
    (fun _ => by rw [hr]) hm

theorem State.onPort_settings (s : State) (p : Port) {f : PortState → PortState} (h : ∀ a, (f a).mask = a.mask) :
    (s.onPort p f).settings = s.settings :=
  State.settings_of_parts rfl rfl rfl rfl rfl rfl rfl rfl (fun _ => rfl) fun q => by
    rw [State.onPort_ports, Tab.get_modify]
    split
    · exact h _
    · rfl

theorem State.onBank_settings (s : State) (b : Fin 6) {f : FaultBank → FaultBank} (h : ∀ a, (f a).mask = a.mask) :
    (s.onBank b f).settings = s.settings :=
  State.settings_of_parts rfl rfl rfl rfl rfl rfl rfl rfl (fun c => by
    show ((s.faults.banks.modify b f).get c).mask = _
    rw [Tab.get_modify]
    split
    · exact h _
    · rfl) fun _ => rfl

theorem Turn.settings (h : Turn i s t) (hi : setsSettings i = false) : t.settings = s.settings := by
  cases h with
  | drift h => exact h.settings
  | slots h => exact h.settings
  | reserve p r => exact s.onPort_settings p fun _ => rfl
  | position p d v => exact (Glide.position s p d v).settings
  | jump p d => exact (Glide.jump s p d).settings
  | routeClear => exact (Glide.routeClear s).settings
  | layerWrite p l x => exact (Drift.touch _ (layerRec l)).settings
  | faultClear p b => exact s.onBank_settings b fun _ => rfl
  | eventMask | programmeWrite | duckWrite | loudnessWrite | seatConfig | lightSet | faultEnable | restart | powerOnReset => cases hi
  | _ => rfl

/-! ## What the writes leave legal (R100, R103, R104, R175, R183) -/

theorem SettingsLegal.of_settings (h : t.settings = s.settings) (hs : SettingsLegal s) : SettingsLegal t := by
  have hp : t.mix.progs = s.mix.progs := congrArg Settings.progs h
  have hd : t.mix.duck = s.mix.duck := congrArg Settings.duck h
  have hl : t.mix.loud = s.mix.loud := congrArg Settings.loud h
  have hb : t.faults.banks.map (·.mask) = s.faults.banks.map (·.mask) := congrArg Settings.faultMasks h
  have hm : t.ports.map (·.mask) = s.ports.map (·.mask) := congrArg Settings.eventMasks h
  have hb' : ∀ b, (t.faults.banks.get b).mask = (s.faults.banks.get b).mask := fun b => by
    simpa using congrArg (Tab.get · b) hb
  have hm' : ∀ p, (t.ports.get p).mask = (s.ports.get p).mask := fun p => by simpa using congrArg (Tab.get · p) hm
  exact {
    progs := hp ▸ hs.progs, guide := hp ▸ hs.guide
    duckAnnounce := hd ▸ hs.duckAnnounce, duckDriver := hd ▸ hs.duckDriver, duckGuide := hd ▸ hs.duckGuide, duckStep := hd ▸ hs.duckStep
    headset := hl ▸ hs.headset, pa := hl ▸ hs.pa
    faultMasks := fun b => by rw [hb']; exact hs.faultMasks b
    eventMasks := fun p => by rw [hm']; exact hs.eventMasks p }

theorem progLegal_clamp {p : Prog} {x : ProgRec} (h : programmeLegal p.val x = true) : progLegal p (programmeClamp x) := by
  refine ⟨fun v => ?_, Nat.min_le_left _ _, ?_⟩
  · cases v <;> exact Nat.min_le_left _ _
  · obtain ⟨_, h⟩ := Bool.and_eq_true_iff.1 h
    by_cases hp : p = 0
    · subst hp
      simpa [and_assoc, programmeClamp] using h
    · have hv : p.val ≠ 0 := fun e => hp (Fin.ext e)
      rw [if_neg hp]
      rw [if_neg hv] at h
      simpa [and_assoc, programmeClamp] using h

theorem progLegal.unguided {p : Prog} {x : ProgRec} (h : progLegal p x) : progLegal p x.unguided := by
  obtain ⟨hg, hm, hr⟩ := h
  refine ⟨hg, hm, ?_⟩
  split at hr
  · next hp => rw [if_pos hp]; exact ⟨hr.1, hr.2.1, rfl, hr.2.2.2⟩
  · next hp => rw [if_neg hp]; exact hr

/-- R100: the flag set at one programme leaves it set nowhere else. -/
theorem State.writeRecords_guide (hs : SettingsLegal s) {p : Prog} {x : ProgRec} (q : Prog) (hq : q ≠ p)
    (h : ((s.writeRecords p x).mix.progs.get q).guide = true) : x.guide = false ∧ (s.mix.progs.get q).guide = true := by
  rw [State.writeRecords_progs, if_neg hq] at h
  have h0 : (s.mix.progs.get 0).guide = false := by
    have h := (hs.progs 0).2.2
    rw [if_pos rfl] at h
    exact h.2.2.1
  split at h
  · cases h
  · next hn =>
    have hq0 : q ≠ 0 := fun e => by rw [e, h0] at h; cases h
    exact ⟨Bool.eq_false_iff.2 fun hx => hn ⟨hx, hq0⟩, h⟩

theorem SettingsLegal.writeProgramme (hs : SettingsLegal s) {p : Prog} {x : ProgRec} (hx : progLegal p x) :
    SettingsLegal (s.writeProgramme p x) := by
  obtain ⟨u, v, hu, hv, ht⟩ := s.writeProgramme_spec p x
  obtain ⟨m, o, e, ho⟩ := s.writeRecords_frame p x
  have hset : (s.writeProgramme p x).settings = (s.writeRecords p x).settings := by
    rw [ht.settings, hv.settings, hu.settings]
  have hmasks : ∀ q, ((s.writeRecords p x).ports.get q).mask = (s.ports.get q).mask := fun q => by rw [e]; exact (ho q).mask
  have hd : (s.writeRecords p x).mix.duck = s.mix.duck := by rw [e]
  have hl : (s.writeRecords p x).mix.loud = s.mix.loud := by rw [e]
  have hf : (s.writeRecords p x).faults = s.faults := by rw [e]
  refine .of_settings hset ⟨fun q => ?_, fun q r hq hr => ?_, hd ▸ hs.duckAnnounce, hd ▸ hs.duckDriver, hd ▸ hs.duckGuide,
    hd ▸ hs.duckStep, hl ▸ hs.headset, hl ▸ hs.pa, hf ▸ hs.faultMasks, fun q => hmasks q ▸ hs.eventMasks q⟩
  · rw [State.writeRecords_progs]
    split
    · next h => rw [h]; exact hx
    · split
      · exact (hs.progs q).unguided
      · exact hs.progs q
  · by_cases hqp : q = p
    · by_cases hrp : r = p
      · rw [hqp, hrp]
      · have hg := (State.writeRecords_guide hs r hrp hr).1
        rw [State.writeRecords_progs, if_pos hqp, hg] at hq
        cases hq
    · obtain ⟨hg, hq'⟩ := State.writeRecords_guide hs q hqp hq
      by_cases hrp : r = p
      · rw [State.writeRecords_progs, if_pos hrp, hg] at hr
        cases hr
      · exact hs.guide q r hq' (State.writeRecords_guide hs r hrp hr).2

theorem duckClamp_legal {bs : List Byte} {x : DuckTable} (h : duckOf bs = some x) :
    duckRowLegal ⟨true, false, true, true⟩ (duckClamp x).announce ∧ duckRowLegal ⟨true, true, false, true⟩ (duckClamp x).liveDriver ∧
      duckRowLegal ⟨true, true, false, true⟩ (duckClamp x).liveGuide ∧ 1 ≤ (duckClamp x).r ∧ (duckClamp x).r ≤ 512 := by
  have clamped : ∀ (held : Quad Bool) (row : DuckRow), (∀ v, (row.get v).isSome = held.get v) →
      duckRowLegal held (Quad.map (Option.map (min 4096)) row) := by
    intro held row hr v
    have hv : (Quad.map (Option.map (min 4096)) row).get v = (row.get v).map (min 4096) := by cases v <;> rfl
    rw [hv]
    refine ⟨by rw [Option.isSome_map, hr], fun t ht => ?_⟩
    obtain ⟨y, _, rfl⟩ := Option.map_eq_some_iff.1 ht
    exact Nat.min_le_left _ _
  unfold duckOf at h
  split at h
  · cases h
    refine ⟨clamped _ _ fun v => ?_, clamped _ _ fun v => ?_, clamped _ _ fun v => ?_, Nat.le_max_left _ _,
      Nat.max_le.2 ⟨by decide, Nat.min_le_left _ _⟩⟩ <;> cases v <;> rfl
  · cases h

theorem loudGroupClamp_legal (g : LoudGroup) : loudLegal (loudGroupClamp g) :=
  ⟨Nat.min_le_left _ _, Nat.min_le_left _ _, Nat.le_max_left _ _, Nat.max_le.2 ⟨by decide, Nat.min_le_left _ _⟩⟩

/-- R183: a mask as EVENT-MASK carries it selects kinds 1 to 18 alone. -/
theorem eventMaskOf_legal {bs : List Byte} {m : BitVec 24} (h : eventMaskOf bs = some m) {k : Nat} (hk : m.getLsbD k = true) :
    1 ≤ k ∧ k ≤ 18 := by
  unfold eventMaskOf at h
  obtain ⟨n, _, h⟩ := Option.bind_eq_some_iff.1 h
  split at h
  · next hn =>
    cases h
    rw [BitVec.getLsbD_ofNat, Bool.and_eq_true, decide_eq_true_eq] at hk
    constructor
    · by_contra h0
      have : k = 0 := by omega
      subst this
      rw [Nat.testBit_zero, decide_eq_true_eq] at hk
      omega
    · by_contra h18
      have : n < 2 ^ k := hn.2.trans_le (Nat.pow_le_pow_right (by decide) (by omega))
      rw [Nat.testBit_lt_two_pow this] at hk
      exact absurd hk.2 (by decide)
  · cases h

theorem settingsLegal_mixerReset (hs : ∀ b, (s.faults.banks.get b).mask.toNat < 2 ^ bankSize b)
    (hm : ∀ p k, (s.ports.get p).mask.getLsbD k = true → 1 ≤ k ∧ k ≤ 18) (hp : s.mix.progs = Mixer.reset.progs)
    (hd : s.mix.duck = DuckTable.reset) (hl : s.mix.loud = Loudness.reset) : SettingsLegal s := by
  have hprog : ∀ p, s.mix.progs.get p = ProgRec.reset p := fun p => by
    rw [hp]; exact Tab.get_ofFn ProgRec.reset p
  refine ⟨fun p => ?_, fun p q h => ?_, ?_, ?_, ?_, ?_, ?_, ?_, hs, hm⟩
  · rw [hprog]
    refine ⟨fun v => by cases v <;> exact Nat.le_refl 4096, show 4096 ≤ 8192 by decide, ?_⟩
    revert p
    decide
  · rw [hprog] at h
    cases h
  · rw [hd]
    intro v
    cases v <;> exact ⟨rfl, fun t ht => by cases ht <;> decide⟩
  · rw [hd]
    intro v
    cases v <;> exact ⟨rfl, fun t ht => by cases ht <;> decide⟩
  · rw [hd]
    intro v
    cases v <;> exact ⟨rfl, fun t ht => by cases ht <;> decide⟩
  · rw [hd]; decide
  · rw [hl]; unfold loudLegal; decide
  · rw [hl]; unfold loudLegal; decide

theorem settingsLegal_reset : SettingsLegal State.reset := by
  refine settingsLegal_mixerReset (by decide) (fun p k hk => ?_) rfl rfl rfl
  rw [show State.reset.ports.get p = PortState.reset from Tab.get_fill _ _] at hk
  have hk' : allEvents.getLsbD k = true := hk
  have key : ∀ j : Fin 24, allEvents.getLsbD j.val = true → 1 ≤ j.val ∧ j.val ≤ 18 := by decide
  exact key ⟨k, BitVec.lt_of_getLsbD hk'⟩ hk'

theorem Turn.legal (h : Turn i s t) (hs : SettingsLegal s) : SettingsLegal t := by
  cases h with
  | @eventMask p bs m _ hm =>
    refine { hs with eventMasks := fun q k => ?_ }
    show (((s.ports.modify p _).get q).mask.getLsbD k = true) → _
    rw [Tab.get_modify]
    split
    · exact eventMaskOf_legal hm
    · exact hs.eventMasks q k
  | programmeWrite p _ hx => exact hs.writeProgramme (progLegal_clamp hx)
  | duckWrite p _ hx =>
    obtain ⟨ha, hd, hg, hr⟩ := duckClamp_legal hx
    refine .of_settings (Drift.touch _ duckRec).settings { hs with duckAnnounce := ha, duckDriver := hd, duckGuide := hg, duckStep := hr }
  | loudnessWrite p x =>
    exact .of_settings (Drift.touch _ loudnessRec).settings
      { hs with headset := loudGroupClamp_legal _, pa := loudGroupClamp_legal _ }
  | @seatConfig p n holdoff =>
    have hd := (Drift.seatConfigure s n holdoff).settings.trans (Drift.touch _ seatConfigRec).settings
    exact .of_settings hd { hs with }
  | lightSet => exact { hs with }
  | @faultEnable p b m _ hm =>
    refine { hs with faultMasks := fun c => ?_ }
    show (((s.faults.banks.modify b _).get c).mask.toNat < _)
    rw [Tab.get_modify]
    split
    · next e => exact e ▸ hm
    · exact hs.faultMasks c
  | restart =>
    refine settingsLegal_mixerReset hs.faultMasks (fun p k => ?_) rfl rfl rfl
    show ((s.ports.map PortState.restart).get p).mask.getLsbD k = true → _
    rw [Tab.get_map]
    exact hs.eventMasks p k
  | powerOnReset => exact .of_settings (s := State.reset) rfl settingsLegal_reset
  | drift h => exact .of_settings h.settings hs
  | slots h => exact .of_settings h.settings hs
  | reserve p r => exact .of_settings (s.onPort_settings p fun _ => rfl) hs
  | position p d v => exact .of_settings (Glide.position s p d v).settings hs
  | jump p d => exact .of_settings (Glide.jump s p d).settings hs
  | routeClear => exact .of_settings (Glide.routeClear s).settings hs
  | layerWrite p l x => exact .of_settings (s := s) ((Drift.touch _ (layerRec l)).settings) hs
  | faultClear p b => exact .of_settings (s.onBank_settings b fun _ => rfl) hs
  | _ => exact { hs with }

/-- Settles O59, turn by turn: the ranges, and the events that change a setting. -/
theorem settingsStayLegal : Obligations.SettingsStayLegal := by
  unfold Obligations.SettingsStayLegal
  refine ⟨fun s t h hs => step_keeps (P := SettingsLegal) (fun _ _ h => { h with }) (fun i s t h => ?_) h hs, fun i s t h hi => ?_⟩
  · exact (exec_turns h).lift (R := fun u v => SettingsLegal u → SettingsLegal v) (fun _ => id) (fun _ _ _ h k => k ∘ h)
      fun _ _ => Turn.legal
  · exact (exec_turns h).lift (R := fun u v => v.settings = u.settings) (fun _ => rfl) (fun _ _ _ h k => k.trans h)
      fun _ _ k => k.settings hi

end Sys2Proof.Machine
end

section
/-! SUPPORT. What the announcement controller, the players and Operating Control leave of a programme that is switched OFF, and of the
seat counts. -/

namespace Sys2Proof.Machine

variable {s t u : State} {p : Prog}

/-- Programme `p` has no part in the announcement: its ANNOUNCE voice is unbound, and nothing is held for it. -/
def AnnIdle (p : Prog) (s : State) : Prop :=
  (s.voice p .announce).bind = none ∧ ∀ c, s.ann.current = some c → (c.voices.get p).chime = none ∧ (c.voices.get p).speech = []

/-- What an operation leaves of programme `p`'s queue and bed, of the stops, and of the agreement of occupancies with the seat table. -/
structure Sparing (p : Prog) (s t : State) : Prop where
  progs : t.mix.progs = s.mix.progs
  stops : t.route.stops = s.route.stops
  counted : ∀ q, q ≠ 0 → s.seat.occ.get q = s.seat.count127 q → t.seat.occ.get q = t.seat.count127 q
  queue : s.queueOf p = [] → t.queueOf p = []
  bed : (s.voice p .bed).bind = none → (t.voice p .bed).bind = none

/-- A sparing operation that gives no part in the announcement to programme `p` while it is OFF. -/
structure Idle (p : Prog) (s t : State) : Prop extends Sparing p s t where
  ann : p ≠ 0 → s.progOn p = false → AnnIdle p s → AnnIdle p t

theorem Sparing.refl (s : State) : Sparing p s s := ⟨rfl, rfl, fun _ _ => id, id, id⟩

theorem Sparing.trans (h : Sparing p s t) (k : Sparing p t u) : Sparing p s u where
  progs := k.progs.trans h.progs
  stops := k.stops.trans h.stops
  counted q hq := k.counted q hq ∘ h.counted q hq
  queue := k.queue ∘ h.queue
  bed := k.bed ∘ h.bed

theorem State.recountOne_occ (s : State) (q r : Prog) :
    (s.recountOne q).seat.occ.get r = if q = r then s.seat.count127 q else s.seat.occ.get r := by
  have h : (s.recountOne q).seat.occ = s.seat.occ.set q (s.seat.count127 q) := by
    rw [State.recountOne_seat]
    dsimp only
    repeat' split
    all_goals rfl
  rw [h, Tab.get_set]

theorem State.foldl_recountOne_counted {q : Prog} (l : List Prog) (s : State)
    (h : q ∈ l ∨ s.seat.occ.get q = s.seat.count127 q) :
    (l.foldl State.recountOne s).seat.occ.get q = (l.foldl State.recountOne s).seat.count127 q := by
  induction l generalizing s with
  | nil => exact h.resolve_left List.not_mem_nil
  | cons r l ih =>
    refine ih _ ?_
    rw [(SeatMove.recountOne s r).count127, State.recountOne_occ]
    by_cases hr : r = q
    · rw [if_pos hr, hr]; exact .inr rfl
    · rw [if_neg hr]
      exact h.imp_left fun hm => (List.mem_cons.1 hm).resolve_left (Ne.symm hr)

theorem State.recount_counted (s : State) {q : Prog} (hq : q ≠ 0) : s.recount.seat.occ.get q = s.recount.seat.count127 q := by
  unfold State.recount
  exact State.foldl_recountOne_counted langProgs s (.inl (mem_langProgs hq))

namespace Idle

theorem refl (s : State) : Idle p s s := ⟨.refl s, fun _ _ => id⟩

theorem progOn (h : Idle p s t) (q : Prog) : t.progOn q = s.progOn q := by unfold State.progOn; rw [h.progs]

theorem trans (h : Idle p s t) (k : Idle p t u) : Idle p s u :=
  ⟨h.toSparing.trans k.toSparing, fun hp ho => k.ann hp ((h.progOn p).trans ho) ∘ h.ann hp ho⟩

/-- An operation followed by another, the last one named first. -/
theorem of (k : Idle p t u) (h : Idle p s t) : Idle p s u := h.trans k

theorem foldl {γ : Type} {f : State → γ → State} (h : ∀ s x, Idle p s (f s x)) (l : List γ) (s : State) : Idle p s (l.foldl f s) := by
  induction l generalizing s with
  | nil => exact refl s
  | cons x l ih => exact (h s x).trans (ih _)

theorem ite {c : Prop} [Decidable c] (h : Idle p s t) (k : Idle p s u) : Idle p s (if c then t else u) := by
  split
  · exact h
  · exact k

/-! ## One part changed -/

/-- Nothing changed of the mixer, the stops, the Seat Link, the queues and the announcements. -/
theorem same (hm : t.mix = s.mix) (hr : t.route.stops = s.route.stops) (hs : t.seat = s.seat) (hc : t.com.queues = s.com.queues)
    (ha : t.ann = s.ann) : Idle p s t where
  progs := by rw [hm]
  stops := hr
  counted q _ := by rw [hs]; exact id
  queue := by unfold State.queueOf; rw [hc]; exact id
  bed := by unfold State.voice; rw [hm]; exact id
  ann _ _ := by unfold AnnIdle State.voice; rw [hm, ha]; exact id

theorem onStore (s : State) (f : Store → Store) : Idle p s (s.onStore f) := same rfl rfl rfl rfl rfl

theorem post (s : State) (k : EventKind) (a b c : Nat) : Idle p s (s.post k a b c) := same rfl rfl rfl rfl rfl

theorem onLight (s : State) (f : Light → Light) : Idle p s (s.onLight f) := same rfl rfl rfl rfl rfl

theorem setSegment (s : State) (i : SegNo) (x : Option Segment) : Idle p s (s.setSegment i x) :=
  .ite (refl s) (same rfl rfl rfl rfl rfl)

theorem setLayer (s : State) (l : LayerNo) (x : Layer) : Idle p s (s.setLayer l x) := .ite (refl s) (same rfl rfl rfl rfl rfl)

/-- The announcement's record changed, with nothing held for a programme that is OFF. -/
theorem onAnn {f : Announcer → Announcer}
    (h : p ≠ 0 → s.progOn p = false → (∀ c, s.ann.current = some c → (c.voices.get p).chime = none ∧ (c.voices.get p).speech = []) →
      ∀ c, (f s.ann).current = some c → (c.voices.get p).chime = none ∧ (c.voices.get p).speech = []) : Idle p s (s.onAnn f) :=
  ⟨⟨rfl, rfl, fun _ _ => id, id, id⟩, fun hp ho ha => ⟨ha.1, h hp ho ha.2⟩⟩

/-- A part of the announcer other than the current announcement changed. -/
theorem onAnn' {f : Announcer → Announcer} (h : (f s.ann).current = s.ann.current) : Idle p s (s.onAnn f) :=
  onAnn fun _ _ k => by rw [h]; exact k

theorem onCurrent (s : State) {f : Current → Current} (h : ∀ c, ((f c).voices.get p).chime = none ∨ ((f c).voices.get p).chime = (c.voices.get p).chime)
    (h' : ∀ c, ((f c).voices.get p).speech = [] ∨ ((f c).voices.get p).speech = (c.voices.get p).speech) : Idle p s (s.onCurrent f) :=
  onAnn fun _ _ k c hc => by
    obtain ⟨d, hd, rfl⟩ := Option.map_eq_some_iff.1 hc
    obtain ⟨k1, k2⟩ := k d hd
    exact ⟨(h d).elim id fun e => e.trans k1, (h' d).elim id fun e => e.trans k2⟩

/-- What is held for a programme given up, or left as it is. -/
theorem onAnnVoice (s : State) (q : Prog) {f : AnnVoice → AnnVoice} (h : ∀ v, (f v).chime = none ∨ (f v).chime = v.chime)
    (h' : ∀ v, (f v).speech = [] ∨ (f v).speech = v.speech) : Idle p s (s.onAnnVoice q f) := by
  refine onCurrent s (fun c => ?_) fun c => ?_
  · show ((c.voices.modify q f).get p).chime = none ∨ _
    rw [Tab.get_modify]
    split
    · exact h _
    · exact .inr rfl
  · show ((c.voices.modify q f).get p).speech = [] ∨ _
    rw [Tab.get_modify]
    split
    · exact h' _
    · exact .inr rfl

theorem onVoice (s : State) (q : Prog) (v : Voice) {f : VoiceState → VoiceState} (h : q = p → v = .commentary ∨ ∀ x, (f x).bind = none) :
    Idle p s (s.onVoice q v f) := by
  have key : ∀ w : Voice, w ≠ .commentary → (s.voice p w).bind = none → ((s.onVoice q v f).voice p w).bind = none := by
    intro w hw hb
    show (((s.mix.voices.modify q _).get p).get w).bind = none
    rw [Tab.get_modify]
    split
    · next e =>
      rw [Quad.get_set]
      split
      · next e' =>
        rcases h e with hv | hv
        · exact absurd (e'.symm.trans hv) hw
        · exact hv _
      · exact hb
    · exact hb
  exact ⟨⟨rfl, rfl, fun _ _ => id, id, key .bed (by decide)⟩, fun _ _ ha => ⟨key .announce (by decide) ha.1, ha.2⟩⟩

theorem unbind (s : State) (q : Prog) (v : Voice) : Idle p s (s.onVoice q v VoiceState.unbind) := onVoice s q v fun _ => .inr fun _ => rfl

theorem setQueue (s : State) (q : Prog) (l : List Item) (h : s.queueOf q = [] → l = []) : Idle p s (s.setQueue q l) := by
  refine ⟨⟨rfl, rfl, fun _ _ => id, fun hp => ?_, id⟩, fun _ _ => id⟩
  show (s.com.queues.set q l).get p = []
  rw [Tab.get_set]
  split
  · next e => subst e; exact h hp
  · exact hp

/-! ## Items that leave their queue -/

theorem settleSegment (s : State) (i : SegNo) : Idle p s (s.settleSegment i) := by
  unfold State.settleSegment
  split
  · exact .ite (.of (post _ _ _ _ _) (setSegment _ _ _)) (refl s)
  · exact refl s

theorem reportItem (s : State) (i : SegNo) (o : ItemOutcome) : Idle p s (s.reportItem i o) := by
  unfold State.reportItem
  split
  · exact .ite (.of (settleSegment _ _) (setSegment _ _ _)) (refl s)
  · exact refl s

theorem itemLeft (s : State) (q : Prog) (o : ItemOutcome) (x : Item) : Idle p s (s.itemLeft q o x) := by
  have h : Idle p s ((if x.playing then s.onVoice q .commentary VoiceState.unbind else s).onStore fun st => st.release x.bind.entry) :=
    .of (onStore _ _) (.ite (unbind s q _) (refl s))
  unfold State.itemLeft
  exact .ite h (.of (reportItem _ _ _) h)

theorem removeItems (s : State) (q : Prog) (f : Item → Bool) (o : ItemOutcome) : Idle p s (s.removeItems q f o) :=
  .of (foldl (fun u x => itemLeft u q o x) _ _) (setQueue s q _ fun e => by rw [e]; rfl)

theorem emptyQueue (s : State) (q : Prog) : Idle p s (s.emptyQueue q) := removeItems s q _ _

/-! ## Beds, players and Operating Control -/

theorem bedRelease (s : State) (q : Prog) : Idle p s (s.bedRelease q) := by
  unfold State.bedRelease
  split
  · exact refl s
  · exact .of (onStore _ _) (unbind s q _)

theorem playerStop (s : State) (k : PlayerNo) : Idle p s (s.playerStop k) := by
  unfold State.playerStop
  split
  · exact refl s
  · exact .of (onStore _ _) (onLight s _)

theorem cueFetch (s : State) (k : PlayerNo) (q : Player) (lo hi : Nat) : Idle p s (s.cueFetch k q lo hi) :=
  same rfl rfl rfl rfl rfl

theorem playerStart (s : State) (k : PlayerNo) (clip : Nat) : Idle p s (s.playerStart k clip).1 := by
  unfold State.playerStart
  dsimp only
  split
  · exact .of (post _ _ _ _ _) (.of (onStore _ _) (playerStop s k))
  · exact .of (cueFetch _ _ _ _ _) (.of (onStore _ _) (playerStop s k))

theorem cueRequest (s : State) (k : PlayerNo) (clip : Option Nat) : Idle p s (s.cueRequest k clip) := by
  unfold State.cueRequest
  split
  · exact refl s
  · exact .ite (playerStart s _ _) (refl s)

theorem endStopCue (s : State) : Idle p s s.endStopCue := .of (setLayer _ _ _) (playerStop s 2)

theorem changeOp (s : State) (new : OpState) (cause : StateCause) : Idle p s (s.changeOp new cause) := same rfl rfl rfl rfl rfl

theorem emptyQueues (s : State) : Idle p s s.emptyQueues := foldl emptyQueue _ _

theorem releaseBeds (s : State) : Idle p s s.releaseBeds := foldl bedRelease _ _

theorem ofSeat (hr : t = { s with ports := t.ports, seat := t.seat })
    (hc : ∀ q, q ≠ 0 → t.seat.occ.get q = t.seat.count127 q) : Idle p s t := by
  generalize t.ports = ports, t.seat = seat at hr hc
  subst hr
  exact ⟨⟨rfl, rfl, fun q hq _ => hc q hq, id, id⟩, fun _ _ => id⟩

theorem seatStandby (s : State) : Idle p s s.seatStandby :=
  ofSeat s.seatStandby_rest fun q hq => by
    unfold State.seatStandby
    exact State.recount_counted _ hq

theorem enterStandby (s : State) : Idle p s s.enterStandby := by
  have hstop : ∀ u : State, Idle p u u.stopPlayers := fun u =>
    .of (playerStop _ 2) (.of (playerStop _ 1) (playerStop u 0))
  exact .of (hstop _) (.of (seatStandby _) (.of (releaseBeds _) (.of (emptyQueues _) (changeOp s _ _))))

theorem quietCheck (s : State) : Idle p s s.quietCheck := .ite (enterStandby s) (refl s)

/-! ## The announcement controller -/

theorem setDucker (s : State) (b : Bool) : Idle p s (s.setDucker b) := .ite (refl s) (onAnn' rfl)

theorem setWindow (s : State) (b : Bool) : Idle p s (s.setWindow b) := same rfl rfl rfl rfl rfl

theorem bindAnn_voice (s : State) (q : Prog) (b : Option Binding) {w : Voice} (h : (q = p → b = none) ∨ w ≠ .announce) :
    (s.bindAnn q b).voice p w = s.voice p w := by
  unfold State.bindAnn
  split
  · show ((s.mix.voices.modify q _).get p).get w = _
    rw [Tab.get_modify]
    split
    · next e =>
      rw [Quad.get_set, if_neg (Ne.symm (h.resolve_left fun k => by cases k e))]
      rfl
    · rfl
  · rfl

/-- Clips bound to ANNOUNCE voices: whatever they are, no queue and no bed changes. -/
theorem bindAnn_sparing (s : State) (q : Prog) (b : Option Binding) : Sparing p s (s.bindAnn q b) := by
  have hb : (s.bindAnn q b).voice p .bed = s.voice p .bed := bindAnn_voice s q b (.inr (by decide))
  refine ⟨?_, ?_, fun _ _ => ?_, ?_, fun h => by rw [hb]; exact h⟩ <;> unfold State.bindAnn <;> split <;> first | rfl | exact id

theorem bindAnn_ann (s : State) (q : Prog) (b : Option Binding) : (s.bindAnn q b).ann = s.ann := by
  unfold State.bindAnn
  split <;> rfl

theorem bindAll (f : Prog → Option Binding) (l : List Prog) (s : State)
    (h : p ≠ 0 → s.progOn p = false → AnnIdle p s → f p = none) : Idle p s (l.foldl (fun u q => u.bindAnn q (f q)) s) := by
  have hs : ∀ (l : List Prog) (u : State), Sparing p u (l.foldl (fun u q => u.bindAnn q (f q)) u) := by
    intro l
    induction l with
    | nil => exact .refl
    | cons q l ih => exact fun u => (bindAnn_sparing u q _).trans (ih _)
  refine ⟨hs l s, fun hp ho ha => ?_⟩
  have hf := h hp ho ha
  clear h hs ho
  induction l generalizing s with
  | nil => exact ha
  | cons q l ih =>
    refine ih _ ⟨?_, by rw [bindAnn_ann]; exact ha.2⟩
    rw [bindAnn_voice s q _ (.inl fun e => e ▸ hf)]
    exact ha.1

/-- The clips of an announcement, none of them for a programme that is OFF. -/
structure Chosen (p : Prog) (s : State) (x : State × Tab AnnVoice 13) : Prop where
  idle : Idle p s x.1
  voice : p ≠ 0 → s.progOn p = false → (x.2.get p).chime = none ∧ (x.2.get p).speech = []

theorem findClip (s : State) (clip : Nat) : Idle p s (s.findClip clip).1 := same rfl rfl rfl rfl rfl

theorem Chosen.modify {x : State × Tab AnnVoice 13} (h : Chosen p s x) {v : State} (hv : Idle p x.1 v) (q : Prog)
    (f : AnnVoice → AnnVoice) (hq : p ≠ 0 → s.progOn p = false → q ≠ p) : Chosen p s (v, x.2.modify q f) :=
  ⟨h.idle.trans hv, fun hp ho => by
    dsimp only
    rw [Tab.get_modify_other (hq hp ho)]
    exact h.voice hp ho⟩

theorem Chosen.chime {x : State × Tab AnnVoice 13} (h : Chosen p s x) (chime : Option Nat) (q : Prog) :
    Chosen p s (findChime chime x q) := by
  unfold findChime
  split
  · exact h
  · split
    · next hon =>
      refine h.modify (findClip _ _) q _ fun _ ho e => ?_
      rw [h.idle.progOn, e, ho] at hon
      cases hon
    · exact h

theorem findSpeech (s : State) (item : AnnItem) (lang : Nat) : Idle p s (s.findSpeech item lang).1 := by
  have hfirst : Idle p s (match item.langs.find? fun x => x.1 == lang with
      | some x => s.findClip x.2
      | none => (s, none) : State × Option Binding).1 := by
    split
    · exact findClip s _
    · exact refl s
  unfold State.findSpeech
  dsimp only
  split
  · exact .of (findClip _ _) hfirst
  · exact hfirst

theorem Chosen.speech {x : State × Tab AnnVoice 13} (h : Chosen p s x) (item : AnnItem) (q : Prog) :
    Chosen p s (findSpeechFor item x q) := by
  unfold findSpeechFor
  split
  · next hon =>
    refine h.modify (findSpeech _ _ _) q _ fun _ ho e => ?_
    rw [h.idle.progOn, e, ho] at hon
    cases hon
  · exact h

theorem Chosen.pa {x : State × Tab AnnVoice 13} (h : Chosen p s x) (clip : Nat) : Chosen p s (findPa x clip) :=
  h.modify (findClip _ _) 0 _ fun hp _ => Ne.symm hp

theorem Chosen.foldl {γ : Type} {f : State × Tab AnnVoice 13 → γ → State × Tab AnnVoice 13}
    (h : ∀ x y, Chosen p s x → Chosen p s (f x y)) (l : List γ) (x : State × Tab AnnVoice 13) (hx : Chosen p s x) :
    Chosen p s (l.foldl f x) := by
  induction l generalizing x with
  | nil => exact hx
  | cons y l ih => exact ih _ (h x y hx)

theorem chooseClips (s : State) (item : AnnItem) : Chosen p s (s.chooseClips item) := by
  have h0 : Chosen p s (s, Tab.fill 13 AnnVoice.empty) := ⟨refl s, fun _ _ => by rw [Tab.get_fill]; exact ⟨rfl, rfl⟩⟩
  exact Chosen.foldl (fun _ c h => h.pa c) _ _ (Chosen.foldl (fun _ q h => h.speech item q) _ _
    (Chosen.foldl (fun _ q h => h.chime item.chime q) _ _ h0))

theorem leadIn (s : State) (item : AnnItem) (voices : Tab AnnVoice 13)
    (h : p ≠ 0 → s.progOn p = false → (voices.get p).chime = none) : Idle p s (s.leadIn item voices) := by
  have hd : Idle p s (s.setDucker true) := setDucker s true
  unfold State.leadIn
  exact .of (setWindow _ _) (.of (cueRequest _ _ _) (.of (bindAll (fun q => (voices.get q).chime) _ _
    fun hp ho _ => h hp ((hd.progOn p).symm.trans ho)) hd))

theorem startCurrent (s : State) (item : AnnItem) : Idle p s (s.startCurrent item) := by
  unfold State.startCurrent
  dsimp only
  have hpost : Idle p s (s.post .announceStarted item.number (annKindCode item.kind) item.stopIndex) := post s _ _ _ _
  generalize s.post .announceStarted item.number (annKindCode item.kind) item.stopIndex = u at hpost ⊢
  have hc : Chosen p u (u.chooseClips item) := chooseClips u item
  generalize u.chooseClips item = x at hc ⊢
  have hv : p ≠ 0 → x.1.progOn p = false → (x.2.get p).chime = none ∧ (x.2.get p).speech = [] := fun hp ho =>
    hc.voice hp ((hc.idle.progOn p).symm.trans ho)
  exact .of (leadIn _ _ _ fun hp ho => (hv hp ho).1) (.of (onAnn fun hp ho _ c e => by cases e; exact hv hp ho) (hc.idle.of hpost))

theorem setAnnQueue (s : State) (q : List AnnItem) : Idle p s (s.setAnnQueue q) := onAnn' rfl

theorem tryStart (s : State) : Idle p s s.tryStart := by
  unfold State.tryStart
  split
  · exact .ite (.of (startCurrent _ _) (setAnnQueue s _)) (refl s)
  · exact refl s

theorem releaseUses (l : List Binding) (s : State) :
    Idle p s (l.foldl (fun s b => s.onStore fun st => st.release b.entry) s) := foldl (fun u _ => onStore u _) l s

theorem releaseAnn (s : State) (q : Prog) : Idle p s (s.releaseAnn q) := by
  unfold State.releaseAnn
  split
  · exact refl s
  · exact .of (onAnnVoice _ q (fun _ => .inl rfl) fun _ => .inl rfl) (.of (unbind _ q _) (releaseUses _ s))

theorem closeCurrent (s : State) (tail : Bool) : Idle p s (s.closeCurrent tail) := by
  unfold State.closeCurrent
  split
  · exact refl s
  · next c _ =>
    have h : Idle p s (((allProgs.foldl State.releaseAnn s).endStopCue).post .announceFinished c.item.number
        (annKindCode c.item.kind) (annEndCode c.ending)) :=
      .of (post _ _ _ _ _) (.of (endStopCue _) (foldl releaseAnn _ s))
    exact .of (onAnn fun _ _ _ _ e => by cases e) (.ite (.of (setWindow _ _) h) h)

theorem tailStart (s : State) : Idle p s s.tailStart :=
  .of (setDucker _ _) (onCurrent s (fun _ => .inr rfl) fun _ => .inr rfl)

theorem speakingEnd (s : State) : Idle p s s.speakingEnd := by
  unfold State.speakingEnd
  split
  · exact .ite (.of (startCurrent _ _) (.of (setAnnQueue _ _) (closeCurrent s _))) (tailStart s)
  · exact tailStart s

theorem speakingStart (s : State) : Idle p s s.speakingStart := by
  unfold State.speakingStart
  split
  · exact refl s
  · next c hc =>
    dsimp only
    have hset : Idle p s (s.onAnn fun a => { a with current := some { c with
        phase := .speaking, voices := Tab.map (fun (v : AnnVoice) => { v with finished := v.speech.isEmpty }) c.voices } }) :=
      onAnn fun _ _ k d e => by
        cases e
        rw [Tab.get_map]
        exact k c hc
    have hbind := hset.trans (bindAll (fun q =>
      ((Tab.map (fun (v : AnnVoice) => { v with finished := v.speech.isEmpty }) c.voices).get q).speech.head?) allProgs _
      fun hp ho ha => by rw [(ha.2 _ rfl).2]; rfl)
    exact .ite (.of (speakingEnd _) hbind) hbind

theorem tailEnd (s : State) : Idle p s s.tailEnd := .of (quietCheck _) (.of (tryStart _) (closeCurrent s _))

theorem phaseTest (s : State) : Idle p s s.phaseTest := by
  unfold State.phaseTest
  split
  · exact refl s
  · split
    · exact .ite (speakingStart s) (refl s)
    · exact .ite (speakingEnd s) (refl s)
    · exact .ite (tailEnd s) (refl s)

theorem annProgOff (s : State) (q : Prog) : Idle p s (s.annProgOff q) :=
  .of (phaseTest _) (.of (unbind _ q _) (.of (onAnnVoice _ q (fun _ => .inl rfl) fun _ => .inl rfl) (releaseAnn s q)))

theorem mixProgOff (s : State) (q : Prog) : Idle p s (s.mixProgOff q) := by
  have h : ∀ u : State, Idle p u (u.onMix fun m => { m with
      block := m.block.modify q (Option.map fun b => { b with cut := true }) }) := fun u =>
    ⟨⟨rfl, rfl, fun _ _ => id, id, id⟩, fun _ _ => id⟩
  exact .of (h _) (bedRelease s q)

end Idle

end Sys2Proof.Machine
end

section
/-! SUPPORT. The capacities, the bounds of the sound, the seat table and the programme activity are kept by every turn of every event. -/

namespace Sys2Proof.Machine

variable {i : Instr} {s t u : State} {p q : Prog}

/-- The parts of the invariant that do not speak of programme activity. -/
structure Bounded (s : State) : Prop where
  caps : CapacitiesHold s
  audio : AudioBounded s
  seats : SeatsConfigured s

theorem Sound.bounded (h : Sound s) : Bounded s := ⟨h.caps, h.audio, h.seats⟩

theorem Bounded.sound (h : Bounded s) (ha : ∀ p, p ≠ 0 → activityAgrees s p) : Sound s := ⟨h.caps, h.audio, h.seats, ha⟩

theorem Bounded.drift (h : Drift s t) (hs : Bounded s) : Bounded t := ⟨h.caps hs.caps, h.audio hs.audio, h.seats hs.seats⟩

theorem Sound.glide (h : Glide s t) (hs : Sound s) : Sound t :=
  ⟨h.caps hs.caps, h.audio hs.audio, h.seats hs.seats, fun p hp => h.activity p hp (hs.activity p hp)⟩

theorem Sound.drift (h : Drift s t) (hs : Sound s) : Sound t := hs.glide h.toGlide

/-- Only what the invariant does not speak of is changed. -/
theorem Sound.of_parts (hs : Sound s) (hp : ∀ p, (s.ports.get p).queue.length ≤ 16 → (t.ports.get p).queue.length ≤ 16) (hc : t.com = s.com)
    (ha : t.ann.queue = s.ann.queue) (hm : { t.mix with duck := s.mix.duck, loud := s.mix.loud } = s.mix) (hk : t.seat = s.seat)
    (hst : t.store.scrub = s.store.scrub) : Sound t where
  caps :=
    { events := fun p => hp p (hs.caps.events p)
      commentary := by unfold State.queueOf; rw [hc]; exact hs.caps.commentary
      announce := by rw [ha]; exact hs.caps.announce
      mirror := (congrArg (fun m => m.mirror.length ≤ 2) hm).mpr hs.caps.mirror
      scrub := by rw [hst]; exact hs.caps.scrub
      clamped := (congrArg (fun m => ∀ p, m.clamped.get p ≤ 65535) hm).mpr hs.caps.clamped
      streak := (congrArg (fun m => ∀ p, m.streak.get p ≤ 15) hm).mpr hs.caps.streak
      misses := by rw [hk]; exact hs.caps.misses }
  audio :=
    { gains := (congrArg (fun m => ∀ p v, ((m.voices.get p).get v).d ≤ 4096 ∧ ((m.voices.get p).get v).target ≤ 4096) hm).mpr
        hs.audio.gains
      blocks := (congrArg (fun m => ∀ p b, m.block.get p = some b → ∀ v, b.target.get v ≤ 4096) hm).mpr hs.audio.blocks
      out := (congrArg (fun m => ∀ p, ∀ x ∈ m.out.get p, -32768 ≤ x ∧ x ≤ 32767) hm).mpr hs.audio.out }
  seats := by
    obtain ⟨h1, h2, h3, h4, h5⟩ := hs.seats
    rw [← hk] at h1 h2 h3 h4 h5
    exact ⟨h1, h2, h3, h4, h5⟩
  activity p hp := by
    have ho : t.progOn p = s.progOn p := (congrArg (fun m => (m.progs.get p).on) hm :)
    unfold activityAgrees decisionAgrees
    rw [ho, hk]
    exact hs.activity p hp

/-- Nothing but the ports, the Route Unit, the lights, the recorder and Operating Control is changed, and no queue grows. -/
theorem Sound.same (hs : Sound s) (hp : ∀ p, (s.ports.get p).queue.length ≤ 16 → (t.ports.get p).queue.length ≤ 16) (hc : t.com = s.com)
    (ha : t.ann.queue = s.ann.queue) (hm : t.mix = s.mix) (hk : t.seat = s.seat) (hst : t.store.scrub = s.store.scrub) : Sound t := hs.of_parts hp hc ha (by rw [hm]) hk hst

/-! ## PROGRAMME-WRITE (R100, R101, R129) -/

theorem Bounded.seatMove (h : SeatMove s t) (hs : Bounded s) : Bounded t where
  caps :=
    { events := fun p => (h.ports p).queue (hs.caps.events p)
      commentary := by rw [h.rest]; exact hs.caps.commentary
      announce := by rw [h.rest]; exact hs.caps.announce
      mirror := by rw [h.rest]; exact hs.caps.mirror
      scrub := by rw [h.rest]; exact hs.caps.scrub
      clamped := by rw [h.rest]; exact hs.caps.clamped
      streak := by rw [h.rest]; exact hs.caps.streak
      misses := by rw [h.seats]; exact hs.caps.misses }
  audio := by rw [h.rest]; exact ⟨hs.audio.gains, hs.audio.blocks, hs.audio.out⟩
  seats := h.configured hs.seats

theorem Bounded.writeRecords (hs : Bounded s) (p : Prog) (x : ProgRec) : Bounded (s.writeRecords p x) := by
  obtain ⟨m, q, e, hq⟩ := s.writeRecords_frame p x
  rw [e]
  obtain ⟨hcaps, haudio, hseats⟩ := hs
  exact ⟨{ hcaps with events := fun k => (hq k).queue (hcaps.events k) }, { haudio with }, { hseats with }⟩

theorem State.writeRecords_seat (s : State) (p : Prog) (x : ProgRec) : (s.writeRecords p x).seat = s.seat := by
  obtain ⟨m, q, e, -⟩ := s.writeRecords_frame p x
  rw [e]

theorem State.writeRecords_on (s : State) (p : Prog) (x : ProgRec) (q : Prog) :
    (s.writeRecords p x).progOn q = if q = p then x.on else s.progOn q := by
  unfold State.progOn
  rw [State.writeRecords_progs]
  split
  · rfl
  · split <;> rfl

/-- What the Seat Link keeps for a programme agrees if the programme's state does, and nothing of it is changed. -/
theorem activityAgrees.congr (hk : t.seat = s.seat) (ho : t.progOn p = s.progOn p) (h : activityAgrees s p) : activityAgrees t p := by
  unfold activityAgrees decisionAgrees
  rw [hk, ho]
  exact h

theorem State.writeRecords_activity {x : ProgRec} (h : q ≠ p ∨ s.progOn p = x.on) (ha : activityAgrees s q) :
    activityAgrees (s.writeRecords p x) q := by
  refine ha.congr (s.writeRecords_seat p x) ?_
  rw [State.writeRecords_on]
  split
  · next e => rw [e]; exact ((h.resolve_left (fun k => k e)).symm)
  · rfl

/-- R129: switching programme `p` leaves the decision of every other programme as it is. -/
theorem sameDecision.seatProgOff (s : State) (h : p ≠ q) : sameDecision s (s.seatProgOff p) q :=
  ⟨rfl, Tab.get_set_other h _, Tab.get_set_other h _⟩

theorem sameDecision.seatProgOn (s : State) (h : p ≠ q) : sameDecision s (s.seatProgOn p) q := by
  unfold State.seatProgOn
  dsimp only
  split
  · unfold sameDecision
    rw [State.startHold_seat]
    split
    · exact ⟨rfl, (Tab.get_set_other h _).trans (Tab.get_set_other h _), Tab.get_set_other h _⟩
    · exact ⟨rfl, Tab.get_set_other h _, Tab.get_set_other h _⟩
  · exact ⟨rfl, Tab.get_set_other h _, Tab.get_set_other h _⟩

theorem activityAgrees.seatMove (h : SeatMove s t) (hd : sameDecision s t p) (ha : activityAgrees s p) : activityAgrees t p :=
  ⟨by rw [hd.1, h.count127]; exact ha.1, ha.2.congr hd (h.progOn p)⟩

/-- R101: switching a programme leaves what the Seat Link keeps for every other one in agreement. -/
theorem activityAgrees.switchProg {was now : Bool} (h : p ≠ q) (hq : q ≠ 0) (ha : activityAgrees s q) :
    activityAgrees (s.switchProg p was now) q := by
  unfold State.switchProg
  split
  · have hd : Drift s (((s.emptyQueue p).annProgOff p).mixProgOff p) := .of (.mixProgOff _ _) (.of (.annProgOff _ _) (.emptyQueue _ _))
    exact (hd.activity q hq ha).seatMove (.seatProgOff _ p) (.seatProgOff _ h)
  · split
    · have hd : Drift s ((s.annProgOn p).mixProgOn p) := .of (.mixProgOn _ _) (.annProgOn _ _)
      exact (hd.activity q hq ha).seatMove (.seatProgOn _ p) (.seatProgOn _ h)
    · exact ha

/-- R129: a programme switched OFF has no decision and no holdoff. -/
theorem activityAgrees.seatProgOff (ho : s.progOn p = false) (hc : s.seat.occ.get p = s.seat.count127 p) :
    activityAgrees (s.seatProgOff p) p := by
  refine ⟨hc, ?_⟩
  have ho' : (s.seatProgOff p).progOn p = false := ho
  unfold decisionAgrees
  rw [ho', if_neg Bool.false_ne_true]
  exact ⟨Tab.get_set_self _ _ _, Tab.get_set_self _ _ _⟩

/-- R129: a programme switched ON is AWAKE, its holdoff running while no seat listens; with a holdoff of 0 it is DORMANT at once. -/
theorem activityAgrees.seatProgOn (ho : s.progOn p = true) (hc : s.seat.occ.get p = s.seat.count127 p) :
    activityAgrees (s.seatProgOn p) p := by
  refine ⟨?_, ?_⟩
  · rw [(SeatMove.seatProgOn s p).count127, ← hc]
    unfold State.seatProgOn
    dsimp only
    split
    · rw [State.startHold_seat]
      split <;> rfl
    · rfl
  · unfold decisionAgrees
    rw [(SeatMove.seatProgOn s p).progOn, ho, if_pos rfl]
    unfold State.seatProgOn
    dsimp only
    by_cases h0 : s.seat.occ.get p = 0
    · rw [if_pos (show (s.setAct p (some .awake)).seat.occ.get p = 0 from h0), State.startHold_seat]
      split
      · simp [h0, State.setAct]
      · simp [h0, State.setAct]
    · have hne : ¬ (s.setAct p (some .awake)).seat.occ.get p = 0 := h0
      rw [if_neg hne]
      simp [State.setHold, State.setAct, Nat.pos_of_ne_zero h0]

/-- R101, R129: a programme that is switched agrees with the seat table, and so does one whose state is kept. -/
theorem activityAgrees.switched {was now : Bool} (ho : s.progOn p = now) (hp : p ≠ 0) (hc : s.seat.occ.get p = s.seat.count127 p)
    (ha : was = now → activityAgrees s p) : activityAgrees (s.switchProg p was now) p := by
  unfold State.switchProg
  split
  · next h =>
    have hi : Idle p s (((s.emptyQueue p).annProgOff p).mixProgOff p) := .of (.mixProgOff _ _) (.of (.annProgOff _ _) (.emptyQueue _ _))
    have hn : now = false := by cases now <;> simp_all
    exact .seatProgOff ((hi.progOn p).trans (ho.trans hn)) (hi.counted p hp hc)
  · split
    · next h =>
      have hn : now = true := by cases now <;> simp_all
      exact .seatProgOn (s := (s.annProgOn p).mixProgOn p) (ho.trans hn) hc
    · exact ha (by cases was <;> cases now <;> simp_all)

theorem Sound.writeProgramme (hs : Sound s) (p : Prog) (x : ProgRec) : Sound (s.writeProgramme p x) := by
  have hb : Bounded (s.writeProgramme p x) := by
    obtain ⟨u, v, hu, hv, ht⟩ := s.writeProgramme_spec p x
    exact (((hs.bounded.writeRecords p x).drift hu).seatMove hv).drift ht
  refine hb.sound fun q hq => ?_
  have hsw : activityAgrees ((s.writeRecords p x).switchProg p (s.mix.progs.get p).on x.on) q := by
    by_cases h : q = p
    · subst h
      refine .switched ?_ hq ?_ fun e => State.writeRecords_activity (.inr e) (hs.activity q hq)
      · rw [State.writeRecords_on, if_pos rfl]
      · rw [State.writeRecords_seat]; exact (hs.activity q hq).1
    · exact .switchProg (Ne.symm h) hq (State.writeRecords_activity (.inl h) (hs.activity q hq))
  rw [State.writeProgramme_eq]
  exact (Drift.ite (.switchMirror _ _ _) (.refl _)).activity q hq hsw

/-! ## SEAT-CONFIG (R120) -/

theorem Seat.configure_misses {n : Nat} {time : Count32} {j : SeatNo} {x : Seat} (h : x.misses ≤ 3) : (x.configure n time j).misses ≤ 3 := by
  unfold Seat.configure
  dsimp only
  repeat' split
  all_goals first | exact h | exact Nat.zero_le 3

theorem Seat.configure_selection {n : Nat} {time : Count32} {j : SeatNo} {x : Seat} (h : x.selection ≤ 12) :
    (x.configure n time j).selection ≤ 12 := by
  unfold Seat.configure
  dsimp only
  repeat' split
  all_goals first | exact h | exact Nat.zero_le 12

theorem Seat.configure_state (n : Nat) (time : Count32) (j : SeatNo) (x : Seat) :
    (x.configure n time j).state = if n ≤ j.val then .disabled else if x.state = .disabled then .unknown else x.state := by
  unfold Seat.configure
  dsimp only
  repeat' split
  all_goals first | rfl | assumption

theorem Bounded.seatTableSet (hs : Bounded s) {n holdoff : Nat} (h1 : 1 ≤ n) (h80 : n ≤ 80) (hh : holdoff ≤ 60000) :
    Bounded (s.seatTableSet n holdoff) := by
  refine Bounded.drift (Drift.touch (s.onSeat fun k => k.reconfigured n holdoff s.ctl.time) seatConfigRec) ?_
  obtain ⟨hcaps, haudio, hseats⟩ := hs
  have hget (j : SeatNo) : (s.seat.reconfigured n holdoff s.ctl.time).seats.get j = (s.seat.seats.get j).configure n s.ctl.time j :=
    Tab.get_ofFn _ _
  refine ⟨{ hcaps with misses := fun j => ?_ }, { haudio with }, ⟨h1, h80⟩, hh, ?_, fun j => ?_, fun j => ?_⟩
  · rw [State.onSeat_seat, hget]
    exact Seat.configure_misses (hcaps.misses j)
  · show (if n ≤ s.seat.pointer then 0 else s.seat.pointer) < n
    split <;> omega
  · rw [State.onSeat_seat, hget, Seat.configure_state]
    show _ ↔ n ≤ j.val
    by_cases hj : n ≤ j.val
    · simp [hj]
    · by_cases hx : (s.seat.seats.get j).state = .disabled <;> simp [hj, hx]
  · rw [State.onSeat_seat, hget]
    exact Seat.configure_selection (hseats.selection j)

theorem Sound.seatConfigure (hs : Sound s) {n holdoff : Nat} (h1 : 1 ≤ n) (h80 : n ≤ 80) (hh : holdoff ≤ 60000) :
    Sound (s.seatConfigure n holdoff) := by
  rw [State.seatConfigure_eq]
  have hb := hs.bounded.seatTableSet h1 h80 hh
  refine Sound.drift (.of (.linkBreakTest _ _) (.expireDue _)) ((hb.drift (.recount _)).sound fun q hq => ?_)
  exact recount_agrees _ hq ((hs.activity q hq).2.congr ⟨rfl, rfl, rfl⟩ rfl)

/-! ## The resets (R188, R189) -/

theorem SeatLink.reset_count127 (time : Count32) (q : Prog) : (SeatLink.reset time).count127 q = 0 := by
  unfold SeatLink.count127 SeatLink.reset Tab.fill
  rw [List.length_eq_zero_iff, List.filter_eq_nil_iff]
  intro x hx
  rw [List.eq_of_mem_replicate hx]
  exact Bool.false_ne_true

/-- R134: after a reset no seat is occupied, and every language programme is OFF. -/
theorem activityAgrees.of_reset {time : Count32} {x : Option Poll} (hk : s.seat = { SeatLink.reset time with poll := x })
    (ho : s.progOn q = false) : activityAgrees s q := by
  unfold activityAgrees decisionAgrees
  rw [ho, hk, if_neg Bool.false_ne_true]
  exact ⟨(Tab.get_fill _ _).trans (SeatLink.reset_count127 time q).symm, Tab.get_fill _ _, Tab.get_fill _ _⟩

theorem SeatsConfigured.of_reset {time : Count32} {x : Option Poll} (hk : s.seat = { SeatLink.reset time with poll := x }) :
    SeatsConfigured s := by
  have hget (j : SeatNo) : s.seat.seats.get j = ⟨.unknown, 0, 0, false, time⟩ := by rw [hk]; exact Tab.get_fill _ _
  have hcount : s.seat.count = 80 := by rw [hk]; rfl
  refine ⟨by omega, ?_, ?_, fun j => ?_, fun j => ?_⟩
  · rw [hk]; exact (by decide : 10000 ≤ 60000)
  · rw [hk]; exact (by decide : 0 < 80)
  · rw [hget, hcount]
    exact ⟨nofun, fun h => absurd j.isLt (Nat.not_lt.2 h)⟩
  · rw [hget]; exact Nat.zero_le 12

/-- R118: the language programmes are OFF after a reset. -/
theorem ProgRec.reset_off (h : q ≠ 0) : (Mixer.reset.progs.get q).on = false := by
  rw [show Mixer.reset.progs.get q = ProgRec.reset q from Tab.get_ofFn _ _]
  exact beq_false_of_ne h

theorem Sound.of_reset {time : Count32} {x : Option Poll} (hports : ∀ p, (s.ports.get p).queue.length ≤ 16)
    (hcom : s.com = Commentary.reset) (hann : s.ann = Announcer.reset) (hscrub : s.store.scrub = [])
    (hmix : { s.mix with block := Mixer.reset.block, out := Mixer.reset.out } = Mixer.reset)
    (hblock : ∀ p b, s.mix.block.get p = some b → b = Block.silent)
    (hout : ∀ p, ∀ y ∈ s.mix.out.get p, -32768 ≤ y ∧ y ≤ 32767)
    (hk : s.seat = { SeatLink.reset time with poll := x }) : Sound s where
  caps :=
    { events := hports
      commentary := fun p => by
        rw [State.queueOf, hcom, show Commentary.reset.queues.get p = [] from Tab.get_fill _ _]; exact Nat.zero_le 4
      announce := by rw [hann]; exact Nat.zero_le 8
      mirror := (congrArg (fun m => m.mirror.length ≤ 2) hmix).mpr (Nat.zero_le 2)
      scrub := by rw [hscrub]; exact Nat.zero_le 8
      clamped := (congrArg (fun m => ∀ p, m.clamped.get p ≤ 65535) hmix).mpr fun p => by
        rw [show Mixer.reset.clamped.get p = 0 from Tab.get_fill _ _]; exact Nat.zero_le _
      streak := (congrArg (fun m => ∀ p, m.streak.get p ≤ 15) hmix).mpr fun p => by
        rw [show Mixer.reset.streak.get p = 0 from Tab.get_fill _ _]; exact Nat.zero_le _
      misses := fun j => by
        rw [hk, show ({ SeatLink.reset time with poll := x } : SeatLink).seats.get j = ⟨.unknown, 0, 0, false, time⟩ from Tab.get_fill _ _]
        exact Nat.zero_le 3 }
  audio :=
    { gains := (congrArg (fun m => ∀ p v, ((m.voices.get p).get v).d ≤ 4096 ∧ ((m.voices.get p).get v).target ≤ 4096) hmix).mpr
        fun p v => by rw [VoiceState.reset_voices]; exact ⟨Nat.le_refl 4096, Nat.le_refl 4096⟩
      blocks := fun p b hb v => by rw [hblock p b hb]; exact Block.silent_target v
      out := hout }
  seats := .of_reset hk
  activity q hq := .of_reset hk ((congrArg (fun m => (m.progs.get q).on = false) hmix).mpr (ProgRec.reset_off hq))

theorem Sound.restartValues (hs : Sound s) : Sound s.restartValues := by
  refine .of_reset (fun p => ?_) rfl rfl rfl rfl (fun p b hb => ?_) hs.audio.out rfl
  · show ((s.ports.map PortState.restart).get p).queue.length ≤ 16
    rw [Tab.get_map]
    exact Nat.zero_le 16
  · have hb' : (Tab.map (Option.map fun _ => Block.silent) s.mix.block).get p = some b := hb
    rw [Tab.get_map, Option.map_eq_some_iff] at hb'
    obtain ⟨_, _, rfl⟩ := hb'
    rfl

theorem sound_reset : Sound State.reset := by
  refine .of_reset (time := 0) (x := none) (fun p => ?_) rfl rfl rfl rfl (fun p b hb => ?_) (fun p y hy => ?_) rfl
  · rw [show State.reset.ports.get p = PortState.reset from Tab.get_fill _ _]; exact (by decide : 1 ≤ 16)
  · rw [show State.reset.mix.block.get p = none from Tab.get_fill _ _] at hb; cases hb
  · rw [show State.reset.mix.out.get p = [] from Tab.get_fill _ _] at hy; cases hy

/-! ## Every turn -/

theorem Turn.sound (h : Turn i s t) (hs : Sound s) : Sound t := by
  have hport {p : Port} {f : PortState → PortState} (hf : ∀ a, (f a).queue = a.queue) (k : Port) :
      (s.ports.get k).queue.length ≤ 16 → ((s.onPort p f).ports.get k).queue.length ≤ 16 := by
    rw [State.onPort_ports, Tab.get_modify]
    split
    · rw [hf]; exact id
    · exact id
  cases h with
  | drift h => exact hs.drift h
  | slots h =>
    refine hs.same (fun p => by rw [h.port p]; exact id) ?_ ?_ ?_ ?_ ?_ <;> rw [h.frame]
  | reserve p r => exact hs.same (hport fun _ => rfl) rfl rfl rfl rfl rfl
  | eventMask p => exact hs.same (hport fun _ => rfl) rfl rfl rfl rfl rfl
  | position p d v => exact hs.glide (.position s p d v)
  | jump p d => exact hs.glide (.jump s p d)
  | routeClear => exact hs.glide (.routeClear s)
  | programmeWrite p => exact hs.writeProgramme _ _
  | duckWrite =>
    refine Sound.drift (Drift.touch _ duckRec) (hs.of_parts (fun _ => id) rfl rfl rfl rfl rfl)
  | loudnessWrite =>
    refine Sound.drift (Drift.touch _ loudnessRec) (hs.of_parts (fun _ => id) rfl rfl rfl rfl rfl)
  | seatConfig p _ h1 h80 hh => exact hs.seatConfigure h1 h80 hh
  | layerWrite p l =>
    refine Sound.drift (Drift.touch _ (layerRec l)) (hs.same (fun _ => id) rfl rfl rfl rfl rfl)
  | tick ups =>
    refine hs.same (fun _ => id) rfl rfl rfl rfl ?_
    show (ups.foldl Store.upset s.store).scrub = s.store.scrub
    generalize s.store = st
    induction ups generalizing st with
    | nil => rfl
    | cons x ups ih =>
      refine (ih _).trans ?_
      cases x with
      | link => unfold Store.upset; dsimp only; split <;> rfl
      | map => unfold Store.upset; dsimp only; split <;> rfl
      | word => rfl
  | restart => exact hs.restartValues
  | powerOnReset => exact sound_reset.same (fun _ => id) rfl rfl rfl rfl rfl
  | _ => exact hs.same (fun _ => id) rfl rfl rfl rfl rfl

/-- Settles O58, turn by turn. -/
theorem everyStepKeepsTheInvariant : Obligations.EveryStepKeepsTheInvariant := by
  unfold Obligations.EveryStepKeepsTheInvariant
  intro s t h hs
  refine step_keeps (P := Sound) (fun u q hu => hu.same (fun _ => id) rfl rfl rfl rfl rfl) (fun i u v k => ?_) h hs
  exact (exec_turns k).lift (R := fun u v => Sound u → Sound v) (fun _ => id) (fun _ _ _ h k => k ∘ h) fun _ _ => Turn.sound

/-- Settles O60: the three invariants at the power-on values. -/
theorem resetMeetsTheInvariants : Obligations.ResetMeetsTheInvariants := ⟨sound_reset, settingsLegal_reset, tablesCanonical_reset⟩

end Sys2Proof.Machine
end

section
/-! SUPPORT. Numbers in bytes, argument tests (R191), and what the taking of a command comes to once its owning block's answer is known. -/

namespace Sys2Proof

/-! ## Numbers in bytes (chapter 11) -/

theorem byteOf_toNat (v : Nat) : (byteOf v).toNat = v % 256 := BitVec.toNat_ofNat v 8

theorem byteOf_toNat_of_lt {v : Nat} (h : v < 256) : (byteOf v).toNat = v := by rw [byteOf_toNat, Nat.mod_eq_of_lt h]

theorem byteOf_of_toNat (b : Byte) : byteOf b.toNat = b := BitVec.eq_of_toNat_eq (byteOf_toNat_of_lt b.isLt)

theorem byteOf_add_mul (b : Byte) (k : Nat) : byteOf (b.toNat + 256 * k) = b := by
  have hb := b.isLt
  exact BitVec.eq_of_toNat_eq (by rw [byteOf_toNat]; omega)

@[simp] theorem bytesLE_length (k v : Nat) : (bytesLE k v).length = k := by
  induction k generalizing v with
  | zero => rfl
  | succ k ih => rw [bytesLE, List.length_cons, ih]

theorem natLE_bytesLE {k v : Nat} (h : v < 256 ^ k) : natLE (bytesLE k v) = v := by
  induction k generalizing v with
  | zero => rw [pow_zero, Nat.lt_one_iff] at h; rw [h]; rfl
  | succ k ih =>
    rw [bytesLE, natLE, byteOf_toNat, ih (Nat.div_lt_of_lt_mul (by rwa [pow_succ, Nat.mul_comm] at h))]
    omega

theorem bytesLE_natLE (bs : List Byte) : bytesLE bs.length (natLE bs) = bs := by
  induction bs with
  | nil => rfl
  | cons b bs ih =>
    have hd : (b.toNat + 256 * natLE bs) / 256 = natLE bs := by
      have := b.isLt
      omega
    rw [List.length_cons, natLE, bytesLE, hd, ih, byteOf_add_mul]

theorem natLE_pair (a b : Byte) : natLE [a, b] = a.toNat + 256 * b.toNat := by simp [natLE]

end Sys2Proof

namespace Sys2Proof.Machine

variable {s t : State} {p : Port} {c : Command} {h : InHand} {body : List Byte → State → Answer} {bs : List Byte}

/-! ## Argument tests (R191) -/

theorem noArgs_nil (s : State) (k : State → Answer) : noArgs [] s k = k s := rfl

theorem noArgs_args (hb : bs ≠ []) (s : State) (k : State → Answer) : noArgs bs s k = s.answer .badArgument :=
  if_neg (by simpa using hb)

/-- R191: the payloads that name an index in one byte. -/
theorem oneByte_index {n : Nat} (hn : n ≤ 256) {i : Fin n} : (oneNumber 1 bs).bind (toIndex n) = some i ↔ bs = [byteOf i.val] := by
  have hi := i.isLt
  constructor
  · intro e
    obtain ⟨k, hk, hki⟩ := Option.bind_eq_some_iff.1 e
    unfold oneNumber at hk
    split at hk
    · next hl =>
      obtain ⟨b, rfl⟩ := List.length_eq_one_iff.1 hl
      cases hk
      have hv : b.toNat = i.val := by simpa [natLE] using toIndex_eq_some.1 hki
      rw [← hv, byteOf_of_toNat]
    · cases hk
  · rintro rfl
    have hv : natLE [byteOf i.val] = i.val := by simp only [natLE]; rw [byteOf_toNat_of_lt (by omega)]; omega
    show toIndex n (natLE [byteOf i.val]) = some i
    rw [hv, toIndex_val]

theorem withIndex_index {n : Nat} (hn : n ≤ 256) (i : Fin n) (s : State) (k : Fin n → State → Answer) :
    withIndex n [byteOf i.val] s k = k i s := by
  unfold withIndex
  rw [(oneByte_index hn).2 rfl]

theorem withIndex_bad {n : Nat} (hn : n ≤ 256) (hb : ∀ i : Fin n, bs ≠ [byteOf i.val]) (s : State) (k : Fin n → State → Answer) :
    withIndex n bs s k = s.answer .badArgument := by
  unfold withIndex
  split
  · next i hi => exact absurd ((oneByte_index hn).1 hi) (hb i)
  · rfl

theorem withWord_word (hb : bs.length = 2) (s : State) (k : Nat → State → Answer) : withWord bs s k = k (natLE bs) s := by
  unfold withWord oneNumber
  rw [if_pos hb]

theorem withWord_bad (hb : bs.length ≠ 2) (s : State) (k : Nat → State → Answer) : withWord bs s k = s.answer .badArgument := by
  unfold withWord oneNumber
  rw [if_neg hb]

/-! ## Taking (R180) -/

/-- A command that is no write, taken. -/
theorem State.take_read (hh : s.holds p c h) (hk : c.kind ≠ .write) (body : List Byte → State → Answer) :
    s.take p c body = State.respond p h.tag (body h.payload s) := by
  rw [State.take_of_holds hh, if_neg hk]

/-- A write, taken: the port's own reservation is first cleared. -/
theorem State.take_write (hh : s.holds p c h) (hk : c.kind = .write) (body : List Byte → State → Answer) :
    s.take p c body = State.respond p h.tag (body h.payload (s.dropResv p)) := by
  rw [State.take_of_holds hh, if_pos hk]

theorem State.take_read_ok (hh : s.holds p c h) (hk : c.kind ≠ .write) (hb : body h.payload s = t.ok bs) :
    s.take p c body = t.withReply p h .ok bs := by
  rw [State.take_read hh hk, hb, State.respond_ok]

theorem State.take_read_answer (hh : s.holds p c h) (hk : c.kind ≠ .write) {st : Status} (hb : body h.payload s = t.answer st) :
    s.take p c body = t.withReply p h st [] := by
  rw [State.take_read hh hk, hb, State.respond_answer]

theorem State.take_write_ok (hh : s.holds p c h) (hk : c.kind = .write) (hb : body h.payload (s.dropResv p) = t.ok bs) :
    s.take p c body = t.withReply p h .ok bs := by
  rw [State.take_write hh hk, hb, State.respond_ok]

theorem State.take_write_answer (hh : s.holds p c h) (hk : c.kind = .write) {st : Status}
    (hb : body h.payload (s.dropResv p) = t.answer st) : s.take p c body = t.withReply p h st [] := by
  rw [State.take_write hh hk, hb, State.respond_answer]

/-- A write refused: nothing but the port's own reservation and its slot has changed. -/
theorem State.take_refused (hh : s.holds p c h) (hk : c.kind = .write) {st : Status}
    (hb : body h.payload (s.dropResv p) = (s.dropResv p).answer st) : s.take p c body = s.refusedWrite p h st :=
  State.take_write_answer hh hk hb

/-- The outcome of an event whose answer met no parity failure. -/
theorem State.done_withReply (hn : t.store.noted = []) (p : Port) (h : InHand) (st : Status) (bs : List Byte) :
    (t.withReply p h st bs).done = .next (t.withReply p h st bs) := State.done_of_noted hn

/-- The outcome of a read with no argument. -/
theorem State.take_plain (hh : s.holds p c h) (hk : c.kind ≠ .write) (f : State → List Byte) :
    (h.payload = [] →
      (Host.Outcome.next (s.take p c fun bs s => noArgs bs s fun s => s.ok (f s)) : Out) = .next (s.withReply p h .ok (f s))) ∧
    (h.payload ≠ [] →
      (Host.Outcome.next (s.take p c fun bs s => noArgs bs s fun s => s.ok (f s)) : Out) = .next (s.withReply p h .badArgument [])) :=
  ⟨fun e => congrArg _ (State.take_read_ok hh hk (by rw [e, noArgs_nil])),
    fun e => congrArg _ (State.take_read_answer hh hk (noArgs_args e _ _))⟩

/-- The outcome of a read of the record at an index. -/
theorem State.take_record {n : Nat} (hn : n ≤ 256) (hh : s.holds p c h) (hk : c.kind ≠ .write) (f : State → Fin n → List Byte) :
    (∀ i : Fin n, h.payload = [byteOf i.val] →
      (Host.Outcome.next (s.take p c fun bs s => withIndex n bs s fun i s => s.ok (f s i)) : Out) = .next (s.withReply p h .ok (f s i))) ∧
    ((∀ i : Fin n, h.payload ≠ [byteOf i.val]) →
      (Host.Outcome.next (s.take p c fun bs s => withIndex n bs s fun i s => s.ok (f s i)) : Out) =
        .next (s.withReply p h .badArgument [])) :=
  ⟨fun i e => congrArg _ (State.take_read_ok hh hk (by rw [e, withIndex_index hn])),
    fun e => congrArg _ (State.take_read_answer hh hk (withIndex_bad hn e _ _))⟩

/-! ## What a reply leaves -/

theorem State.withReply_slot (s : State) (p : Port) (h : InHand) (st : Status) (bs : List Byte) :
    ((s.withReply p h st bs).ports.get p).slot = .ready ⟨h.tag, st, bs⟩ := by
  rw [State.withReply, State.onPort_ports, Tab.get_modify_self]

theorem State.withReply_port (s : State) (p : Port) (h : InHand) (st : Status) (bs : List Byte) (q : Port) :
    (s.withReply p h st bs).ports.get q =
      if p = q then { s.ports.get q with slot := .ready ⟨h.tag, st, bs⟩ } else s.ports.get q := by
  rw [State.withReply, State.onPort_ports, Tab.get_modify]

theorem State.withReply_other {q : Port} (hq : p ≠ q) (s : State) (h : InHand) (st : Status) (bs : List Byte) :
    (s.withReply p h st bs).ports.get q = s.ports.get q := by
  rw [State.withReply_port, if_neg hq]

theorem State.withReply_queue (s : State) (p : Port) (h : InHand) (st : Status) (bs : List Byte) (q : Port) :
    ((s.withReply p h st bs).ports.get q).queue = (s.ports.get q).queue := by
  rw [State.withReply_port]
  split <;> rfl

theorem State.withReply_resv (s : State) (p : Port) (h : InHand) (st : Status) (bs : List Byte) (q : Port) :
    ((s.withReply p h st bs).ports.get q).resv = (s.ports.get q).resv := by
  rw [State.withReply_port]
  split <;> rfl

end Sys2Proof.Machine
end

section
/-! SUPPORT. The commands that read, and those that store one record: what each answers and all that it changes. -/

namespace Sys2Proof

variable {α β : Type} {n : Nat}

theorem Tab.modify_modify (t : Tab α n) (i : Fin n) (f g : α → α) : (t.modify i f).modify i g = t.modify i fun x => g (f x) := by
  simp [Tab.modify]

/-- The indices of a table stand in ascending order. -/
theorem indices_pairwise : (indices n).Pairwise (· < ·) := by
  unfold indices
  rw [List.pairwise_ofFn]
  exact fun _ _ h => h

end Sys2Proof

namespace Sys2Proof.Machine

variable {s t : State} {p : Port} {c : Command} {h : InHand} {bs : List Byte}

theorem State.onPort_onPort (s : State) (p : Port) (f g : PortState → PortState) :
    (s.onPort p f).onPort p g = s.onPort p fun ps => g (f ps) := by
  unfold State.onPort
  rw [Tab.modify_modify]

/-! ## Reservations and the conditional test (chapter 8) -/

/-- R157, R159: the payloads that name a reservable record. -/
theorem recNameOf_eq_some {r : RecName} : recNameOf bs = some r ↔
    ∃ b i : Byte, bs = [b, i] ∧ recClassOf b.toNat = some r.cls ∧ i.toNat < recClassSize r.cls ∧ r.idx = i.toNat := by
  unfold recNameOf
  split
  · next b i =>
    constructor
    · intro e
      obtain ⟨cls, hc, he⟩ := Option.bind_eq_some_iff.1 e
      split at he
      · next hi => cases he; exact ⟨b, i, rfl, hc, hi, rfl⟩
      · cases he
    · rintro ⟨b', i', e, hc, hi, hx⟩
      obtain ⟨rfl, rfl⟩ : b = b' ∧ i = i' := by simpa using e
      obtain ⟨cls, idx⟩ := r
      simp only at hc hi hx
      subst hx
      simp [hc, hi]
  · next hne => exact ⟨nofun, fun ⟨b, i, e, _⟩ => absurd e (hne b i)⟩

/-- Settles O5. -/
theorem reserveAnswersTheRecord : Obligations.ReserveAnswersTheRecord := by
  unfold Obligations.ReserveAnswersTheRecord
  intro p s h hh
  have hk : Command.kind .reserve ≠ .write := nofun
  refine ⟨fun b i c hb hc hi => ?_, fun hn => ?_⟩
  · have hr : recNameOf h.payload = some ⟨c, i.toNat⟩ := recNameOf_eq_some.2 ⟨b, i, hb, hc, hi, rfl⟩
    refine congrArg Host.Outcome.next (State.take_read_ok hh hk ?_)
    unfold reserveBody
    rw [hr]
  · have hr : recNameOf h.payload = none := by
      refine Option.eq_none_iff_forall_ne_some.2 fun r hr => ?_
      obtain ⟨b, i, hb, hc, hi, -⟩ := recNameOf_eq_some.1 hr
      exact absurd (hn b i r.cls hb hc) (Nat.not_le.2 hi)
    refine congrArg Host.Outcome.next (State.take_read_answer hh hk ?_)
    unfold reserveBody
    rw [hr]

/-- R161: the outcome of a test that fails. -/
theorem State.conditionalTest_fails (hs : (s.ports.get p).slot = .inHand h) (hc : h.conditional = true) (ht : h.tested = false)
    (hf : s.testPasses p h = false) :
    s.conditionalTest p = s.onPort p fun ps => { ps with resv := none, slot := .ready ⟨h.tag, .reservationLost, []⟩ } := by
  unfold State.conditionalTest
  rw [hs]
  simp only [hc, ht, hf, Bool.not_false, Bool.and_self, if_true, Bool.false_eq_true, if_false]
  exact State.onPort_onPort ..

/-- R161: the outcome of a test that passes. -/
theorem State.conditionalTest_passes (hs : (s.ports.get p).slot = .inHand h) (hc : h.conditional = true) (ht : h.tested = false)
    (hf : s.testPasses p h = true) :
    s.conditionalTest p = s.onPort p fun ps => { ps with slot := .inHand { h with tested := true } } := by
  unfold State.conditionalTest
  rw [hs]
  simp only [hc, ht, hf, Bool.not_false, Bool.and_self, if_true]
  rfl

theorem State.testPasses_iff : s.testPasses p h = true ↔ ∃ r, s.targetOf h = some r ∧ (s.ports.get p).resv = some r := by
  unfold State.testPasses
  cases s.targetOf h with
  | none => simp
  | some r => simp

theorem State.testPasses_false (hl : ∀ r, s.targetOf h = some r → (s.ports.get p).resv ≠ some r) : s.testPasses p h = false :=
  Bool.eq_false_iff.2 fun e => let ⟨r, hr, hv⟩ := State.testPasses_iff.1 e; hl r hr hv

/-! ## Events (R183) -/

theorem eventMaskOf_three {b0 b1 b2 : Byte} :
    eventMaskOf [b0, b1, b2] = if b0.getLsbD 0 = false ∧ b2.toNat < 8 then some (b2 ++ b1 ++ b0) else none := by
  have hn : natLE [b0, b1, b2] = b0.toNat + 256 * b1.toNat + 65536 * b2.toNat := by simp only [natLE]; omega
  have h0 : b0.getLsbD 0 = decide (b0.toNat % 2 = 1) := by simp [BitVec.getLsbD, Nat.testBit_zero]
  have h0' := b0.isLt
  have h1' := b1.isLt
  have h2' := b2.isLt
  have hm : BitVec.ofNat 24 (natLE [b0, b1, b2]) = b2 ++ b1 ++ b0 := by
    refine BitVec.eq_of_toNat_eq ?_
    rw [BitVec.toNat_ofNat, hn, BitVec.toNat_append, BitVec.toNat_append, Nat.mod_eq_of_lt (by omega),
      ← Nat.shiftLeft_add_eq_or_of_lt h0', ← Nat.shiftLeft_add_eq_or_of_lt h1', Nat.shiftLeft_eq, Nat.shiftLeft_eq]
    omega
  have hc : (natLE [b0, b1, b2] % 2 = 0 ∧ natLE [b0, b1, b2] < 2 ^ 19) ↔ (b0.getLsbD 0 = false ∧ b2.toNat < 8) := by
    rw [h0, decide_eq_false_iff_not, hn]
    omega
  show (if natLE [b0, b1, b2] % 2 = 0 ∧ natLE [b0, b1, b2] < 2 ^ 19 then some (BitVec.ofNat 24 (natLE [b0, b1, b2])) else none) = _
  rw [hm]
  exact if_congr hc rfl rfl

theorem eventMaskOf_of_length (hb : bs.length ≠ 3) : eventMaskOf bs = none := by
  unfold eventMaskOf oneNumber
  rw [if_neg hb]
  rfl

theorem bytesLE_append_three (b0 b1 b2 : Byte) : bytesLE 3 (b2 ++ b1 ++ b0).toNat = [b0, b1, b2] := by
  have hn : (b2 ++ b1 ++ b0).toNat = natLE [b0, b1, b2] := by
    have h0' := b0.isLt
    have h1' := b1.isLt
    rw [BitVec.toNat_append, BitVec.toNat_append, ← Nat.shiftLeft_add_eq_or_of_lt h0', ← Nat.shiftLeft_add_eq_or_of_lt h1',
      Nat.shiftLeft_eq, Nat.shiftLeft_eq]
    simp only [natLE]
    omega
  rw [hn]
  exact bytesLE_natLE [b0, b1, b2]

/-- Settles O8. -/
theorem eventCommandsActOnTheirPort : Obligations.EventCommandsActOnTheirPort := by
  unfold Obligations.EventCommandsActOnTheirPort
  refine ⟨fun p s h hh => ⟨fun b hb h1 h16 => ?_, fun hb => ?_⟩, fun p s h hh => ⟨fun b0 b1 b2 hb h0 h2 => ?_, fun hb => ?_⟩⟩
  · have hn : oneNumber 1 h.payload = some b.toNat := by rw [hb]; simp [oneNumber, natLE]
    refine congrArg Host.Outcome.next (State.take_read_ok hh nofun ?_)
    unfold eventReadBody
    rw [hn]
    dsimp only
    rw [if_neg (by omega)]
  · refine congrArg Host.Outcome.next (State.take_read_answer hh nofun ?_)
    unfold eventReadBody oneNumber
    split
    · rfl
    · next n hn =>
      split at hn
      · next hl =>
        obtain ⟨b, hb'⟩ := List.length_eq_one_iff.1 hl
        cases hn
        have := hb b hb'
        rw [hb', if_pos (by simp only [natLE]; omega)]
      · cases hn
  · refine congrArg Host.Outcome.next (State.take_write_ok hh rfl ?_)
    unfold eventMaskBody
    rw [hb, eventMaskOf_three, if_pos ⟨h0, h2⟩]
    dsimp only
    rw [bytesLE_append_three]
  · have hm : eventMaskOf h.payload = none := by
      by_cases hl : h.payload.length = 3
      · obtain ⟨b0, b1, b2, e⟩ := List.length_eq_three.1 hl
        rw [e, eventMaskOf_three, if_neg]
        rintro ⟨h0, h2⟩
        rcases hb b0 b1 b2 e with k | k
        · rw [h0] at k; cases k
        · omega
      · exact eventMaskOf_of_length hl
    refine congrArg Host.Outcome.next (State.take_refused hh rfl ?_)
    unfold eventMaskBody
    rw [hm]

/-! ## Reads -/

/-- R10: a read of the Clip Store with good parity. -/
theorem State.searched_of_good (hg : s.parityGood) : s.onStore Store.searchMap = s := by
  unfold State.onStore
  rw [Store.searchMap_of_good hg.2.1]

/-- Settles O9. -/
theorem plainReadsAnswer : Obligations.PlainReadsAnswer := by
  unfold Obligations.PlainReadsAnswer
  refine ⟨fun p s h => ⟨fun hh => ?_, fun hh => State.take_plain hh nofun _, fun hh => State.take_plain hh nofun _,
    fun hh => State.take_plain hh nofun _, fun hh => State.take_plain hh nofun _, fun hh => State.take_plain hh nofun _, fun hh => ?_,
    fun hg hh => ?_⟩, fun p s h hh => ?_⟩
  · exact State.take_plain hh nofun (fun s => cursorBytes s.route.cursor)
  · have k := State.take_plain hh nofun fun s => reservationBytes (s.ports.get p).resv
    cases e : (s.ports.get p).resv with
    | none => simp only [e] at k ⊢; exact k
    | some r => simp only [e] at k ⊢; exact k
  · have hb : ∀ bs, noArgs bs s storeStatusBody = noArgs bs s fun s => s.ok s.store.statusBytes := fun bs => by
      unfold storeStatusBody noArgs
      dsimp only
      rw [State.searched_of_good hg]
    refine ⟨fun e => ?_, fun e => ?_⟩
    · show (State.take _ _ _ _).done = _
      rw [State.take_read_ok hh nofun (by rw [hb, e, noArgs_nil]), State.done_withReply hg.2.2]
    · show (State.take _ _ _ _).done = _
      rw [State.take_read_answer hh nofun (noArgs_args e _ _), State.done_withReply hg.2.2]
  · have e : s.identifyBytes = bytesLE 2 0x5A31 ++ bytesLE 2 3120 ++ bytesLE 1 1 ++ bytesLE 2 4096 ++ bytesLE 1 192 ++ bytesLE 2 3072 ++
        bytesLE 1 3 ++ bytesLE 1 64 ++ bytesLE 2 256 ++ bytesLE 1 13 ++ bytesLE 1 80 ++ bytesLE 1 48 ++ bytesLE 1 4 ++ bytesLE 1 3 ++
        bytesLE 1 16 ++ bytesLE 2 400 ++ bytesLE 4 s.ctl.time.toNat ++ [byteOf (opStateCode s.ctl.op)] := by
      simp [State.identifyBytes, identity]
    rw [← e]
    exact State.take_plain hh nofun State.identifyBytes

theorem Store.mem_entriesWhere {st : Store} {f : Entry → Bool} {n : EntryNo} {e : Entry} :
    (n, e) ∈ st.entriesWhere f ↔ st.map.get n = some e ∧ f e = true := by
  unfold Store.entriesWhere
  rw [List.mem_filterMap]
  constructor
  · rintro ⟨m, -, hm⟩
    obtain ⟨e', he, hx⟩ := Option.map_eq_some_iff.1 hm
    cases hx
    exact Option.filter_eq_some_iff.1 he
  · intro he
    exact ⟨n, mem_indices n, Option.map_eq_some_iff.2 ⟨e, Option.filter_eq_some_iff.2 he, rfl⟩⟩

/-- R10: the entries stand in ascending order. -/
theorem Store.entriesWhere_ascending (st : Store) (f : Entry → Bool) : ((st.entriesWhere f).map Prod.fst).Pairwise (· < ·) := by
  rw [List.pairwise_map]
  unfold Store.entriesWhere
  refine (List.pairwise_filterMap).2 (indices_pairwise.imp ?_)
  intro a b hab x hx y hy
  obtain ⟨_, -, rfl⟩ := Option.map_eq_some_iff.1 hx
  obtain ⟨_, -, rfl⟩ := Option.map_eq_some_iff.1 hy
  exact hab

/-- Settles O10. -/
theorem recordReadsAnswer : Obligations.RecordReadsAnswer := by
  unfold Obligations.RecordReadsAnswer
  refine ⟨fun p s h => ⟨fun hh => State.take_record (n := 64) (by decide) hh nofun (fun s i => stopBytes i (s.route.stops.get i)),
    fun hh => State.take_record (n := 256) (by decide) hh nofun (fun s i => segmentBytes i (s.route.segments.get i)),
    fun hh => State.take_record (n := 4) (by decide) hh nofun (fun s i => layerBytes i (s.light.layers.get i)),
    fun hh => State.take_record (n := 13) (by decide) hh nofun State.programmeReadBytes,
    fun hh => State.take_record (n := 80) (by decide) hh nofun (fun s i => seatBytes (s.seat.seats.get i)),
    fun hh => State.take_record (n := 6) (by decide) hh nofun State.faultReadBytes⟩, fun p s h => ⟨fun hh => ⟨fun i hi hb => ?_, fun hb => ?_⟩,
    fun hg hh => ⟨fun b0 b1 hb => ?_, fun hb => ?_⟩⟩⟩
  · refine congrArg Host.Outcome.next (State.take_read_ok hh nofun ?_)
    rw [hb, withIndex_index (by decide)]
    unfold commentaryReadBody
    rw [if_neg hi]
    rfl
  · refine congrArg Host.Outcome.next (State.take_read_answer hh nofun ?_)
    by_cases h0 : h.payload = [byteOf 0]
    · rw [h0]
      exact withIndex_index (n := 13) (by decide) 0 s commentaryReadBody
    · refine withIndex_bad (by decide) (fun i => ?_) s commentaryReadBody
      by_cases hi : i = 0
      · rw [hi]; exact h0
      · exact hb i hi
  · refine ⟨s.store.entriesWhere fun e => e.clip == natLE [b0, b1], ?_, Store.entriesWhere_ascending _ _, fun n e => ?_⟩
    · show (State.take _ _ _ _).done = _
      rw [State.take_read_ok (t := s) (bs := s.store.queryBytes (natLE [b0, b1])) hh nofun, State.done_withReply hg.2.2]
      · rfl
      · rw [hb, withWord_word rfl]
        unfold clipQueryBody
        rw [State.searched_of_good hg]
    · rw [Store.mem_entriesWhere, beq_iff_eq, natLE_pair]
  · show (State.take _ _ _ _).done = _
    rw [State.take_read_answer hh nofun (withWord_bad hb s clipQueryBody), State.done_withReply hg.2.2]

end Sys2Proof.Machine
end

section
/-! SUPPORT. The commands that store settings (R103, R104, R137, R141, R174 to R176), the microphone periods, power-on and the tick. -/

namespace Sys2Proof.Machine

variable {s t : State} {p : Port} {c : Command} {h : InHand} {bs : List Byte}

/-- A refused write whose event cannot meet a parity failure. -/
theorem State.next_refused (hh : s.holds p c h) (hk : c.kind = .write) {st : Status} {body : List Byte → State → Answer}
    (hb : body h.payload (s.dropResv p) = (s.dropResv p).answer st) :
    (Host.Outcome.next (s.take p c body) : Out) = .next (s.refusedWrite p h st) := congrArg _ (State.take_refused hh hk hb)

/-- An accepted write whose event cannot meet a parity failure. -/
theorem State.next_ok (hh : s.holds p c h) (hk : c.kind = .write) {body : List Byte → State → Answer}
    (hb : body h.payload (s.dropResv p) = t.ok bs) :
    (Host.Outcome.next (s.take p c body) : Out) = .next (t.withReply p h .ok bs) := congrArg _ (State.take_write_ok hh hk hb)

theorem State.next_answer (hh : s.holds p c h) (hk : c.kind = .write) {st : Status} {body : List Byte → State → Answer}
    (hb : body h.payload (s.dropResv p) = t.answer st) :
    (Host.Outcome.next (s.take p c body) : Out) = .next (t.withReply p h st []) := congrArg _ (State.take_write_answer hh hk hb)

/-! ## Microphones (R96) -/

theorem State.micPeriod_missing (s : State) (c : Channel) :
    s.micPeriod c none =
      if (s.ann.live.get c).isSome && !s.ann.lost.get c then
        ((s.onAnn fun a => { a with frames := a.frames.set c none }).fileFault .liveInputLost (channelCode c) 0).onAnn fun a =>
          { a with lost := a.lost.set c true }
      else s.onAnn fun a => { a with frames := a.frames.set c none } := rfl

/-- Settles O37. -/
theorem micPeriodsDeliverFrames : Obligations.MicPeriodsDeliverFrames := by
  unfold Obligations.MicPeriodsDeliverFrames
  refine fun c s => ⟨fun frame => rfl, fun hq => ?_, fun hl hf => ?_⟩
  · refine congrArg Host.Outcome.next ((s.micPeriod_missing c).trans (if_neg ?_))
    rcases hq with e | e <;> simp [e]
  · refine congrArg Host.Outcome.next ((s.micPeriod_missing c).trans (if_pos ?_))
    simp [Option.isSome_iff_ne_none.2 hl, hf]

/-! ## Mixer settings (R102 to R104) -/

/-- Settles O39. -/
theorem mixSettingsAreStored : Obligations.MixSettingsAreStored := by
  unfold Obligations.MixSettingsAreStored
  refine fun p s h => ⟨fun hh => ⟨fun hb => ?_, fun x hx => ?_⟩, fun hh => ⟨fun hb => ?_, fun x hx => ?_⟩, fun hh => ⟨fun hb => ?_, fun i hb => ?_⟩⟩
  · refine State.next_refused hh rfl ?_
    unfold duckWriteBody
    rw [hb]
  · refine State.next_ok hh rfl ?_
    unfold duckWriteBody
    rw [hx]
    rfl
  · refine State.next_refused hh rfl ?_
    unfold loudnessWriteBody
    rw [hb]
  · refine State.next_ok hh rfl ?_
    unfold loudnessWriteBody
    rw [hx]
    rfl
  · exact State.next_refused hh rfl (withIndex_bad (by decide) hb _ mixCountClearBody)
  · refine State.next_ok hh rfl ?_
    rw [hb, withIndex_index (by decide)]
    rfl

/-! ## Light settings (R137, R141) -/

theorem layerLegal_iff {k : Nat} {x : Layer} :
    layerLegal k x = true ↔ k ≤ 3 ∧ 1 ≤ x.cells.length ∧ x.cells.length ≤ 96 ∧ x.offset ≤ 95 := by
  simp only [layerLegal, Bool.and_eq_true, decide_eq_true_eq, and_assoc]

/-- R137: a payload that carries a legal layer, and any other. -/
theorem layerWriteBody_legal {k : LayerNo} {x : Layer} (hb : layerOf bs = some (k.val, x)) (hl : layerLegal k.val x = true) (s : State) :
    layerWriteBody bs s = ((s.touch (layerRec k)).onLight fun g => { g with layers := g.layers.set k x }).ok (layerBytes k x) := by
  have hf : ((layerOf bs).filter fun y => layerLegal y.1 y.2) = some (k.val, x) := Option.filter_eq_some_iff.2 ⟨hb, hl⟩
  unfold layerWriteBody
  rw [hf]
  dsimp only
  rw [toIndex_val]
  rfl

theorem layerWriteBody_illegal (hb : ∀ k x, layerOf bs = some (k, x) → ¬layerLegal k x = true) (s : State) :
    layerWriteBody bs s = s.answer .badArgument := by
  have e : (layerOf bs).filter (fun y => layerLegal y.1 y.2) = none :=
    Option.filter_eq_none_iff.2 fun y hy => hb y.1 y.2 hy
  unfold layerWriteBody
  rw [e]

/-- R141: a light setting. -/
theorem lightSetBody_seven (d fr fg fb kr kg kb : Byte) (s : State) :
    lightSetBody [d, fr, fg, fb, kr, kg, kb] s = (s.onLight fun g => { g with
      dim := d.toNat, floorC := ⟨fr.toNat, fg.toNat, fb.toNat⟩, fallback := ⟨kr.toNat, kg.toNat, kb.toNat⟩ }).ok
        [d, fr, fg, fb, kr, kg, kb] := by
  unfold lightSetBody Light.settingsBytes colourBytes
  simp only [State.onLight_light, byteOf_of_toNat, List.cons_append, List.nil_append]

theorem lightSetBody_of_length (hb : bs.length ≠ 7) (s : State) : lightSetBody bs s = s.answer .badArgument := by
  unfold lightSetBody
  split
  · exact absurd rfl hb
  · rfl

/-- Settles O46. -/
theorem lightSettingsAreStored : Obligations.LightSettingsAreStored := by
  unfold Obligations.LightSettingsAreStored
  refine fun p s h => ⟨fun hh => ⟨fun hb => ?_, fun k x hb h1 h96 ho => ?_⟩, fun hh => ⟨fun hb => ?_, fun d fr fg fb kr kg kb hb => ?_⟩⟩
  · exact State.next_refused hh rfl (layerWriteBody_illegal (fun k x e hl => hb k x e (layerLegal_iff.1 hl)) _)
  · exact State.next_ok hh rfl (layerWriteBody_legal hb (layerLegal_iff.2 ⟨by omega, h1, h96, ho⟩) _)
  · exact State.next_refused hh rfl (lightSetBody_of_length hb _)
  · rw [hb]
    refine State.next_ok hh rfl ?_
    rw [hb, lightSetBody_seven]

/-! ## The fault commands (R174 to R176) -/

theorem faultEnableBody_of_length (hb : bs.length ≠ 2) (s : State) : faultEnableBody bs s = s.answer .badArgument := by
  unfold faultEnableBody
  split
  · exact absurd rfl hb
  · rfl

/-- R175: a mask for a bank. -/
theorem faultEnableBody_bank {b m : Byte} {i : Fin 6} (hi : i.val = b.toNat) (s : State) :
    faultEnableBody [b, m] s = if m.toNat < 2 ^ bankSize i then (s.onBank i fun x => { x with mask := m }).ok [m]
      else s.answer .badArgument := by
  unfold faultEnableBody
  dsimp only
  rw [← hi, toIndex_val]

theorem faultEnableBody_noBank {b m : Byte} (hb : 5 < b.toNat) (s : State) : faultEnableBody [b, m] s = s.answer .badArgument := by
  unfold faultEnableBody
  dsimp only
  rw [toIndex_eq_none.2 hb]

theorem State.dropResv_faults (s : State) (p : Port) : (s.dropResv p).faults = s.faults := rfl

/-- R176. -/
theorem faultResumeBody_eq (s : State) : faultResumeBody s =
    if s.faults.pending then (s.onFaults fun f => { f with pending := false }).answer .ok else s.answer .notPending := rfl

/-- R160: a command that names no record fails its test. -/
theorem State.testPasses_of_no_target (ht : s.targetOf h = none) : s.testPasses p h = false :=
  State.testPasses_false fun r hr => by rw [ht] at hr; cases hr

/-- Settles O52. -/
theorem faultCommandsActOnTheRecorder : Obligations.FaultCommandsActOnTheRecorder := by
  unfold Obligations.FaultCommandsActOnTheRecorder
  refine fun p s h => ⟨fun hh => ⟨fun hb => ?_, fun i hb => ?_⟩, fun hh => ⟨fun hb => ?_, fun b m hb => ⟨fun h5 => ?_, fun i hi => ⟨fun hm => ?_, fun hm => ?_⟩⟩⟩,
    fun hh => ⟨fun hb => ?_, fun hb hf => ?_, fun hb hf => ?_⟩, fun hs hc ht hk => ?_⟩
  · exact State.next_refused hh rfl (withIndex_bad (by decide) hb _ faultClearBody)
  · refine State.next_ok hh rfl ?_
    rw [hb, withIndex_index (by decide)]
    rfl
  · exact State.next_refused hh rfl (faultEnableBody_of_length hb _)
  · exact State.next_refused hh rfl (hb ▸ faultEnableBody_noBank h5 _)
  · exact State.next_refused hh rfl (hb ▸ (faultEnableBody_bank hi _).trans (if_neg (Nat.not_lt.2 hm)))
  · exact State.next_ok hh rfl (hb ▸ (faultEnableBody_bank hi _).trans (if_pos hm))
  · exact State.next_refused hh rfl (noArgs_args hb _ _)
  · refine State.next_refused hh rfl ?_
    rw [hb, noArgs_nil, faultResumeBody_eq, State.dropResv_faults, hf]
    rfl
  · refine State.next_answer hh rfl ?_
    rw [hb, noArgs_nil, faultResumeBody_eq, State.dropResv_faults, hf]
    rfl
  · have hn : s.targetOf h = none := by
      unfold State.targetOf
      rcases hk with e | e | e <;> rw [e]
    exact congrArg Host.Outcome.next (State.conditionalTest_fails hs hc ht (State.testPasses_of_no_target hn))

/-! ## Power-on and the time base (R181, R189) -/

theorem allPages_val : allPages.map (·.val) = List.range 4096 := by
  have key : ∀ l : List Nat, (∀ k ∈ l, k < 4096) → (l.filterMap (toIndex 4096)).map (·.val) = l := by
    intro l
    induction l with
    | nil => exact fun _ => rfl
    | cons k l ih =>
      intro hl
      have hk : toIndex 4096 k = some ⟨k, hl k List.mem_cons_self⟩ := dif_pos _
      rw [List.filterMap_cons_some hk, List.map_cons, ih fun x hx => hl x (List.mem_cons_of_mem _ hx)]
  unfold allPages
  rw [key _ fun k hk => by simp at hk; omega, List.range_eq_range']

theorem bankMasks_reset (b : Fin 6) : (State.reset.faults.banks.get b).record = none ∧
    ∀ k, k < bankSize b → (State.reset.faults.banks.get b).mask.getLsbD k = true := by
  decide +revert

theorem State.upsets_frame (s : State) (ups : List Upset) :
    (s.tick ups).ctl.time = s.ctl.time + 1 ∧ { s.tick ups with ctl := s.ctl, store := s.store } = s := ⟨rfl, rfl⟩

/-- Settles O56. -/
theorem powerOnAndTheTimeBase : Obligations.PowerOnAndTheTimeBase := by
  unfold Obligations.PowerOnAndTheTimeBase
  refine ⟨fun s hl => ?_, fun s hl => ?_, ?_, fun s => ⟨rfl, fun ht => ⟨_, rfl, ?_⟩, fun ups => ⟨_, rfl, s.upsets_frame ups⟩⟩⟩
  · rw [exec_powerOnReset, State.poweredOn_lineAfterReset, hl]
    unfold State.poweredOn
    rw [hl]
    rfl
  · refine ⟨_, exec_powerOnReset s, ?_⟩
    rw [State.poweredOn_lineAfterReset, hl, if_pos rfl, State.seatStandby_rest]
    exact ⟨rfl, rfl, rfl, rfl, rfl, rfl, rfl, rfl, rfl⟩
  · refine ⟨rfl, rfl, rfl, rfl, fun i => Tab.get_fill _ i, fun i => Tab.get_fill _ i, fun n => Tab.get_fill _ n, allPages_val, fun q => rfl,
      fun p => Tab.get_fill _ p, rfl, rfl, rfl, rfl, rfl, fun p => ?_, fun i => ?_, rfl, rfl, rfl, rfl, rfl,
      fun b k hk => (bankMasks_reset b).2 k hk, fun b => (bankMasks_reset b).1, fun p => ?_⟩
    · have e : State.reset.mix.progs.get p = ProgRec.reset p := Tab.get_ofFn _ p
      rw [e]
      exact ⟨rfl, rfl, rfl, rfl⟩
    · have e : State.reset.seat.seats.get i = ⟨.unknown, 0, 0, false, 0⟩ := Tab.get_fill _ i
      rw [e]
    · have e : State.reset.ports.get p = PortState.reset := Tab.get_fill _ p
      rw [e]
      exact ⟨rfl, rfl, rfl⟩
  · show s.ctl.time + 1 = 0
    rw [ht]
    rfl

end Sys2Proof.Machine
end

section
/-! SUPPORT. The commands that write a route record or the seat table (R40, R49, R120): what each stores, and how it is refused. -/

namespace Sys2Proof.Machine

variable {s t : State} {p : Port} {c : Command} {h : InHand} {bs : List Byte}

/-! ## Records written by a command -/

theorem State.touch_touch (s : State) (r : RecName) : (s.touch r).touch r = s.touch r :=
  State.touch_of_unreserved fun q => by
    rw [State.touch, State.onPorts_ports, Tab.get_map]
    split
    · nofun
    · next hr => exact hr

theorem State.touch_unreserved (s : State) (r : RecName) (q : Port) : ((s.touch r).ports.get q).resv ≠ some r := by
  rw [State.touch, State.onPorts_ports, Tab.get_map]
  split
  · nofun
  · next hr => exact hr

/-- R162: a segment stored by a command that has cleared the reservations on it. -/
theorem State.setSegment_touched (s : State) (i : SegNo) (x : Option Segment) :
    (s.touch (segmentRec i)).setSegment i x = (s.touch (segmentRec i)).onRoute fun r => { r with segments := r.segments.set i x } := by
  unfold State.setSegment
  split
  · next e => simp only [e, State.onRoute, Tab.set_get]
  · exact (s.onRoute fun r => { r with segments := r.segments.set i x }).touch_touch _

theorem QuietMove.rest (m : QuietMove s t) : { t with route := s.route, ports := s.ports } = s := by rw [m.frame]

/-! ## SEGMENT-WRITE and SEGMENT-REMOVE (R49) -/

theorem langsLegal_iff {l : List (Nat × Nat)} :
    langsLegal l = true ↔ (∀ y ∈ l, 1 ≤ y.1 ∧ y.1 ≤ 63 ∧ y.2 ≠ 0) ∧ (l.map Prod.fst).Nodup := by
  simp only [langsLegal, Bool.and_eq_true, decide_eq_true_eq, List.all_eq_true, bne_iff_ne, and_assoc]

theorem segmentLegal_iff {x : Segment} : segmentLegal x = true ↔ x.t ≤ 262143 ∧ x.late ≤ 2000 ∧ x.priority ≤ 3 ∧ 1 ≤ x.langs.length ∧
    (∀ y ∈ x.langs, 1 ≤ y.1 ∧ y.1 ≤ 63 ∧ y.2 ≠ 0) ∧ (x.langs.map Prod.fst).Nodup := by
  simp only [segmentLegal, Bool.and_eq_true, decide_eq_true_eq, langsLegal_iff, and_assoc]
  rfl

theorem segmentWriteBody_illegal (hb : ∀ k x, segmentOf bs = some (k, x) → ¬segmentLegal x = true) (s : State) :
    segmentWriteBody bs s = s.answer .badArgument := by
  have e : (segmentOf bs).filter (fun y => segmentLegal y.2) = none := Option.filter_eq_none_iff.2 fun y hy => hb y.1 y.2 hy
  unfold segmentWriteBody
  rw [e]

theorem segmentWriteBody_legal {i : SegNo} {x : Segment} (hb : segmentOf bs = some (i.val, x)) (hl : segmentLegal x = true) (s : State) :
    segmentWriteBody bs s = if (s.route.segments.get i).map (·.state) = some .triggered then s.answer .inUse
      else (s.writeSegment i x).answer .ok := by
  have e : (segmentOf bs).filter (fun y => segmentLegal y.2) = some (i.val, x) := Option.filter_eq_some_iff.2 ⟨hb, hl⟩
  unfold segmentWriteBody
  rw [e]
  dsimp only
  rw [toIndex_val]

/-- R49: AHEAD of the coach, or not: the state that a record takes when it is written. -/
theorem State.writeSegment_eq (s : State) (i : SegNo) (x : Segment) : s.writeSegment i x =
    (s.touch (segmentRec i)).onRoute fun r => { r with segments := r.segments.set i (some { x with
      state := if s.route.cursor.set = false ∨ s.route.cursor.distance < x.t then .armed else .missed, outstanding := 0, played := 0 }) } := by
  unfold State.writeSegment
  dsimp only
  rw [State.setSegment_touched]
  simp only [Bool.or_eq_true, Bool.not_eq_true', decide_eq_true_eq]

theorem segmentRemoveBody_stored {i : SegNo} (hn : s.route.segments.get i ≠ none)
    (ht : (s.route.segments.get i).map (·.state) ≠ some .triggered) : segmentRemoveBody i s =
      ((s.touch (segmentRec i)).onRoute fun r => { r with segments := r.segments.set i none }).answer .ok := by
  obtain ⟨x, hx⟩ := Option.ne_none_iff_exists'.1 hn
  rw [hx] at ht
  unfold segmentRemoveBody State.setSegment
  rw [hx]
  dsimp only
  rw [if_neg fun e => ht (congrArg some e), if_neg nofun]
  rfl

theorem segmentRemoveBody_triggered {i : SegNo} (ht : (s.route.segments.get i).map (·.state) = some .triggered) :
    segmentRemoveBody i s = s.answer .inUse := by
  obtain ⟨x, hx, hs⟩ := Option.map_eq_some_iff.1 ht
  unfold segmentRemoveBody
  rw [hx]
  exact if_pos hs

/-- Settles O31. -/
theorem segmentsAreWrittenAndRemoved : Obligations.SegmentsAreWrittenAndRemoved := by
  unfold Obligations.SegmentsAreWrittenAndRemoved
  intro p s h legal triggered put
  have htr : ∀ i, triggered i ↔ (s.route.segments.get i).map (·.state) = some .triggered := fun i => Option.map_eq_some_iff.symm
  refine ⟨fun hh => ⟨fun hb => ?_, fun i x hb hl => ⟨fun ht => ?_, fun ht => ?_⟩⟩,
    fun hh => ⟨fun hb => ?_, fun i hb => ⟨fun hn => ?_, fun ht => ?_, fun hn ht => ?_⟩⟩⟩
  · exact State.next_refused hh rfl (segmentWriteBody_illegal (fun k x e hl => hb k x e (segmentLegal_iff.1 hl)) _)
  · exact State.next_refused hh rfl ((segmentWriteBody_legal hb (segmentLegal_iff.2 hl) _).trans (if_pos ((htr i).1 ht)))
  · refine State.next_answer hh rfl ((segmentWriteBody_legal hb (segmentLegal_iff.2 hl) _).trans ((if_neg fun e => ht ((htr i).2 e)).trans ?_))
    rw [State.writeSegment_eq]
    rfl
  · exact State.next_refused hh rfl (withIndex_bad (by decide) (fun i e => hb (by rw [e]; rfl)) _ segmentRemoveBody)
  · refine State.next_refused hh rfl ?_
    rw [hb, withIndex_index (by decide)]
    unfold segmentRemoveBody
    rw [show (s.dropResv p).route.segments.get i = none from hn]
  · refine State.next_refused hh rfl ?_
    rw [hb, withIndex_index (by decide)]
    exact segmentRemoveBody_triggered (s := s.dropResv p) ((htr i).1 ht)
  · refine State.next_answer hh rfl ?_
    rw [hb, withIndex_index (by decide)]
    exact segmentRemoveBody_stored (s := s.dropResv p) hn (mt (htr i).2 ht)

/-! ## STOP-WRITE (R40) -/

theorem stopLegal_iff {i : Nat} {x : Stop} : stopLegal i x = true ↔ i ≤ 63 ∧ x.a < x.b ∧ x.b ≤ 262143 ∧ 1 ≤ x.langs.length ∧
    (∀ y ∈ x.langs, 1 ≤ y.1 ∧ y.1 ≤ 63 ∧ y.2 ≠ 0) ∧ (x.langs.map Prod.fst).Nodup ∧
    1 ≤ x.pa.length ∧ x.pa.length ≤ 3 ∧ ∀ c ∈ x.pa, c ≠ 0 := by
  simp only [stopLegal, paLegal, Bool.and_eq_true, decide_eq_true_eq, langsLegal_iff, List.all_eq_true, bne_iff_ne, and_assoc]
  rfl

/-- R40 test 3. -/
theorem Route.outOfOrder_iff {r : Route} {i : StopNo} {a : Nat} :
    r.outOfOrder i a = true ↔ ∃ j y, r.stops.get j = some y ∧ (j < i ∧ a ≤ y.a ∨ i < j ∧ y.a ≤ a) := by
  unfold Route.outOfOrder
  rw [List.any_eq_true]
  constructor
  · rintro ⟨j, -, hj⟩
    split at hj
    · next y hy =>
      refine ⟨j, y, hy, ?_⟩
      simpa only [Bool.or_eq_true, Bool.and_eq_true, decide_eq_true_eq] using hj
    · cases hj
  · rintro ⟨j, y, hy, hj⟩
    refine ⟨j, mem_indices j, ?_⟩
    rw [hy]
    simpa only [Bool.or_eq_true, Bool.and_eq_true, decide_eq_true_eq] using hj

theorem stopWriteBody_illegal (hb : ∀ k x, stopOf bs = some (k, x) → ¬stopLegal k x = true) (s : State) :
    stopWriteBody bs s = s.answer .badArgument := by
  have e : (stopOf bs).filter (fun y => stopLegal y.1 y.2) = none := Option.filter_eq_none_iff.2 fun y hy => hb y.1 y.2 hy
  unfold stopWriteBody
  rw [e]

theorem stopWriteBody_legal {i : StopNo} {x : Stop} (hb : stopOf bs = some (i.val, x)) (hl : stopLegal i.val x = true) (s : State) :
    stopWriteBody bs s = if (s.route.stops.get i).map (·.state) = some .approaching then s.answer .inUse
      else if s.route.outOfOrder i x.a = true then s.answer .order else (s.writeStop i x).answer .ok := by
  have e : (stopOf bs).filter (fun y => stopLegal y.1 y.2) = some (i.val, x) := Option.filter_eq_some_iff.2 ⟨hb, hl⟩
  unfold stopWriteBody
  rw [e]
  dsimp only
  rw [toIndex_val]

/-- R40: the record as STOP-WRITE stores it. -/
def Stop.written (c : Cursor) (x : Stop) : Stop :=
  { x with request := false, state := if c.set = false ∨ c.distance < x.b then .ahead else .passed }

theorem State.writeStop_eq (s : State) (i : StopNo) (x : Stop) :
    s.writeStop i x = ((s.touch (stopRec i)).setStop i (some (x.written s.route.cursor))).recomputeNext := by
  unfold State.writeStop Stop.written
  simp only [Bool.or_eq_true, Bool.not_eq_true', decide_eq_true_eq]

theorem QuietMove.writeStop (s : State) (i : StopNo) (x : Stop) : QuietMove s (s.writeStop i x) := by
  rw [State.writeStop_eq]
  exact (QuietMove.touch _ _).trans ((QuietMove.setStop _ _ _).trans (QuietMove.setCursor _ _))

theorem State.writeStop_unreserved (s : State) (i : StopNo) (x : Stop) (q : Port) : ((s.writeStop i x).ports.get q).resv ≠ some (stopRec i) := by
  rw [State.writeStop_eq]
  exact fun e => (s.touch_unreserved (stopRec i) q) (((Drift.recomputeNext _).ports q).resv_of e |> ((Drift.setStop _ _ _).ports q).resv_of)

theorem State.writeStop_route (s : State) (i : StopNo) (x : Stop) : (s.writeStop i x).route =
    let stops := s.route.stops.set i (some (x.written s.route.cursor))
    { s.route with stops := stops, cursor := { s.route.cursor with nextStop := { s.route with stops := stops }.firstOpenStop } } := by
  rw [State.writeStop_eq, State.recomputeNext_route, State.setStop_route]
  rfl

/-- Settles O29. -/
theorem stopWriteStoresTheStop : Obligations.StopWriteStoresTheStop := by
  unfold Obligations.StopWriteStoresTheStop
  intro p s h hh legal
  refine ⟨fun hb => ?_, fun i x hb hl => ?_⟩
  · exact State.next_refused hh rfl (stopWriteBody_illegal (fun k x e hl => hb k x e (stopLegal_iff.1 hl)) _)
  · have body := stopWriteBody_legal hb (stopLegal_iff.2 hl) (s.dropResv p)
    intro approaching order
    have hap : approaching ↔ (s.route.stops.get i).map (·.state) = some .approaching := Option.map_eq_some_iff.symm
    have hord : order ↔ s.route.outOfOrder i x.a = true := Route.outOfOrder_iff.symm
    refine ⟨fun ha => ?_, fun ha ho => ?_, fun ha ho => ?_⟩
    · exact State.next_refused hh rfl (body.trans (if_pos (hap.1 ha)))
    · exact State.next_refused hh rfl (body.trans ((if_neg (mt hap.2 ha)).trans (if_pos (hord.1 ho))))
    · have hr := (s.dropResv p).writeStop_route i x
      have hm : QuietMove s (((s.dropResv p).writeStop i x).withReply p h .ok []) :=
        (QuietMove.dropResv s p).trans ((QuietMove.writeStop _ i x).trans (QuietMove.withReply _ p h _ _))
      refine ⟨_, State.next_answer hh rfl (body.trans ((if_neg (mt hap.2 ha)).trans (if_neg (mt hord.2 ho)))), congrArg Route.stops hr,
        (congrArg Route.segments hr :), (congrArg Route.cursor hr).trans ?_, State.withReply_slot _ _ _ _ _, fun q => ⟨?_, hm.queue q⟩, hm.rest⟩
      · show _ = { s.route.cursor with nextStop := ((s.dropResv p).writeStop i x).route.firstOpenStop }
        rw [hr]
        rfl
      · rw [State.withReply_resv]
        exact State.writeStop_unreserved _ _ _ _

/-! ## SEAT-CONFIG (R120) -/

theorem Seat.configure_beyond {n : Nat} {time : Count32} {i : SeatNo} {x : Seat} (hi : n ≤ i.val) :
    (x.configure n time i).state = .disabled ∧ (x.state ≠ .disabled → x.configure n time i = ⟨.disabled, 0, 0, false, time⟩) := by
  unfold Seat.configure
  simp only [if_pos hi]
  by_cases hd : x.state = .disabled
  · simp [hd]
  · simp [hd, Ne.symm hd]

theorem Seat.configure_within {n : Nat} {time : Count32} {i : SeatNo} {x : Seat} (hi : i.val < n) :
    x.configure n time i = if x.state = .disabled then ⟨.unknown, 0, 0, false, time⟩ else x := by
  unfold Seat.configure
  simp only [if_neg (Nat.not_le.2 hi)]
  by_cases hd : x.state = .disabled
  · simp [hd]
  · simp [hd]

theorem State.expireHold_occ (s : State) (p : Prog) : (s.expireHold p).seat.occ = s.seat.occ := rfl

theorem State.expireDue_occ (s : State) : s.expireDue.seat.occ = s.seat.occ := by
  unfold State.expireDue
  generalize langProgs = l
  induction l generalizing s with
  | nil => rfl
  | cons q l ih =>
    rw [List.foldl_cons, ih]
    split
    · exact s.expireHold_occ q
    · rfl

/-- R126: a LINK-BREAK is a filing, and no more. -/
theorem State.linkBreakTest_rest (s : State) (b : Bool) :
    s.linkBreakTest b = { s with faults := (s.linkBreakTest b).faults, ports := (s.linkBreakTest b).ports } := by
  unfold State.linkBreakTest
  split
  · exact State.fileFault_noncritical rfl _ _
  · rfl

/-- R120: what SEAT-CONFIG makes of the seat table and the hub. -/
theorem State.seatConfigure_seat (s : State) (n holdoff : Nat) :
    let t := s.seatConfigure n holdoff
    let k := s.seat.reconfigured n holdoff s.ctl.time
    t.seat.seats = k.seats ∧ t.seat.count = n ∧ t.seat.holdoff = holdoff ∧ t.seat.pointer = k.pointer ∧
      (∀ q, q ≠ 0 → t.seat.occ.get q = t.seat.count127 q) ∧ { t with seat := s.seat, ports := s.ports, faults := s.faults } = s := by
  have hr : SeatMove (s.seatTableSet n holdoff) (s.seatTableSet n holdoff).recount := .recount _
  have he := hr.trans (.expireDue _)
  have hl := ((s.seatTableSet n holdoff).recount.expireDue).linkBreakTest_rest s.seat.broken
  rw [← State.seatConfigure_eq] at hl
  have hocc : ∀ q, q ≠ 0 → ((s.seatTableSet n holdoff).recount.expireDue).seat.occ.get q =
      ((s.seatTableSet n holdoff).recount.expireDue).seat.count127 q := fun q hq => by
    rw [State.expireDue_occ, State.recount_counted _ hq, (SeatMove.expireDue _).count127]
  intro t
  change t = _ at hl
  generalize t = v at hl ⊢
  generalize (s.seatTableSet n holdoff).recount.expireDue = u at hl he hocc
  have hseat : v.seat = u.seat := by rw [hl]
  refine ⟨?_, ?_, ?_, ?_, ?_, ?_⟩
  · rw [hseat, he.seats]; rfl
  · rw [hseat, he.count]; rfl
  · rw [hseat, he.holdoff]; rfl
  · rw [hseat, he.pointer]; rfl
  · rwa [hseat]
  · rw [hl, he.rest]; rfl

theorem seatConfigBody_of_length (hb : bs.length ≠ 3) (s : State) : seatConfigBody bs s = s.answer .badArgument := by
  unfold seatConfigBody
  split
  · exact absurd rfl hb
  · rfl

theorem seatConfigBody_zero (h0 h1 : Byte) (s : State) : seatConfigBody [0, h0, h1] s = s.answer .badArgument := by
  have hz : (0 : Byte).toNat = 0 := rfl
  unfold seatConfigBody
  dsimp only
  rw [if_pos hz]

theorem seatConfigBody_count {c : Byte} (hc : c ≠ 0) (h0 h1 : Byte) (s : State) : seatConfigBody [c, h0, h1] s =
    (s.seatConfigure (min 80 c.toNat) (min 60000 (natLE [h0, h1]))).ok
      (seatConfigBytes (s.seatConfigure (min 80 c.toNat) (min 60000 (natLE [h0, h1]))).seat) := by
  have hn : ¬c.toNat = 0 := fun e => hc (BitVec.eq_of_toNat_eq (by rw [e]; rfl))
  unfold seatConfigBody
  dsimp only
  rw [if_neg hn]

/-- Settles O43. -/
theorem seatConfigSetsTheTable : Obligations.SeatConfigSetsTheTable := by
  unfold Obligations.SeatConfigSetsTheTable
  refine fun p s h hh => ⟨fun hb => ?_, fun c h0 h1 hb => ⟨fun hc => ?_, fun hc => ?_⟩⟩
  · exact State.next_refused hh rfl (seatConfigBody_of_length hb _)
  · exact State.next_refused hh rfl (by rw [hb, hc]; exact seatConfigBody_zero _ _ _)
  · refine ⟨_, State.next_ok hh rfl (hb ▸ seatConfigBody_count hc h0 h1 (s.dropResv p)), ?_⟩
    generalize hn : min 80 c.toNat = n
    generalize hho : min 60000 (natLE [h0, h1]) = holdoff
    obtain ⟨hseats, hcount, hhold, hptr, hocc, hrest⟩ := (s.dropResv p).seatConfigure_seat n holdoff
    have hget : ∀ i, ((s.dropResv p).seatConfigure n holdoff).seat.seats.get i = (s.seat.seats.get i).configure n s.ctl.time i := fun i => by
      rw [hseats]; exact Tab.get_ofFn _ i
    have hun := fun q => ((Drift.seatConfigure (s.dropResv p) n holdoff).ports q).resv_of (r := seatConfigRec)
    generalize (s.dropResv p).seatConfigure n holdoff = t at *
    refine ⟨hcount, hhold, ?_, ?_, fun q e => ?_, fun i => ⟨fun hi => ?_, fun hi hd => ?_, fun hi hd => ?_⟩, hocc, ?_⟩
    · show t.seat.pointer = if s.seat.pointer < t.seat.count then s.seat.pointer else 0
      rw [hptr, hcount, ← ite_not]
      simp only [Nat.not_lt]
      rfl
    · exact State.withReply_slot _ _ _ _ _
    · rw [State.withReply_resv] at e
      exact State.touch_unreserved _ _ q (hun q e)
    · show (t.seat.seats.get i).state = _ ∧ (_ → t.seat.seats.get i = _)
      rw [hget]
      exact Seat.configure_beyond (hcount ▸ hi)
    · show t.seat.seats.get i = _
      rw [hget, Seat.configure_within (hcount ▸ hi), if_pos hd]
    · show t.seat.seats.get i = _
      rw [hget, Seat.configure_within (hcount ▸ hi), if_neg hd]
    · exact congrArg (fun u : State => { u with ports := s.ports }) hrest

end Sys2Proof.Machine
end

section
/-! SUPPORT. Frames and transactions (R178, R179, R190): what the checks make of a frame, what is taken, and what is clocked out. -/

namespace Sys2Proof

/-! ## Command codes (section 11.2) -/

theorem commandOfCode_code (c : Command) : commandOfCode c.code = some c := by cases c <;> rfl

theorem Command.code_lt (c : Command) : c.code < 128 := by cases c <;> decide

theorem commandOfCode_none {k : Nat} (h : ∀ c : Command, c.code ≠ k) : commandOfCode k = none :=
  List.find?_eq_none.2 fun c _ => by simpa using h c

/-- R160: the code byte carries the command's code and the CONDITIONAL flag. -/
theorem codeByte_toNat (c : Command) (cond : Bool) :
    (byteOf (c.code + if cond then 128 else 0)).toNat = c.code + if cond then 128 else 0 := by
  have := c.code_lt
  exact byteOf_toNat_of_lt (by split <;> omega)

theorem codeByte_code (c : Command) (cond : Bool) : (byteOf (c.code + if cond then 128 else 0)).toNat % 128 = c.code := by
  have := c.code_lt
  rw [codeByte_toNat]
  split <;> omega

theorem codeByte_flag (c : Command) (cond : Bool) : (byteOf (c.code + if cond then 128 else 0)).msb = cond := by
  have := c.code_lt
  rw [BitVec.msb_eq_decide, codeByte_toNat]
  cases cond
  · exact decide_eq_false (by simp; omega)
  · exact decide_eq_true (by simp)

/-! ## The checks of a frame (R179) -/

theorem natLE_length {n : Nat} (h : n ≤ 400) : natLE [byteOf n, byteOf (n / 256)] = n :=
  natLE_bytesLE (k := 2) (by omega)

/-- R179: checks 2 and 3 on a frame of the layout of section 11.1. -/
theorem checkBody_layout (tag code : Byte) {payload crc : List Byte} (extra : List Byte) (hp : payload.length ≤ 400) (hc : crc.length = 2) :
    checkBody (tag :: code :: (bytesLE 2 payload.length ++ payload ++ crc ++ extra)) =
      if crc = crcField (tag :: code :: (bytesLE 2 payload.length ++ payload)) then checkCode tag code payload else .bad .crc tag := by
  have htake : (payload ++ crc ++ extra).take payload.length = payload := by simp
  have hcrc : ((payload ++ crc ++ extra).drop payload.length).take 2 = crc := by
    rw [List.append_assoc, List.drop_left, ← hc, List.take_left]
  have hlen : ¬(payload.length > 400 ∨ (payload ++ crc ++ extra).length < payload.length + 2) := by
    simp only [List.length_append, hc]
    omega
  show checkBody (tag :: code :: byteOf payload.length :: byteOf (payload.length / 256) :: ([] ++ payload ++ crc ++ extra)) = _
  rw [List.nil_append, checkBody]
  simp only [natLE_length hp, hlen, htake, hcrc, if_false, ite_not]
  rfl

theorem crcField_length (bs : List Byte) : (crcField bs).length = 2 := bytesLE_length _ _

theorem encodeFrame_append (tag : Byte) (c : Command) (cond : Bool) (payload extra : List Byte) :
    encodeFrame tag c cond payload ++ extra =
      let code := byteOf (c.code + if cond then 128 else 0)
      0xA5#8 :: tag :: code :: (bytesLE 2 payload.length ++ payload ++ crcField (tag :: code :: (bytesLE 2 payload.length ++ payload)) ++ extra) := by
  simp [encodeFrame]

theorem checkFrame_cons (b : Byte) (rest : List Byte) : checkFrame (b :: rest) =
    if b = 0xFF#8 then .poll else if b = 0xA5#8 then checkBody rest else .bad .sync (rest.headD 0) := rfl

theorem checkFrame_sync (rest : List Byte) : checkFrame (0xA5#8 :: rest) = checkBody rest := by
  rw [checkFrame_cons, if_neg (by decide), if_pos rfl]

theorem checkFrame_idle (rest : List Byte) : checkFrame (0xFF#8 :: rest) = .poll := by
  rw [checkFrame_cons, if_pos rfl]

theorem checkFrame_noSync {b : Byte} (hf : b ≠ 0xFF#8) (ha : b ≠ 0xA5#8) (rest : List Byte) :
    checkFrame (b :: rest) = .bad .sync (rest.headD 0) := (if_neg hf).trans (if_neg ha)

/-- R179: a frame laid out by the manual comes to checks 4 and 5. -/
theorem checkFrame_layout (tag code : Byte) {payload : List Byte} (extra : List Byte) (hp : payload.length ≤ 400) :
    checkFrame (0xA5#8 :: tag :: code :: (bytesLE 2 payload.length ++ payload ++
      crcField (tag :: code :: (bytesLE 2 payload.length ++ payload)) ++ extra)) = checkCode tag code payload := by
  rw [checkFrame_sync, checkBody_layout _ _ _ hp (crcField_length _), if_pos rfl]

/-- R179: checks 4 and 5 on a command's code byte. -/
theorem checkCode_codeByte (tag : Byte) (c : Command) (cond : Bool) (payload : List Byte) :
    checkCode tag (byteOf (c.code + if cond then 128 else 0)) payload =
      if cond = true ∧ c.kind ≠ .write then .badFlag tag else .taken tag c cond payload := by
  unfold checkCode
  rw [codeByte_code, commandOfCode_code, codeByte_flag]
  simp

theorem checkFrame_encodeFrame (tag : Byte) (c : Command) (cond : Bool) {payload : List Byte} (extra : List Byte) (hp : payload.length ≤ 400) :
    checkFrame (encodeFrame tag c cond payload ++ extra) =
      if cond = true ∧ c.kind ≠ .write then .badFlag tag else .taken tag c cond payload := by
  rw [encodeFrame_append, checkFrame_layout _ _ _ hp, checkCode_codeByte]

theorem checkCode_unknown {tag code : Byte} (h : ∀ c : Command, c.code ≠ code.toNat % 128) (payload : List Byte) :
    checkCode tag code payload = .unknown tag := by
  unfold checkCode
  rw [commandOfCode_none h]

/-- R179, R190: a frame of fewer than five bytes. -/
theorem checkBody_short {rest : List Byte} (h : rest.length < 4) : checkBody rest = .bad .length (rest.headD 0) := by
  match rest, h with
  | [], _ => rfl
  | [_], _ => rfl
  | [_, _], _ => rfl
  | [_, _, _], _ => rfl

theorem checkBody_length {lo hi : Byte} {rest : List Byte}
    (h : 400 < lo.toNat + 256 * hi.toNat ∨ rest.length < lo.toNat + 256 * hi.toNat + 2) (tag code : Byte) :
    checkBody (tag :: code :: lo :: hi :: rest) = .bad .length tag := by
  rw [checkBody, natLE_pair]
  exact if_pos h

theorem encodeFrame_length (tag : Byte) (c : Command) (cond : Bool) (payload extra : List Byte) :
    (encodeFrame tag c cond payload ++ extra).length = payload.length + extra.length + 7 := by
  simp [encodeFrame, crcField]
  omega

end Sys2Proof

namespace Sys2Proof.Machine

variable {s : State} {p : Port} {h : InHand}

/-! ## What arrives (R178, R179) -/

theorem State.setResp_setResp (s : State) (p : Port) (x y : RespSlot) : (s.setResp p x).setResp p y = s.setResp p y :=
  State.onPort_onPort ..

/-- R178, R179: a transaction on a port with no command in hand: the response has been delivered, and the bytes are checked. -/
def State.taken (p : Port) : FrameCheck → State → State
  | .poll, s => s.setResp p .empty
  | .bad e tag, s => s.badFrame p e tag
  | .unknown tag, s => s.reply p tag .unknownCommand
  | .badFlag tag, s => s.reply p tag .badArgument
  | .taken tag c cond payload, s => s.setResp p (.inHand ⟨tag, c, cond, false, payload⟩)

theorem State.arrive_eq (s : State) (p : Port) (bytes : List Byte) : s.arrive p bytes = s.taken p (checkFrame bytes) := by
  unfold State.arrive State.taken
  cases checkFrame bytes with
  | poll => rfl
  | bad e tag => exact congrArg (fun t => State.fileFault .badFrame p.val e.code t) (s.setResp_setResp p _ _)
  | unknown tag => exact s.setResp_setResp p _ _
  | badFlag tag => exact s.setResp_setResp p _ _
  | taken tag c cond payload => exact s.setResp_setResp p _ _

theorem exec_transaction (hs : ∀ h, (s.ports.get p).slot ≠ .inHand h) (bytes : List Byte) :
    exec (.transaction p bytes) s = .next ((s.clock p bytes.length).taken p (checkFrame bytes)) := by
  show Host.Outcome.next (s.transact p bytes) = _
  unfold State.transact
  split
  · next h e => exact absurd e (hs h)
  · rw [State.arrive_eq]

/-- The same with the number of bytes and the outcome of the checks as they were found. -/
theorem exec_transaction_of (hs : ∀ h, (s.ports.get p).slot ≠ .inHand h) {bytes : List Byte} {n : Nat} {x : FrameCheck}
    (hn : bytes.length = n) (hx : checkFrame bytes = x) : exec (.transaction p bytes) s = .next ((s.clock p n).taken p x) := by
  rw [exec_transaction hs, hn, hx]

/-- Settles O2. -/
theorem framesReadBackAndDamageIsRefused : Obligations.FramesReadBackAndDamageIsRefused := by
  unfold Obligations.FramesReadBackAndDamageIsRefused
  refine ⟨fun tag c cond payload extra hp hc => ?_, fun p s hs => ⟨fun b rest hf ha => ?_, fun rest hr => ?_, fun tag code lo hi rest hr => ?_,
    fun tag code payload crc extra hp hl hc => ?_, fun tag code payload extra hp hc => ?_, fun tag c payload extra hp hk => ?_⟩⟩
  · rw [checkFrame_encodeFrame _ _ _ _ hp, if_neg fun e => e.2 (hc e.1)]
  · exact exec_transaction_of hs rfl (checkFrame_noSync hf ha rest)
  · exact exec_transaction_of hs rfl ((checkFrame_sync rest).trans (checkBody_short hr))
  · exact exec_transaction_of hs rfl ((checkFrame_sync _).trans (checkBody_length hr tag code))
  · refine exec_transaction_of hs ?_ ((checkFrame_sync _).trans ((checkBody_layout tag code extra hp hl).trans (if_neg hc)))
    simp
    omega
  · refine exec_transaction_of hs ?_ ((checkFrame_layout tag code extra hp).trans (checkCode_unknown hc payload))
    simp [crcField]
    omega
  · exact exec_transaction_of hs (encodeFrame_length ..) ((checkFrame_encodeFrame tag c true extra hp).trans (if_pos ⟨rfl, hk⟩))

/-! ## What is clocked out (R178) -/

theorem clockOut_length (x : RespSlot) (n seq : Nat) : (clockOut x n seq).length = n := by
  unfold clockOut
  split
  · exact List.length_replicate
  · simp
    omega

/-- R178: as far as the response reaches, its bytes are clocked out. -/
theorem clockOut_getElem? {x : RespSlot} {l : List Byte} (hx : x.bytes = some l) {n k : Nat} (hk : k < n) (hl : k < l.length) (seq : Nat) :
    (clockOut x n seq)[k]? = l[k]? := by
  unfold clockOut
  rw [hx]
  dsimp only
  rw [List.getElem?_append_left (by rw [List.length_take]; omega), List.getElem?_take_of_lt hk]

theorem State.clock_dout (s : State) (p : Port) (n : Nat) :
    ((s.clock p n).ports.get p).dout = clockOut (s.ports.get p).slot n s.fillSeq := by
  show ((s.onPort p _).ports.get p).dout = _
  rw [State.onPort_ports, Tab.get_modify_self]

/-- Settles O3. -/
theorem transactionsFollowTheSlot : Obligations.TransactionsFollowTheSlot := by
  unfold Obligations.TransactionsFollowTheSlot
  refine ⟨fun p s => ⟨fun hs => ⟨fun tag c cond payload extra hp hc => ?_, fun rest => ?_⟩, fun h hs bytes => ?_⟩,
    fun p n s => ⟨⟨_, _, clockOut_length .., rfl⟩, fun he => ?_, fun r hr k hk hl => ?_, fun h hh k hk hl => ?_⟩⟩
  · exact exec_transaction_of hs (encodeFrame_length ..) ((checkFrame_encodeFrame tag c cond extra hp).trans (if_neg fun e => e.2 (hc e.1)))
  · exact exec_transaction_of hs rfl (checkFrame_idle rest)
  · show Host.Outcome.next (s.transact p bytes) = _
    unfold State.transact
    rw [hs]
  · rw [State.clock_dout, he]
    rfl
  · rw [State.clock_dout, hr]
    exact clockOut_getElem? rfl hk hl _
  · have h7 : (responseBytes ⟨h.tag, .inHand, []⟩).length = 7 := by simp [responseBytes, crcField]
    rw [State.clock_dout, hh]
    exact clockOut_getElem? rfl hk (h7 ▸ hl) _

/-! ## The conditional test (R160, R161, R164) -/

theorem namedRec_segment (b : Byte) (rest : List Byte) : namedRec .segment (b :: rest) = some ⟨.segment, b.toNat⟩ :=
  if_pos b.isLt

/-- R160: the writes that name no record. -/
theorem State.targetOf_none (hk : h.command.kind = .write) (hm : h.command ∉ [Command.position, .jump, .routeClear, .stopWrite, .stopRemove,
    .stopSkip, .stopRequest, .segmentWrite, .segmentRemove, .programmeWrite, .duckWrite, .loudnessWrite, .layerWrite, .seatConfig])
    (s : State) : s.targetOf h = none := by
  unfold State.targetOf
  revert hk hm
  cases h.command <;> first | exact fun _ _ => rfl | exact fun _ hm => absurd (by decide) hm

/-- Settles O4. -/
theorem conditionalWritesAreTested : Obligations.ConditionalWritesAreTested := by
  unfold Obligations.ConditionalWritesAreTested
  refine ⟨fun s h => ⟨?_, ?_, fun hc => ?_, ?_, fun hc b rest hb => ?_, fun hc => ?_, fun hc => ?_, fun hc b rest hb => ?_, fun hc => ?_,
    fun hk hm => State.targetOf_none hk hm s⟩, fun p s h hs hc ht => ⟨fun r hr hv => ?_, fun hl => ?_⟩, fun p s h hs hc ht hn hl => ?_⟩
  · rintro (hc | hc | hc) <;> unfold State.targetOf <;> rw [hc] <;> rfl
  · rintro (hc | hc | hc) b rest hb <;> unfold State.targetOf <;> rw [hc, hb] <;> rfl
  · unfold State.targetOf
    rw [hc]
    cases s.route.cursor.nextStop <;> rfl
  · rintro (hc | hc) b rest hb <;> unfold State.targetOf <;> rw [hc, hb] <;> exact namedRec_segment b rest
  · unfold State.targetOf
    rw [hc, hb]
    rfl
  · unfold State.targetOf
    rw [hc]
    rfl
  · unfold State.targetOf
    rw [hc]
    rfl
  · unfold State.targetOf
    rw [hc, hb]
    rfl
  · unfold State.targetOf
    rw [hc]
    rfl
  · exact congrArg Host.Outcome.next (State.conditionalTest_passes hs hc ht (State.testPasses_iff.2 ⟨r, hr, hv⟩))
  · exact congrArg Host.Outcome.next (State.conditionalTest_fails hs hc ht (State.testPasses_false hl))
  · have lost {c : Command} (e : h.command = c) (hk : c.kind = .write) (body : List Byte → State → Answer) : s.take p c body =
        s.onPort p fun ps => { ps with resv := none, slot := .ready ⟨h.tag, .reservationLost, []⟩ } :=
      (State.take_of_lost hs e hk hc ht (State.testPasses_false hl) body).trans (State.onPort_onPort ..)
    have next {c : Command} (e : h.command = c) (hk : c.kind = .write) (body : List Byte → State → Answer) :
        (Host.Outcome.next (s.take p c body) : Out) = .next (s.onPort p fun ps =>
          { ps with resv := none, slot := .ready ⟨h.tag, .reservationLost, []⟩ }) := congrArg _ (lost e hk body)
    have done {c : Command} (e : h.command = c) (hk : c.kind = .write) (body : List Byte → State → Answer) :
        (s.take p c body).done = .next (s.onPort p fun ps =>
          { ps with resv := none, slot := .ready ⟨h.tag, .reservationLost, []⟩ }) := by
      rw [lost e hk body]
      exact State.done_of_noted hn
    exact ⟨fun e => done e rfl _, fun e => done e rfl _, fun e => done e rfl _, fun e => next e rfl _, fun e => done e rfl _,
      fun e => done e rfl _, fun e => done e rfl _, fun e => next e rfl _, fun e => next e rfl _, fun e => done e rfl _,
      fun e => next e rfl _, fun e => next e rfl _, fun e => next e rfl _, fun e => next e rfl _⟩

end Sys2Proof.Machine
end

section
/-! SUPPORT. The layouts of the records (sections 11.3 and 11.4): each part is read back, and then each record. -/

namespace Sys2Proof.Machine

variable {bs rest : List Byte}

/-! ## Parts of a record -/

theorem takeNumber_bytesLE {k v : Nat} (h : v < 256 ^ k) : takeNumber k (bytesLE k v ++ rest) = some (v, rest) := by
  have ht : (bytesLE k v ++ rest).take k = bytesLE k v := List.take_left' (bytesLE_length k v)
  have hd : (bytesLE k v ++ rest).drop k = rest := List.drop_left' (bytesLE_length k v)
  unfold takeNumber
  rw [if_neg (by rw [List.length_append, bytesLE_length]; omega), ht, hd, natLE_bytesLE h]

theorem takeNumber_byteOf {v : Nat} (h : v < 256) : takeNumber 1 (byteOf v :: rest) = some (v, rest) :=
  takeNumber_bytesLE (k := 1) (by omega)

theorem takeCount_byteOf {n limit : Nat} (h : n ≤ limit) (hl : limit < 256) : takeCount limit (byteOf n :: rest) = some (n, rest) := by
  unfold takeCount
  dsimp only
  rw [byteOf_toNat_of_lt (by omega), if_pos h]

theorem natLE_word {n : Nat} (h : n < 65536) : natLE [byteOf n, byteOf (n / 256)] = n := natLE_bytesLE (k := 2) h

/-- A language list is read back. -/
theorem takePairs_flatMap {l : List (Nat × Nat)} (h : ∀ x ∈ l, x.1 < 256 ∧ x.2 < 65536) :
    takePairs l.length ((l.flatMap fun x => byteOf x.1 :: bytesLE 2 x.2) ++ rest) = some (l, rest) := by
  induction l with
  | nil => rfl
  | cons x l ih =>
    obtain ⟨h1, h2⟩ := h x List.mem_cons_self
    show (takePairs l.length ((l.flatMap fun x => byteOf x.1 :: bytesLE 2 x.2) ++ rest)).map (fun r =>
      (((byteOf x.1).toNat, natLE [byteOf x.2, byteOf (x.2 / 256)]) :: r.1, r.2)) = _
    rw [ih fun y hy => h y (List.mem_cons_of_mem _ hy), byteOf_toNat_of_lt h1, natLE_word h2]
    rfl

/-- A list of clip IDs is read back. -/
theorem takeClips_flatMap {l : List Nat} (h : ∀ x ∈ l, x < 65536) : takeClips l.length (l.flatMap (bytesLE 2) ++ rest) = some (l, rest) := by
  induction l with
  | nil => rfl
  | cons x l ih =>
    show (takeClips l.length (l.flatMap (bytesLE 2) ++ rest)).map (fun r => (natLE [byteOf x, byteOf (x / 256)] :: r.1, r.2)) = _
    rw [ih fun y hy => h y (List.mem_cons_of_mem _ hy), natLE_word (h x List.mem_cons_self)]
    rfl

/-- A list of cells is read back. -/
theorem takeCells_flatMap {l : List Cell} (h : ∀ c ∈ l, ∀ x, c = some x → x.r < 256 ∧ x.g < 256 ∧ x.b < 256) :
    takeCells l.length (l.flatMap cellBytes ++ rest) = some (l, rest) := by
  induction l with
  | nil => rfl
  | cons c l ih =>
    have ih := ih fun y hy => h y (List.mem_cons_of_mem _ hy)
    cases c with
    | none =>
      show (takeCells l.length (l.flatMap cellBytes ++ rest)).map (fun r => (none :: r.1, r.2)) = _
      rw [ih]
      rfl
    | some x =>
      obtain ⟨hr, hg, hb⟩ := h _ List.mem_cons_self x rfl
      show (takeCells l.length (l.flatMap cellBytes ++ rest)).map (fun r =>
        (some ⟨(byteOf x.r).toNat, (byteOf x.g).toNat, (byteOf x.b).toNat⟩ :: r.1, r.2)) = _
      rw [ih, byteOf_toNat_of_lt hr, byteOf_toNat_of_lt hg, byteOf_toNat_of_lt hb]
      rfl

/-- A clip ID field that is no clip ID 0 is read back, 0 standing for none. -/
theorem clipOpt_clipNum {o : Option Nat} (h : o ≠ some 0) : clipOpt (clipNum o) = o := by
  cases o with
  | none => rfl
  | some n => exact if_neg fun e => h (congrArg some e)

theorem clipNum_lt {o : Option Nat} (h : ∀ n, o = some n → n < 65536) : clipNum o < 256 ^ 2 := by
  cases o with
  | none => exact Nat.two_pow_pos 16
  | some n => exact h n rfl

theorem flagCode_lt (b : Bool) : flagCode b < 2 := by cases b <;> decide

theorem flagCode_beq (b : Bool) : (flagCode b == 1) = b := by cases b <;> rfl

theorem boolOf_flagByte (b : Bool) : boolOf (flagByte b) = some b := by cases b <;> rfl

theorem scaleOf_scaleCode (x : Scale) : scaleOf (byteOf (scaleCode x)).toNat = some x := by cases x <;> rfl

theorem combineOf_combineCode (x : Combine) : combineOf (byteOf (combineCode x)).toNat = some x := by cases x <;> rfl

/-! ## Records -/

theorem bind_of_eq {α β : Type} {o : Option α} {a : α} (h : o = some a) (k : α → Option β) : (o >>= k) = k a := by
  rw [h]
  rfl

/-- A record's payload of a write: what a read answers, less the bytes that no write carries. -/
theorem written_of_read {w w' tail tail' : List Byte} (h : w' ++ tail' = w ++ tail) (hl : tail'.length = tail.length) : w = w' :=
  (List.append_inj_left' h hl).symm

/-- STOP-WRITE's payload of a record. -/
def stopWritten (i : StopNo) (x : Stop) : List Byte :=
  byteOf i.val :: (bytesLE 4 x.a ++ (bytesLE 4 x.b ++ (byteOf (flagCode x.requestOnly + 2 * flagCode x.arrivalCall) ::
    (byteOf x.langs.length :: ((x.langs.flatMap fun x => byteOf x.1 :: bytesLE 2 x.2) ++ (bytesLE 2 (clipNum x.dflt) ++
      (byteOf x.pa.length :: (x.pa.flatMap (bytesLE 2) ++ (bytesLE 2 (clipNum x.chime) ++ (bytesLE 2 (clipNum x.cue) ++ []))))))))))

theorem stopBytes_some (i : StopNo) (x : Stop) :
    stopBytes i (some x) = stopWritten i x ++ [flagByte x.request, byteOf (stopStateCode x.state)] := by
  simp [stopBytes, stopWritten, langsBytes]

theorem stopOf_stopWritten {i : StopNo} {x : Stop} (ha : x.a < 256 ^ 4) (hb : x.b < 256 ^ 4) (hn : x.langs.length ≤ 12)
    (hl : ∀ y ∈ x.langs, y.1 < 256 ∧ y.2 < 65536) (hd : x.dflt ≠ some 0) (hd' : ∀ n, x.dflt = some n → n < 65536)
    (hk : x.pa.length ≤ 3) (hp : ∀ c ∈ x.pa, c < 65536) (hc : x.chime ≠ some 0) (hc' : ∀ n, x.chime = some n → n < 65536)
    (hq : x.cue ≠ some 0) (hq' : ∀ n, x.cue = some n → n < 65536) :
    stopOf (stopWritten i x) = some (i.val, { x with request := false, state := .ahead }) := by
  have hi := i.isLt
  have hf : flagCode x.requestOnly + 2 * flagCode x.arrivalCall < 4 := by have := flagCode_lt x.requestOnly; have := flagCode_lt x.arrivalCall; omega
  have hr : ((flagCode x.requestOnly + 2 * flagCode x.arrivalCall) % 2 == 1) = x.requestOnly := by
    cases x.requestOnly <;> cases x.arrivalCall <;> rfl
  have hv : ((flagCode x.requestOnly + 2 * flagCode x.arrivalCall) / 2 == 1) = x.arrivalCall := by
    cases x.requestOnly <;> cases x.arrivalCall <;> rfl
  calc stopOf (stopWritten i x) = _ := bind_of_eq (takeNumber_byteOf (by omega)) _
    _ = _ := bind_of_eq (takeNumber_bytesLE ha) _
    _ = _ := bind_of_eq (takeNumber_bytesLE hb) _
    _ = _ := bind_of_eq (takeNumber_byteOf (by omega)) _
    _ = _ := bind_of_eq (takeCount_byteOf hn (by decide)) _
    _ = _ := bind_of_eq (takePairs_flatMap hl) _
    _ = _ := bind_of_eq (takeNumber_bytesLE (clipNum_lt hd')) _
    _ = _ := bind_of_eq (takeCount_byteOf hk (by decide)) _
    _ = _ := bind_of_eq (takeClips_flatMap hp) _
    _ = _ := bind_of_eq (takeNumber_bytesLE (clipNum_lt hc')) _
    _ = _ := bind_of_eq (takeNumber_bytesLE (clipNum_lt hq')) _
    _ = some (i.val, { x with request := false, state := .ahead }) := by
      dsimp only
      rw [if_pos ⟨List.isEmpty_nil, hf⟩, hr, hv, clipOpt_clipNum hd, clipOpt_clipNum hc, clipOpt_clipNum hq]

/-- SEGMENT-WRITE's payload of a record. -/
def segmentWritten (i : SegNo) (x : Segment) : List Byte :=
  byteOf i.val :: (bytesLE 4 x.t ++ (bytesLE 2 x.late ++ (byteOf x.priority :: (byteOf (flagCode x.hold) :: (byteOf x.langs.length ::
    ((x.langs.flatMap fun x => byteOf x.1 :: bytesLE 2 x.2) ++ (bytesLE 2 (clipNum x.cue) ++ [])))))))

theorem segmentBytes_some (i : SegNo) (x : Segment) :
    segmentBytes i (some x) = segmentWritten i x ++ [byteOf (segStateCode x.state), byteOf x.outstanding, byteOf x.played] := by
  simp [segmentBytes, segmentWritten, langsBytes, flagByte]

theorem segmentOf_segmentWritten {i : SegNo} {x : Segment} (ht : x.t < 256 ^ 4) (hl : x.late < 256 ^ 2) (hp : x.priority < 256)
    (hn : x.langs.length ≤ 12) (hg : ∀ y ∈ x.langs, y.1 < 256 ∧ y.2 < 65536) (hq : x.cue ≠ some 0) (hq' : ∀ n, x.cue = some n → n < 65536) :
    segmentOf (segmentWritten i x) = some (i.val, { x with state := .armed, outstanding := 0, played := 0 }) := by
  have hf := flagCode_lt x.hold
  calc segmentOf (segmentWritten i x) = _ := bind_of_eq (takeNumber_byteOf i.isLt) _
    _ = _ := bind_of_eq (takeNumber_bytesLE ht) _
    _ = _ := bind_of_eq (takeNumber_bytesLE hl) _
    _ = _ := bind_of_eq (takeNumber_byteOf hp) _
    _ = _ := bind_of_eq (takeNumber_byteOf (by omega)) _
    _ = _ := bind_of_eq (takeCount_byteOf hn (by decide)) _
    _ = _ := bind_of_eq (takePairs_flatMap hg) _
    _ = _ := bind_of_eq (takeNumber_bytesLE (clipNum_lt hq')) _
    _ = some (i.val, { x with state := .armed, outstanding := 0, played := 0 }) := by
      dsimp only
      rw [if_pos ⟨List.isEmpty_nil, hf⟩, flagCode_beq, clipOpt_clipNum hq]

theorem programmeBytes_eq (q : Prog) (x : ProgRec) : programmeBytes q x =
    byteOf q.val :: byteOf (flagCode x.on) :: byteOf x.lang :: (bytesLE 2 x.gains.commentary ++ (bytesLE 2 x.gains.announce ++
      (bytesLE 2 x.gains.live ++ (bytesLE 2 x.gains.bed ++ (bytesLE 2 x.master ++ (byteOf (flagCode x.guide) ::
        (bytesLE 2 (clipNum x.bed) ++ [byteOf x.mirror]))))))) := by
  simp [programmeBytes, Quad.toList, flagByte]

theorem programmeOf_programmeBytes {q : Prog} {x : ProgRec} (hl : x.lang < 256) (hg : ∀ v, x.gains.get v < 256 ^ 2) (hm : x.master < 256 ^ 2)
    (hb : x.bed ≠ some 0) (hb' : ∀ n, x.bed = some n → n < 65536) (hr : x.mirror < 256) :
    programmeOf (programmeBytes q x) = some (q.val, x) := by
  have hq := q.isLt
  have ho := flagCode_lt x.on
  have hu := flagCode_lt x.guide
  rw [programmeBytes_eq]
  calc programmeOf _ = _ := bind_of_eq (takeNumber_byteOf (v := q.val) (by omega)) _
    _ = _ := bind_of_eq (takeNumber_byteOf (by omega)) _
    _ = _ := bind_of_eq (takeNumber_byteOf hl) _
    _ = _ := bind_of_eq (takeNumber_bytesLE (hg .commentary)) _
    _ = _ := bind_of_eq (takeNumber_bytesLE (hg .announce)) _
    _ = _ := bind_of_eq (takeNumber_bytesLE (hg .live)) _
    _ = _ := bind_of_eq (takeNumber_bytesLE (hg .bed)) _
    _ = _ := bind_of_eq (takeNumber_bytesLE hm) _
    _ = _ := bind_of_eq (takeNumber_byteOf (by omega)) _
    _ = _ := bind_of_eq (takeNumber_bytesLE (clipNum_lt hb')) _
    _ = _ := bind_of_eq (takeNumber_byteOf hr) _
    _ = some (q.val, x) := by
      dsimp only
      rw [if_pos ⟨List.isEmpty_nil, ho, hu⟩, flagCode_beq, flagCode_beq, clipOpt_clipNum hb]
      rfl

/-- A duck table with the nine targets that the manual gives it is read back. -/
theorem duckOf_duckBytes {a0 a1 a2 b0 b1 b2 c0 c1 c2 r : Nat} (h : ∀ n ∈ [a0, a1, a2, b0, b1, b2, c0, c1, c2, r], n < 65536) :
    let d : DuckTable := ⟨⟨some a0, none, some a1, some a2⟩, ⟨some b0, some b1, none, some b2⟩, ⟨some c0, some c1, none, some c2⟩, r⟩
    duckOf (duckBytes d) = some d := by
  have hw : ∀ n ∈ [a0, a1, a2, b0, b1, b2, c0, c1, c2, r], natLE [byteOf n, byteOf (n / 256)] = n := fun n hn => natLE_word (h n hn)
  simp only [List.forall_mem_cons] at hw
  obtain ⟨ha0, ha1, ha2, hb0, hb1, hb2, hc0, hc1, hc2, hr, -⟩ := hw
  intro d
  show some (⟨⟨some (natLE [byteOf a0, byteOf (a0 / 256)]), none, some (natLE [byteOf a1, byteOf (a1 / 256)]),
      some (natLE [byteOf a2, byteOf (a2 / 256)])⟩, ⟨some (natLE [byteOf b0, byteOf (b0 / 256)]),
      some (natLE [byteOf b1, byteOf (b1 / 256)]), none, some (natLE [byteOf b2, byteOf (b2 / 256)])⟩,
    ⟨some (natLE [byteOf c0, byteOf (c0 / 256)]), some (natLE [byteOf c1, byteOf (c1 / 256)]), none,
      some (natLE [byteOf c2, byteOf (c2 / 256)])⟩, natLE [byteOf r, byteOf (r / 256)]⟩ : DuckTable) = _
  rw [ha0, ha1, ha2, hb0, hb1, hb2, hc0, hc1, hc2, hr]

theorem loudnessOf_loudnessBytes {l : Loudness} (hk : l.headset.k < 256) (hv : l.headset.v0 < 256) (hm : l.headset.lmax < 65536)
    (pk : l.pa.k < 256) (pv : l.pa.v0 < 256) (pm : l.pa.lmax < 65536) : loudnessOf (loudnessBytes l) = some l := by
  show some (⟨⟨(byteOf l.headset.k).toNat, (byteOf l.headset.v0).toNat, natLE [byteOf l.headset.lmax, byteOf (l.headset.lmax / 256)]⟩,
    ⟨(byteOf l.pa.k).toNat, (byteOf l.pa.v0).toNat, natLE [byteOf l.pa.lmax, byteOf (l.pa.lmax / 256)]⟩⟩ : Loudness) = _
  rw [byteOf_toNat_of_lt hk, byteOf_toNat_of_lt hv, byteOf_toNat_of_lt pk, byteOf_toNat_of_lt pv, natLE_word hm, natLE_word pm]

theorem layerOf_layerBytes {k : LayerNo} {y : Layer} (hn : y.cells.length ≤ 96)
    (hc : ∀ c ∈ y.cells, ∀ x, c = some x → x.r < 256 ∧ x.g < 256 ∧ x.b < 256) (ho : y.offset < 256)
    (hf : y.fillC.r < 256 ∧ y.fillC.g < 256 ∧ y.fillC.b < 256) : layerOf (layerBytes k y) = some (k.val, y) := by
  have hk := k.isLt
  have hcount : (byteOf y.cells.length).toNat = y.cells.length := byteOf_toNat_of_lt (by omega)
  have hcells : takeCells y.cells.length (y.cells.flatMap cellBytes) = some (y.cells, []) := by
    have := takeCells_flatMap (rest := []) hc
    rwa [List.append_nil] at this
  show layerOf (byteOf k.val :: flagByte y.enabled :: byteOf (scaleCode y.scale) :: byteOf y.offset :: byteOf (combineCode y.combine) ::
    flagByte y.invert :: byteOf y.fillC.r :: byteOf y.fillC.g :: byteOf y.fillC.b :: byteOf y.cells.length :: y.cells.flatMap cellBytes) = _
  simp only [layerOf, boolOf_flagByte, scaleOf_scaleCode, combineOf_combineCode, hcount, hcells, Option.bind_eq_bind, Option.bind_some,
    List.isEmpty_nil, hn, and_self, if_true, byteOf_toNat_of_lt (show k.val < 256 by omega), byteOf_toNat_of_lt ho,
    byteOf_toNat_of_lt hf.1, byteOf_toNat_of_lt hf.2.1, byteOf_toNat_of_lt hf.2.2]

/-- Settles O11. -/
theorem recordsReadBackAsWritten : Obligations.RecordsReadBackAsWritten := by
  unfold Obligations.RecordsReadBackAsWritten
  intro clip clipField langs colour
  refine ⟨fun i x w b0 b1 ha hb hl hd hk hp hc hq hw => ?_, fun i x w b0 b1 b2 ht hl hp hg hq hw => ?_, fun q x hl hg hm hb hr => ?_,
    fun d hrow ha hd hg has hds hgs hr => ?_, fun l hl => ?_, fun k y hn hc ho hf => layerOf_layerBytes hn hc ho hf⟩
  · rw [written_of_read ((stopBytes_some i x).symm.trans hw) rfl]
    exact stopOf_stopWritten (by omega) (by omega) hl.1 hl.2 hd.1 hd.2 hk hp hc.1 hc.2 hq.1 hq.2
  · rw [written_of_read ((segmentBytes_some i x).symm.trans hw) rfl]
    exact segmentOf_segmentWritten (by omega) (by omega) hp hg.1 hg.2 hq.1 hq.2
  · exact programmeOf_programmeBytes hl hg hm hb.1 hb.2 hr
  · obtain ⟨⟨ac, aa, al, ab⟩, ⟨dc, da, dl, db⟩, ⟨gc, ga, gl, gb⟩, r⟩ := d
    simp only at ha hd hg hr
    subst ha hd hg
    obtain ⟨a0, rfl⟩ := Option.isSome_iff_exists.1 (has .commentary nofun)
    obtain ⟨a1, rfl⟩ := Option.isSome_iff_exists.1 (has .live nofun)
    obtain ⟨a2, rfl⟩ := Option.isSome_iff_exists.1 (has .bed nofun)
    obtain ⟨b0, rfl⟩ := Option.isSome_iff_exists.1 (hds .commentary nofun)
    obtain ⟨b1, rfl⟩ := Option.isSome_iff_exists.1 (hds .announce nofun)
    obtain ⟨b2, rfl⟩ := Option.isSome_iff_exists.1 (hds .bed nofun)
    obtain ⟨c0, rfl⟩ := Option.isSome_iff_exists.1 (hgs .commentary nofun)
    obtain ⟨c1, rfl⟩ := Option.isSome_iff_exists.1 (hgs .announce nofun)
    obtain ⟨c2, rfl⟩ := Option.isSome_iff_exists.1 (hgs .bed nofun)
    simp only [List.forall_mem_cons] at hrow
    obtain ⟨h1, h2, h3, -⟩ := hrow
    refine duckOf_duckBytes ?_
    simp only [List.forall_mem_cons]
    exact ⟨h1 .commentary _ rfl, h1 .live _ rfl, h1 .bed _ rfl, h2 .commentary _ rfl, h2 .announce _ rfl, h2 .bed _ rfl,
      h3 .commentary _ rfl, h3 .announce _ rfl, h3 .bed _ rfl, hr, nofun⟩
  · simp only [List.forall_mem_cons] at hl
    obtain ⟨⟨hk, hv, hm⟩, ⟨pk, pv, pm⟩, -⟩ := hl
    exact loudnessOf_loudnessBytes hk hv hm pk pv pm

end Sys2Proof.Machine
end

section
/-! SUPPORT. What the Clip Store's operations come to (R2 to R9, R18, R20): searches of the clip map, freed chains, uses and pins. -/

namespace Sys2Proof

variable {α β : Type} {n : Nat}

/-! ## The first index that passes a test -/

/-- Where the indices are cut at one of them, every lower one stands before the cut. -/
theorem mem_before_of_indices {as bs : List (Fin n)} {i j : Fin n} (hl : indices n = as ++ i :: bs) (hj : j < i) : j ∈ as := by
  have hp := indices_pairwise (n := n)
  have hm := mem_indices j
  rw [hl] at hp hm
  rcases List.mem_append.1 hm with hm | hm
  · exact hm
  · obtain ⟨-, hp, -⟩ := List.pairwise_append.1 hp
    rcases List.mem_cons.1 hm with rfl | hm
    · exact absurd hj (Nat.lt_irrefl _)
    · exact absurd hj (Nat.lt_asymm ((List.pairwise_cons.1 hp).1 j hm))

theorem findSome?_indices {f : Fin n → Option β} {b : β} :
    (indices n).findSome? f = some b ↔ ∃ i, f i = some b ∧ ∀ j, j < i → f j = none := by
  have first : ∀ {c}, (indices n).findSome? f = some c → ∃ i, f i = some c ∧ ∀ j, j < i → f j = none := fun h =>
    let ⟨_, i, _, hl, hi, has⟩ := List.findSome?_eq_some_iff.1 h
    ⟨i, hi, fun _ hj => has _ (mem_before_of_indices hl hj)⟩
  refine ⟨first, fun ⟨i, hi, hlow⟩ => ?_⟩
  cases h : (indices n).findSome? f with
  | none => rw [List.findSome?_eq_none_iff.1 h i (mem_indices i)] at hi; cases hi
  | some c =>
    obtain ⟨j, hj, hlow'⟩ := first h
    rcases Nat.lt_trichotomy i.val j.val with e | e | e
    · rw [hlow' i e] at hi; cases hi
    · rw [← hi, ← hj, Fin.ext e]
    · rw [hlow j e] at hj; cases hj

theorem findSome?_indices_none {f : Fin n → Option β} : (indices n).findSome? f = none ↔ ∀ i, f i = none := by
  simp [List.findSome?_eq_none_iff]

theorem find?_indices {f : Fin n → Bool} {i : Fin n} :
    (indices n).find? f = some i ↔ f i = true ∧ ∀ j, j < i → f j = false := by
  have key : ∀ l : List (Fin n), l.find? f = l.findSome? fun j => if f j then some j else none := by
    intro l
    induction l with
    | nil => rfl
    | cons j l ih => rw [List.find?_cons, List.findSome?_cons, ih]; cases f j <;> rfl
  rw [key, findSome?_indices]
  simp only [Option.ite_none_right_eq_some, Option.some.injEq, ite_eq_right_iff, reduceCtorEq, imp_false, Bool.not_eq_true]
  exact ⟨fun ⟨_, ⟨h, e⟩, hlow⟩ => e ▸ ⟨h, hlow⟩, fun ⟨h, hlow⟩ => ⟨i, ⟨h, rfl⟩, hlow⟩⟩

theorem find?_indices_none {f : Fin n → Bool} : (indices n).find? f = none ↔ ∀ i, f i = false := by
  simp [List.find?_eq_none]

/-! ## The first thing in an order -/

/-- The first of a list in an order, the earlier one where neither comes before the other. -/
def firstIn (before : α → α → Bool) (best : Option α) (x : α) : Option α :=
  match best with
  | none => some x
  | some y => if before x y then some x else some y

theorem foldl_firstIn_some {before : α → α → Bool} (ha : ∀ a b, before a b = true → before b a = false)
    (hn : ∀ a b c, before a b = false → before b c = false → before a c = false) (l : List α) (y : α) :
    ∃ m ∈ y :: l, l.foldl (firstIn before) (some y) = some m ∧ ∀ x ∈ y :: l, before x m = false := by
  induction l generalizing y with
  | nil =>
    refine ⟨y, List.mem_cons_self, rfl, fun x hx => ?_⟩
    rw [List.mem_singleton.1 hx]
    exact Bool.eq_false_iff.2 fun k => absurd (ha y y k) (by rw [k]; nofun)
  | cons z l ih =>
    have hz : firstIn before (some y) z = if before z y then some z else some y := rfl
    rw [List.foldl_cons, hz]
    split
    · next hzy =>
      obtain ⟨m, hm, he, hfirst⟩ := ih z
      refine ⟨m, List.mem_cons_of_mem _ hm, he, fun x hx => ?_⟩
      rcases List.mem_cons.1 hx with rfl | hx
      · exact hn _ z _ (ha _ _ hzy) (hfirst z List.mem_cons_self)
      · exact hfirst x hx
    · next hzy =>
      obtain ⟨m, hm, he, hfirst⟩ := ih y
      have hy := hfirst y List.mem_cons_self
      refine ⟨m, List.mem_cons.2 ((List.mem_cons.1 hm).imp_right (List.mem_cons_of_mem _)), he, fun x hx => ?_⟩
      rcases List.mem_cons.1 hx with rfl | hx
      · exact hy
      · rcases List.mem_cons.1 hx with rfl | hx
        · exact hn _ y _ (Bool.eq_false_iff.2 hzy) hy
        · exact hfirst x (List.mem_cons_of_mem _ hx)

theorem foldl_firstIn {before : α → α → Bool} (ha : ∀ a b, before a b = true → before b a = false)
    (hn : ∀ a b c, before a b = false → before b c = false → before a c = false) {l : List α} (hl : l ≠ []) :
    ∃ m ∈ l, l.foldl (firstIn before) none = some m ∧ ∀ x ∈ l, before x m = false := by
  cases l with
  | nil => exact absurd rfl hl
  | cons y l => exact foldl_firstIn_some ha hn l y

end Sys2Proof

namespace Sys2Proof.Machine

variable {st : Store} {n : EntryNo} {e : Entry}

/-! ## Searches of the clip map (R5, R6, R10) -/

/-- What a search sees of an entry. -/
def Store.seen (st : Store) (f : Entry → Bool) (n : EntryNo) : Option (EntryNo × Entry) :=
  match st.map.get n with
  | some e => if f e then some (n, e) else none
  | none => none

theorem Store.seen_eq_some {f : Entry → Bool} {x : EntryNo × Entry} :
    st.seen f n = some x ↔ ∃ e, st.map.get n = some e ∧ f e = true ∧ x = (n, e) := by
  unfold Store.seen
  cases st.map.get n with
  | none => exact ⟨nofun, fun ⟨_, h, _⟩ => nomatch h⟩
  | some e =>
    simp only [Option.ite_none_right_eq_some, Option.some.injEq]
    exact ⟨fun ⟨hf, hx⟩ => ⟨e, rfl, hf, hx.symm⟩, fun ⟨_, he, hf, hx⟩ => by subst he; exact ⟨hf, hx.symm⟩⟩

theorem Store.seen_eq_none {f : Entry → Bool} : st.seen f n = none ↔ ∀ e, st.map.get n = some e → f e = false := by
  unfold Store.seen
  cases st.map.get n with
  | none => simp
  | some e => simp

theorem Store.findEntry_eq (st : Store) (f : Entry → Bool) : st.findEntry f = (indices 192).findSome? (st.seen f) := rfl

theorem Store.findEntry_eq_some {f : Entry → Bool} : st.findEntry f = some (n, e) ↔
    st.map.get n = some e ∧ f e = true ∧ ∀ m, m < n → ∀ g, st.map.get m = some g → f g = false := by
  rw [Store.findEntry_eq, findSome?_indices]
  constructor
  · rintro ⟨i, hi, hlow⟩
    obtain ⟨e', he, hf, hx⟩ := Store.seen_eq_some.1 hi
    cases hx
    exact ⟨he, hf, fun m hm => Store.seen_eq_none.1 (hlow m hm)⟩
  · rintro ⟨he, hf, hlow⟩
    exact ⟨n, Store.seen_eq_some.2 ⟨e, he, hf, rfl⟩, fun m hm => Store.seen_eq_none.2 (hlow m hm)⟩

theorem Store.findEntry_eq_none {f : Entry → Bool} : st.findEntry f = none ↔ ∀ n e, st.map.get n = some e → f e = false := by
  rw [Store.findEntry_eq, findSome?_indices_none]
  exact forall_congr' fun _ => Store.seen_eq_none

theorem Entry.standing_iff : e.standing = true ↔ e.state = .ready ∨ e.state = .damaged := by
  simp [Entry.standing]

/-! ## Tables with good parity (R28) -/

theorem Store.putEntry_of_good (hb : st.badMap = []) (n : EntryNo) (x : Option Entry) :
    st.putEntry n x = { st with map := st.map.set n x } := by
  unfold Store.putEntry
  rw [hb, List.filter_nil, ← hb]

/-! ## Freed chains (R2, R3, R7) -/

/-- R3: the pages freed, one after another. -/
theorem Store.foldl_freePage (ps : List Page) (st : Store) : ps.foldl Store.freePage st =
    { st with
      links := ps.foldl (fun l p => setLink l p .free) st.links
      freeList := st.freeList ++ ps
      badLinks := st.badLinks.filter (· ∉ ps) } := by
  induction ps generalizing st with
  | nil => simp
  | cons p ps ih =>
    have hbad : (st.badLinks.filter (· ≠ p)).filter (· ∉ ps) = st.badLinks.filter (· ∉ p :: ps) := by
      rw [List.filter_filter]
      exact List.filter_congr fun q _ => by by_cases h : q = p <;> simp [h]
    rw [List.foldl_cons, ih]
    unfold Store.freePage Store.putLink
    dsimp only
    rw [hbad, List.append_assoc]
    rfl

theorem Store.freeChain_some (st : Store) (q : Page) : st.freeChain (some q) =
    { st with
      links := (st.chain q).foldl (fun l p => setLink l p .free) st.links
      freeList := st.freeList ++ st.chain q
      badLinks := st.badLinks.filter (· ∉ st.chain q)
      noted := st.noted ++ ((st.chain q).filter (· ∈ st.badLinks)).map .link } := by
  unfold Store.freeChain
  dsimp only
  rw [Store.foldl_freePage]
  rfl

/-- The link values after a chain is freed. -/
theorem linkOf_foldl_free {links : List (Nat × Link)} (hw : sparseWf Link.free links = true) (ps : List Page) (x : Page) :
    linkOf (ps.foldl (fun l p => setLink l p .free) links) x = if x ∈ ps then .free else linkOf links x := by
  induction ps generalizing links with
  | nil => simp
  | cons p ps ih =>
    have hw' : sparseWf Link.free (setLink links p .free) = true := sparseSet_wf _ _ _ hw
    rw [List.foldl_cons, ih hw', linkOf_setLink hw]
    by_cases h1 : x ∈ ps <;> by_cases h2 : x = p <;> simp [h1, h2]

/-- A chain freed: only the links, the free page list and the parity of the links change. -/
theorem Store.freeChain_of_good (hb : st.badLinks = []) (q : Page) : st.freeChain (some q) =
    { st with links := (st.chain q).foldl (fun l p => setLink l p .free) st.links, freeList := st.freeList ++ st.chain q } := by
  rw [Store.freeChain_some, hb]
  simp

theorem Store.freeChain_badMap (st : Store) (o : Option Page) : (st.freeChain o).badMap = st.badMap := by
  cases o with
  | none => rfl
  | some q => rw [Store.freeChain_some]

theorem Store.freeChain_map (st : Store) (o : Option Page) : (st.freeChain o).map = st.map := by
  cases o with
  | none => rfl
  | some q => rw [Store.freeChain_some]

theorem Store.freeChain_noted (hb : st.badLinks = []) (o : Option Page) : (st.freeChain o).noted = st.noted := by
  cases o with
  | none => rfl
  | some q => rw [Store.freeChain_of_good hb]

theorem Store.freeChain_pinTotal (st : Store) (o : Option Page) : (st.freeChain o).pinTotal = st.pinTotal := by
  cases o with
  | none => rfl
  | some q => rw [Store.freeChain_some]

/-- A chain freed does not look at the clip map, and leaves it. -/
theorem Store.freeChain_withMap (st : Store) (m : Tab (Option Entry) 192) (total : Nat) (o : Option Page) :
    { st with map := m, pinTotal := total }.freeChain o = { st.freeChain o with map := m, pinTotal := total } := by
  cases o with
  | none => rfl
  | some q => rw [Store.freeChain_some, Store.freeChain_some]; rfl

theorem Store.freeEntry_of_good (hb : st.badMap = []) (he : st.map.get n = some e) :
    st.freeEntry n = { st.freeChain e.firstPage with map := st.map.set n none } := by
  unfold Store.freeEntry
  rw [he]
  dsimp only
  rw [Store.putEntry_of_good (by rw [Store.freeChain_badMap, hb]), Store.freeChain_map]

/-! ## Pins, uses and retirement (R7 to R9) -/

/-- R8: an entry without its pin. -/
theorem Store.unpinEntry_of_good (hb : st.badMap = []) (he : st.map.get n = some e) : st.unpinEntry n =
    { st with
      map := st.map.set n (some { e with pinned := false })
      pinTotal := if e.pinned then st.pinTotal - e.pageCount.getD 0 else st.pinTotal } := by
  unfold Store.unpinEntry
  rw [he]
  dsimp only
  cases hp : e.pinned with
  | true => rw [if_pos rfl, if_pos rfl, Store.putEntry_of_good hb]
  | false =>
    have h : st.map.set n (some { e with pinned := false }) = st.map := by rw [← hp, ← he, Tab.set_get]
    rw [h]
    rfl

/-- R9, R18: a standing entry leaves its state. -/
theorem Store.retire_of_good (hb : st.badMap = []) (he : st.map.get n = some e) : st.retire n =
    let total := if e.pinned then st.pinTotal - e.pageCount.getD 0 else st.pinTotal
    if e.useCount = 0 then { st.freeChain e.firstPage with map := st.map.set n none, pinTotal := total }
    else { st with map := st.map.set n (some { e with pinned := false, state := .retiring }), pinTotal := total } := by
  unfold Store.retire
  rw [Store.unpinEntry_of_good hb he]
  dsimp only
  rw [Tab.get_set_self]
  dsimp only
  split
  · rw [Store.freeEntry_of_good (e := { e with pinned := false }) (by exact hb) (Tab.get_set_self _ _ _), Store.freeChain_withMap, Tab.set_set]
  · rw [Store.putEntry_of_good (by exact hb), Tab.set_set]

theorem Store.release_of_good (hb : st.badMap = []) (he : st.map.get n = some e) : st.release n =
    if e.state = .retiring ∧ e.useCount ≤ 1 then { st.freeChain e.firstPage with map := st.map.set n none }
    else { st with map := st.map.set n (some { e with useCount := e.useCount - 1 }) } := by
  unfold Store.release
  rw [Store.readEntry_of_good hb]
  dsimp only
  rw [he]
  dsimp only
  rw [Store.putEntry_of_good hb]
  refine if_congr (and_congr_right fun _ => by omega) ?_ rfl
  rw [Store.freeEntry_of_good (e := { e with useCount := e.useCount - 1 }) (by exact hb) (Tab.get_set_self _ _ _), Tab.set_set,
    Store.freeChain_withMap]
  simp only [Store.freeChain_pinTotal]

end Sys2Proof.Machine
end

section
/-! SUPPORT. Lookups, evictions, and the commands that delete and pin clips (R6 to R9, R20, R21). -/

namespace Sys2Proof.Machine

variable {s t : State} {p : Port} {c : Command} {h : InHand} {bs : List Byte} {st : Store} {n : EntryNo} {e : Entry}

/-! ## Outcomes of commands that search the Clip Store, with good parity -/

theorem State.done_answer (hh : s.holds p c h) (hk : c.kind = .write) {st : Status} {body : List Byte → State → Answer}
    (hb : body h.payload (s.dropResv p) = t.answer st) (hn : t.store.noted = []) :
    (s.take p c body).done = .next (t.withReply p h st []) := by
  rw [State.take_write_answer hh hk hb, State.done_withReply hn]

theorem State.done_ok (hh : s.holds p c h) (hk : c.kind = .write) {body : List Byte → State → Answer}
    (hb : body h.payload (s.dropResv p) = t.ok bs) (hn : t.store.noted = []) :
    (s.take p c body).done = .next (t.withReply p h .ok bs) := by
  rw [State.take_write_ok hh hk hb, State.done_withReply hn]

theorem State.done_refusal (hh : s.holds p c h) (hk : c.kind = .write) {st : Status} {body : List Byte → State → Answer}
    (hb : body h.payload (s.dropResv p) = (s.dropResv p).answer st) (hn : s.store.noted = []) :
    (s.take p c body).done = .next (s.refusedWrite p h st) := State.done_answer hh hk hb hn

/-- What is done to the Clip Store depends on what it comes to there alone. -/
theorem State.onStore_congr {f g : Store → Store} (h : f s.store = g s.store) : s.onStore f = s.onStore g := by
  unfold State.onStore
  rw [h]

/-! ## Lookups (R6) -/

theorem Store.standingOf_none {clip : Nat} (h : ∀ n e, st.map.get n = some e → ¬(e.standing = true ∧ e.clip = clip)) :
    st.standingOf clip = none :=
  Store.findEntry_eq_none.2 fun n e he => Bool.eq_false_iff.2 (by simpa using h n e he)

theorem Store.standingOf_first {clip : Nat} (he : st.map.get n = some e) (hs : e.standing = true) (hc : e.clip = clip)
    (hu : ∀ m, m < n → ∀ f, st.map.get m = some f → ¬(f.standing = true ∧ f.clip = clip)) : st.standingOf clip = some (n, e) :=
  Store.findEntry_eq_some.2 ⟨he, by simp [hs, hc], fun m hm f hf => Bool.eq_false_iff.2 (by simpa using hu m hm f hf)⟩

/-- Settles O12. -/
theorem lookupsAndFreedChains : Obligations.LookupsAndFreedChains := by
  unfold Obligations.LookupsAndFreedChains
  refine ⟨fun st clip accept hb => ⟨fun hn => ?_, fun n e he hc hu => ?_⟩, fun st hb hl hw => ⟨fun q => ⟨?_, fun x => ?_, ?_⟩, fun n e he => ⟨fun h => ?_, fun h h1 => ?_⟩⟩⟩
  · unfold Store.lookup
    rw [Store.searchMap_of_good hb]
    dsimp only
    rw [Store.standingOf_none hn]
  · have lookup (hs : e.standing = true) : st.lookup clip accept =
        if e.state = .damaged then (st, .absent .damaged)
        else if accept e.kind then
          ({ st.putEntry n (some { e with useCount := e.useCount + 1, lastUse := some (st.seq + 1) }) with seq := st.seq + 1 },
            .found ⟨n, clip, e.kind, e.byteLen, e.firstPage.getD 0⟩)
        else (st, .absent .kind) := by
      unfold Store.lookup
      rw [Store.searchMap_of_good hb]
      dsimp only
      rw [Store.standingOf_first he hs hc hu]
    have ready (h : e.state = .ready) : ¬e.state = .damaged := by rw [h]; nofun
    refine ⟨fun h => ?_, fun h ha => ?_, fun h ha => ?_⟩
    · rw [lookup (Entry.standing_iff.2 (.inr h)), if_pos h]
    · rw [lookup (Entry.standing_iff.2 (.inl h)), if_neg (ready h), ha]
      rfl
    · rw [lookup (Entry.standing_iff.2 (.inl h)), if_neg (ready h), if_pos ha, Store.putEntry_of_good hb]
  · rw [Store.freeChain_of_good hl]
  · rw [Store.freeChain_of_good hl]
    exact linkOf_foldl_free hw _ _
  · rw [Store.freeChain_of_good hl]
  · rw [Store.release_of_good hb he, if_neg]
    rintro ⟨hr, h1⟩
    rcases h with h | h
    · exact h hr
    · omega
  · rw [Store.release_of_good hb he, if_pos ⟨h, h1⟩]

/-! ## Evictions (R20, R21) -/

theorem keyBefore_iff {x y : Nat × Nat × Nat × Nat} : keyBefore x y = true ↔
    x.1 < y.1 ∨ x.1 = y.1 ∧ (x.2.1 < y.2.1 ∨ x.2.1 = y.2.1 ∧ (x.2.2.1 < y.2.2.1 ∨ x.2.2.1 = y.2.2.1 ∧ x.2.2.2 < y.2.2.2)) := by
  simp only [keyBefore, Bool.or_eq_true, Bool.and_eq_true, decide_eq_true_eq, beq_iff_eq]

theorem keyBefore_asymm (x y : Nat × Nat × Nat × Nat) (h : keyBefore x y = true) : keyBefore y x = false := by
  rw [keyBefore_iff] at h
  rw [Bool.eq_false_iff, ne_eq, keyBefore_iff]
  omega

theorem keyBefore_negTrans (x y z : Nat × Nat × Nat × Nat) (h : keyBefore x y = false) (k : keyBefore y z = false) :
    keyBefore x z = false := by
  rw [Bool.eq_false_iff, ne_eq, keyBefore_iff] at h k ⊢
  omega

theorem keyBefore_of_ne {x y : Nat × Nat × Nat × Nat} (hne : x.2.2.2 ≠ y.2.2.2) (h : keyBefore y x = false) : keyBefore x y = true := by
  rw [Bool.eq_false_iff, ne_eq, keyBefore_iff] at h
  rw [keyBefore_iff]
  omega

theorem Store.mem_candidates {x : EntryNo × Entry} : x ∈ st.candidates ↔ st.map.get x.1 = some x.2 ∧ x.2.candidate = true := by
  have hc : st.candidates = (indices 192).filterMap (st.seen Entry.candidate) := rfl
  rw [hc, List.mem_filterMap]
  constructor
  · rintro ⟨n, -, hn⟩
    obtain ⟨e, he, hf, rfl⟩ := Store.seen_eq_some.1 hn
    exact ⟨he, hf⟩
  · rintro ⟨he, hf⟩
    exact ⟨x.1, mem_indices _, Store.seen_eq_some.2 ⟨x.2, he, hf, rfl⟩⟩

theorem State.firstCandidate_eq (s : State) : s.firstCandidate =
    s.store.candidates.foldl (firstIn fun x y => keyBefore (s.evictKey x.1 x.2) (s.evictKey y.1 y.2)) none := by
  unfold State.firstCandidate
  congr 1
  funext best x
  cases best <;> rfl

theorem State.firstCandidate_none (h : ∀ n e, s.store.map.get n = some e → e.candidate = false) : s.firstCandidate = none := by
  have hc : s.store.candidates = [] := List.eq_nil_iff_forall_not_mem.2 fun x hx => by
    obtain ⟨he, hf⟩ := Store.mem_candidates.1 hx
    rw [h _ _ he] at hf
    cases hf
  rw [State.firstCandidate_eq, hc]
  rfl

/-- R20: with a candidate there is a first one, before every other. -/
theorem State.firstCandidate_some (he : s.store.map.get n = some e) (hc : e.candidate = true) :
    ∃ m f, s.store.map.get m = some f ∧ f.candidate = true ∧ s.firstCandidate = some (m, f) ∧
      ∀ k g, s.store.map.get k = some g → g.candidate = true → k ≠ m → keyBefore (s.evictKey m f) (s.evictKey k g) = true := by
  have hne : s.store.candidates ≠ [] := List.ne_nil_of_mem (Store.mem_candidates (x := (n, e)).2 ⟨he, hc⟩)
  obtain ⟨⟨m, f⟩, hm, hfirst, hlow⟩ := foldl_firstIn (before := fun x y : EntryNo × Entry => keyBefore (s.evictKey x.1 x.2) (s.evictKey y.1 y.2))
    (fun _ _ => keyBefore_asymm _ _) (fun _ _ _ => keyBefore_negTrans _ _ _) hne
  obtain ⟨hf, hfc⟩ := Store.mem_candidates.1 hm
  refine ⟨m, f, hf, hfc, s.firstCandidate_eq.trans hfirst, fun k g hg hgc hk => keyBefore_of_ne (fun e => hk (Fin.ext e.symm)) ?_⟩
  exact hlow (k, g) (Store.mem_candidates.2 ⟨hg, hgc⟩)

theorem State.evict_eq (hb : s.store.badMap = []) : s.evict = s.firstCandidate.map fun x =>
    (s.onStore fun st => st.freeEntry x.1).post .clipEvicted x.2.clip (x.2.pageCount.getD 0) 0 := by
  have hs : s.onStore Store.searchMap = s := by
    unfold State.onStore
    rw [Store.searchMap_of_good hb]
  unfold State.evict
  rw [hs]
  dsimp only
  cases s.firstCandidate <;> rfl

theorem State.languageHeard_iff {lang : Nat} : s.languageHeard lang = true ↔
    ∃ q : Prog, q ≠ 0 ∧ s.progOn q = true ∧ (s.awakeNow q = true ∨ s.mix.leaving.get q = true) ∧ (s.mix.progs.get q).lang = lang := by
  unfold State.languageHeard State.storeAwake
  rw [List.any_eq_true]
  simp only [Bool.and_eq_true, Bool.or_eq_true, beq_iff_eq, and_assoc]
  refine exists_congr fun q => and_congr_left fun _ => ⟨fun hq h => ?_, mem_langProgs⟩
  rw [h] at hq
  revert hq
  decide

/-- Settles O13. -/
theorem evictionTakesTheFirstCandidate : Obligations.EvictionTakesTheFirstCandidate := by
  unfold Obligations.EvictionTakesTheFirstCandidate
  intro s hb unheard key
  have hkey : ∀ n e, key n e = s.evictKey n e := fun n e => by
    have hu : unheard e.lang ↔ (e.lang ≠ 0 ∧ (!s.languageHeard e.lang) = true) := by
      refine and_congr_right fun _ => ?_
      rw [Bool.not_eq_true', Bool.eq_false_iff, ne_eq, State.languageHeard_iff]
      exact ⟨fun h ⟨q, hq, hon, hw, hl⟩ => h q hq hon hw hl, fun h q hq hon hw hl => h ⟨q, hq, hon, hw, hl⟩⟩
    show (_, (if unheard e.lang then 0 else 1), _, _) = (_, (if e.lang ≠ 0 ∧ (!s.languageHeard e.lang) = true then 0 else 1), _, _)
    rw [if_congr hu rfl rfl]
  refine ⟨fun h => by rw [State.evict_eq hb, State.firstCandidate_none h, Option.map_none], fun n e he hc => ?_⟩
  obtain ⟨m, f, hf, hfc, hfirst, hlow⟩ := State.firstCandidate_some he hc
  refine ⟨m, f, hf, hfc, fun k g hg hgc hk => ?_, by rw [State.evict_eq hb, hfirst, Option.map_some]⟩
  intro a b
  rw [show a = s.evictKey m f from hkey m f, show b = s.evictKey k g from hkey k g]
  exact keyBefore_iff.1 (hlow k g hg hgc hk)

/-! ## CLIP-DELETE, CLIP-PIN and CLIP-UNPIN (R8, R9) -/

theorem withStanding_found {clip : Nat} (hb : s.store.badMap = []) (hf : s.store.standingOf clip = some (n, e))
    (k : EntryNo → Entry → State → Answer) : withStanding clip s k = k n e s := by
  have hs : s.onStore Store.searchMap = s := by
    unfold State.onStore
    rw [Store.searchMap_of_good hb]
  unfold withStanding
  rw [hs]
  dsimp only
  rw [hf]

theorem withStanding_missing {clip : Nat} (hb : s.store.badMap = []) (hf : s.store.standingOf clip = none)
    (k : EntryNo → Entry → State → Answer) : withStanding clip s k = s.answer .notFound := by
  have hs : s.onStore Store.searchMap = s := by
    unfold State.onStore
    rw [Store.searchMap_of_good hb]
  unfold withStanding
  rw [hs]
  dsimp only
  rw [hf]

theorem clipDeleteBody_found {clip : Nat} (hb : s.store.badMap = []) (hf : s.store.standingOf clip = some (n, e)) :
    clipDeleteBody clip s = (s.onStore fun st => st.retire n).answer .ok := withStanding_found hb hf _

theorem clipPinBody_found {clip : Nat} (hb : s.store.badMap = []) (hf : s.store.standingOf clip = some (n, e)) : clipPinBody clip s =
    if e.pinned then s.answer .ok
    else if 3072 < s.store.pinTotal + e.pageCount.getD 0 then s.answer .full
    else (s.onStore fun st => { st with
      map := st.map.set n (some { e with pinned := true }), pinTotal := st.pinTotal + e.pageCount.getD 0 }).answer .ok := by
  refine (withStanding_found hb hf _).trans ?_
  unfold State.onStore
  dsimp only
  rw [Store.putEntry_of_good hb]
  rfl

theorem clipUnpinBody_found {clip : Nat} (hb : s.store.badMap = []) (hf : s.store.standingOf clip = some (n, e))
    (he : s.store.map.get n = some e) : clipUnpinBody clip s = (s.onStore fun st => { st with
      map := st.map.set n (some { e with pinned := false })
      pinTotal := if e.pinned then st.pinTotal - e.pageCount.getD 0 else st.pinTotal }).answer .ok := by
  refine (withStanding_found hb hf _).trans ?_
  have hu := Store.unpinEntry_of_good hb he
  unfold State.onStore
  dsimp only
  rw [← hu]
  cases hp : e.pinned with
  | true => rfl
  | false =>
    have h : s.store.unpinEntry n = s.store := by
      unfold Store.unpinEntry
      rw [he]
      dsimp only
      rw [if_neg (by rw [hp]; nofun)]
    rw [h]
    rfl

/-- Settles O17. -/
theorem clipsAreDeletedAndPinned : Obligations.ClipsAreDeletedAndPinned := by
  unfold Obligations.ClipsAreDeletedAndPinned
  refine ⟨fun p s h c0 c1 n e => ?_, fun p s h hg => ?_⟩
  · intro clip entry pages total hp hg he hs hc hu
    obtain ⟨hl, hb, hn⟩ := hg
    have hb' : (s.dropResv p).store.badMap = [] := hb
    have hword : ∀ k, withWord h.payload (s.dropResv p) k = k clip (s.dropResv p) := fun k => by rw [hp]; exact withWord_word rfl _ _
    have hf : (s.dropResv p).store.standingOf clip = some (n, e) :=
      Store.standingOf_first he (Entry.standing_iff.2 hs) hc fun m hm f hf ⟨hst, hcl⟩ =>
        hu m f (Fin.ne_of_lt hm) hf (Entry.standing_iff.1 hst) hcl
    have hret := Store.retire_of_good hb he
    refine ⟨fun hh => ⟨fun hz => ?_, fun hz => ?_⟩, fun hh => ⟨fun hpin => ?_, fun hpin hfull => ?_, fun hpin hfit => ?_⟩, fun hh => ?_⟩
    · refine State.done_answer hh rfl ((hword _).trans ((clipDeleteBody_found hb' hf).trans ?_)) hn
      exact congrArg (State.answer · .ok) (State.onStore_congr (hret.trans (if_neg hz)))
    · refine State.done_answer hh rfl ((hword _).trans ((clipDeleteBody_found hb' hf).trans ?_)) ((Store.freeChain_noted hl _).trans hn)
      refine congrArg (State.answer · .ok) (State.onStore_congr (g := fun st =>
        { st.freeChain e.firstPage with map := (st.freeChain e.firstPage).map.set n none, pinTotal := total }) (hret.trans ((if_pos hz).trans ?_)))
      rw [Store.freeChain_map]
      rfl
    · exact State.done_answer hh rfl ((hword _).trans ((clipPinBody_found hb' hf).trans (if_pos hpin))) hn
    · refine State.done_refusal hh rfl ((hword _).trans ((clipPinBody_found hb' hf).trans ?_)) hn
      rw [if_neg (by rw [hpin]; nofun)]
      exact if_pos hfull
    · refine State.done_answer hh rfl ((hword _).trans ((clipPinBody_found hb' hf).trans ?_)) hn
      rw [if_neg (by rw [hpin]; nofun)]
      exact if_neg (Nat.not_lt.2 hfit)
    · exact State.done_answer hh rfl ((hword _).trans (clipUnpinBody_found hb' hf (by exact he))) hn
  · intro refused
    obtain ⟨hl, hb, hn⟩ := hg
    refine ⟨fun c0 c1 hp hm => ?_, fun hp => ?_⟩
    · have hf : (s.dropResv p).store.standingOf (natLE [c0, c1]) = none :=
        Store.standingOf_none fun n e he ⟨hs, hc⟩ => hm n e he (Entry.standing_iff.1 hs) hc
      have hword : ∀ k, withWord h.payload (s.dropResv p) k = k (natLE [c0, c1]) (s.dropResv p) := fun k => by
        rw [hp]; exact withWord_word rfl _ _
      have missing : ∀ k, withStanding (natLE [c0, c1]) (s.dropResv p) k = (s.dropResv p).answer .notFound := withStanding_missing (by exact hb) hf
      exact ⟨fun hh => State.done_refusal hh rfl ((hword _).trans (missing _)) hn,
        fun hh => State.done_refusal hh rfl ((hword _).trans (missing _)) hn,
        fun hh => State.done_refusal hh rfl ((hword _).trans (missing _)) hn⟩
    · exact ⟨fun hh => State.done_refusal hh rfl (withWord_bad hp _ clipDeleteBody) hn,
        fun hh => State.done_refusal hh rfl (withWord_bad hp _ clipPinBody) hn,
        fun hh => State.done_refusal hh rfl (withWord_bad hp _ clipUnpinBody) hn⟩

end Sys2Proof.Machine
end

section
/-! SUPPORT. Load slots (R11 to R19): opening, completing and aborting a load. -/

namespace Sys2Proof.Machine

variable {s t : State} {p : Port} {c : Command} {h : InHand} {bs : List Byte} {st : Store} {n : EntryNo} {e : Entry} {l : Load}

/-! ## Load completion (R18) -/

/-- R18 step 1: the standing entry of the clip ID leaves its state. -/
def Store.replaced (clip : Nat) (st : Store) : Store :=
  match st.searchMap.standingOf clip with
  | none => st.searchMap
  | some (n, _) => st.searchMap.retire n

/-- The pages of a load's chain. -/
def Load.pages (l : Load) : Nat := (l.chain.map (·.count)).getD 0

/-- R8, R18: whether a load's pin was asked for and fits. -/
def Load.pins (l : Load) (total : Nat) : Bool := l.pin && decide (total + l.pages ≤ 3072)

/-- R18 step 2: the new entry as a completed load leaves it. -/
def Load.ready (l : Load) (e : Entry) (pinned : Bool) (seq : Count32) : Entry :=
  { e with
    state := .ready, pinned := pinned, firstPage := l.chain.map (·.first), pageCount := some l.pages, lastUse := some seq, loader := none }

/-- R18 steps 2 to 4: the new entry becomes READY and the slot CLOSED. -/
def Store.loaded (p : Port) (l : Load) (st : Store) : Store :=
  let st := match st.map.get l.entry with
    | none => st
    | some e =>
      { st.putEntry l.entry (some (l.ready e (l.pins st.pinTotal) st.seq)) with
        pinTotal := st.pinTotal + if l.pins st.pinTotal then l.pages else 0 }
  st.setSlot p .closed

/-- R18: detail 3 of LOAD-DONE. -/
def Load.outcome (l : Load) (total : Nat) : Nat := if l.pin then (if decide (total + l.pages ≤ 3072) then 1 else 2) else 0

theorem State.completeLoad_eq (hl : (s.store.slots.get p).load = some l) : s.completeLoad p =
    ((s.onStore (Store.replaced l.clip)).onStore (Store.loaded p l)).postTo p .loadDone l.clip l.pages
      (l.outcome (s.store.replaced l.clip).pinTotal) := by
  unfold State.completeLoad
  rw [hl]
  obtain ⟨entry, clip, kind, len, pin, received, chain⟩ := l
  cases chain <;> rfl

theorem Store.replaced_none {clip : Nat} (hb : st.badMap = []) (hf : st.standingOf clip = none) : st.replaced clip = st := by
  unfold Store.replaced
  rw [Store.searchMap_of_good hb, hf]

theorem Store.replaced_some {clip : Nat} (hb : st.badMap = []) (hf : st.standingOf clip = some (n, e)) : st.replaced clip = st.retire n := by
  unfold Store.replaced
  rw [Store.searchMap_of_good hb, hf]

theorem Store.loaded_of_good (hb : st.badMap = []) (he : st.map.get l.entry = some e) (p : Port) : st.loaded p l =
    { st with
      map := st.map.set l.entry (some (l.ready e (l.pins st.pinTotal) st.seq))
      pinTotal := st.pinTotal + if l.pins st.pinTotal then l.pages else 0
      slots := st.slots.set p .closed } := by
  unfold Store.loaded
  rw [he]
  dsimp only
  rw [Store.putEntry_of_good hb]
  rfl

/-- R9, R18: what a retirement leaves of the Clip Store that a load's completion reads. -/
theorem Store.retire_parts (hb : st.badMap = []) (hl : st.badLinks = []) (he : st.map.get n = some e) :
    (st.retire n).map = st.map.set n (if e.useCount = 0 then none else some { e with pinned := false, state := .retiring }) ∧
    (st.retire n).pinTotal = (if e.pinned then st.pinTotal - e.pageCount.getD 0 else st.pinTotal) ∧
    (st.retire n).slots = st.slots ∧ (st.retire n).seq = st.seq ∧ (st.retire n).badMap = [] ∧ (st.retire n).noted = st.noted := by
  rw [Store.retire_of_good hb he]
  dsimp only
  split
  · cases e.firstPage with
    | none => exact ⟨rfl, rfl, rfl, rfl, hb, rfl⟩
    | some q => rw [Store.freeChain_of_good hl]; exact ⟨rfl, rfl, rfl, rfl, hb, rfl⟩
  · exact ⟨rfl, rfl, rfl, rfl, hb, rfl⟩

/-! ## LOAD-CLOSE (R17) -/

theorem loadCloseBody_notOpen (hl : ∀ l, s.store.slots.get p ≠ .opened l) : loadCloseBody p s = s.answer .refusedState := by
  unfold loadCloseBody
  split
  · next l h => exact absurd h (hl l)
  · rfl

/-- R17: an accepted LOAD-CLOSE, before the load completes. -/
def State.closingSlot (p : Port) (l : Load) (s : State) : State := s.onStore fun st => { st with slots := st.slots.set p (.closing l) }

theorem loadCloseBody_open (hl : s.store.slots.get p = .opened l) : loadCloseBody p s =
    if l.received < l.len then s.answer .short
    else (if s.store.pendingOf p = [] then (s.closingSlot p l).completeLoad p else s.closingSlot p l).answer .accepted := by
  unfold loadCloseBody
  rw [hl]
  simp only [List.isEmpty_iff]
  rfl

theorem State.closingSlot_load (s : State) (p : Port) (l : Load) : ((s.closingSlot p l).store.slots.get p).load = some l := by
  rw [show (s.closingSlot p l).store.slots = s.store.slots.set p (.closing l) from rfl, Tab.get_set_self]
  rfl

/-! ## LOAD-ABORT (R19) -/

/-- R19: the Clip Store after the abort of a load. -/
def Store.aborted (p : Port) (l : Load) (st : Store) : Store :=
  (((st.freeEntry l.entry).freeChain (l.chain.map (·.first))).discardLines p).setSlot p .closed

theorem Store.aborted_of_good (hb : st.badMap = []) (hl : st.badLinks = []) (he : st.map.get l.entry = some e) (hf : e.firstPage = none)
    (p : Port) : ∃ links, st.aborted p l =
    { st.discardLines p with
      map := st.map.set l.entry none, links := links, freeList := st.freeList ++ st.loadPages l, slots := st.slots.set p .closed } := by
  have hentry : st.freeEntry l.entry = { st with map := st.map.set l.entry none } := by
    rw [Store.freeEntry_of_good hb he, hf]
    rfl
  unfold Store.aborted Store.loadPages
  rw [hentry]
  cases l.chain with
  | none =>
    refine ⟨st.links, ?_⟩
    dsimp only
    rw [List.append_nil]
    rfl
  | some c =>
    refine ⟨(st.chain c.first).foldl (fun l p => setLink l p .free) st.links, ?_⟩
    dsimp only [Option.map_some]
    rw [Store.freeChain_of_good (by exact hl)]
    rfl

theorem loadAbortBody_opened (hl : s.store.slots.get p = .opened l) :
    loadAbortBody p s = (s.onStore (Store.aborted p l)).answer .ok := by
  unfold loadAbortBody
  rw [hl]
  rfl

/-- Settles O16. -/
theorem loadsAreClosedAndAborted : Obligations.LoadsAreClosedAndAborted := by
  unfold Obligations.LoadsAreClosedAndAborted
  refine ⟨fun p s h hh hg => ⟨fun hp => ?_, fun hp => ⟨fun hl => ?_, fun l hl => ⟨fun hr => ?_, fun hr => ⟨fun hd => ?_, fun hd e he hs => ?_⟩⟩⟩⟩,
    fun p s h hh hg => ⟨fun hp => ?_, fun hp => ⟨fun hl => ?_, fun l hl => ?_, fun l hl e he hf => ?_⟩⟩⟩
  · exact State.done_refusal hh rfl (noArgs_args hp _ _) hg.2.2
  · exact State.done_refusal hh rfl (by rw [hp, noArgs_nil]; exact loadCloseBody_notOpen (s := s.dropResv p) hl) hg.2.2
  · exact State.done_refusal hh rfl (by rw [hp, noArgs_nil, loadCloseBody_open (s := s.dropResv p) hl, if_pos hr]) hg.2.2
  · refine State.done_answer hh rfl (t := (s.dropResv p).closingSlot p l) ?_ hg.2.2
    rw [hp, noArgs_nil, loadCloseBody_open (s := s.dropResv p) hl, if_neg (Nat.not_lt.2 hr), if_neg (by exact hd)]
  · obtain ⟨hbl, hb, hn⟩ := hg
    intro count
    let v := (s.dropResv p).closingSlot p l
    have hbody : noArgs h.payload (s.dropResv p) (loadCloseBody p) = (v.completeLoad p).answer .accepted := by
      rw [hp, noArgs_nil, loadCloseBody_open (s := s.dropResv p) hl, if_neg (Nat.not_lt.2 hr), if_pos (by exact hd)]
    have hcomplete := State.completeLoad_eq ((s.dropResv p).closingSlot_load p l)
    refine ⟨fun n f hf hfs hfc hfu => ?_, fun hno => ?_⟩
    · intro total pinned
      have hne : n ≠ l.entry := fun k => by
        rw [← k, hf] at he
        cases he
        rcases hfs with k | k <;> rw [k] at hs <;> cases hs
      have hstand : v.store.standingOf l.clip = some (n, f) :=
        Store.standingOf_first hf (Entry.standing_iff.2 hfs) hfc fun m hm g hg ⟨hgs, hgc⟩ =>
          hfu m g (Fin.ne_of_lt hm) hg (Entry.standing_iff.1 hgs) hgc
      have hrep : v.store.replaced l.clip = v.store.retire n := Store.replaced_some hb hstand
      obtain ⟨rmap, rpin, rslots, rseq, rbad, rnoted⟩ := Store.retire_parts (st := v.store) hb hbl hf
      rw [← hrep] at rmap rpin rslots rseq rbad rnoted
      have hentry : (v.store.replaced l.clip).map.get l.entry = some e := by
        rw [rmap, Tab.get_set_other hne]
        exact he
      have hload := Store.loaded_of_good rbad hentry p
      rw [rmap, rpin, rseq, rslots] at hload
      have hstore : (v.completeLoad p).store = (v.store.replaced l.clip).loaded p l := by rw [hcomplete]; rfl
      refine ⟨_, State.done_answer hh rfl hbody ?_, ?_, ?_, ?_, State.withReply_slot _ _ _ _ _⟩
      · rw [hstore, hload]
        exact rnoted.trans hn
      · exact (congrArg Store.map (hstore.trans hload) :)
      · exact (congrArg Store.pinTotal (hstore.trans hload) :)
      · refine (congrArg Store.slots (hstore.trans hload) :).trans ?_
        exact Tab.set_set _ _ _ _
    · intro fits
      have hstand : v.store.standingOf l.clip = none :=
        Store.standingOf_none fun n f hf ⟨hfs, hfc⟩ => hno n f hf (Entry.standing_iff.1 hfs) hfc
      have hrep : v.store.replaced l.clip = v.store := Store.replaced_none hb hstand
      have hload := Store.loaded_of_good (st := v.store) hb he p
      have hslots : (s.store.slots.set p (.closing l)).set p .closed = s.store.slots.set p .closed := Tab.set_set _ _ _ _
      have hstate : v.completeLoad p = ((s.dropResv p).onStore fun st =>
          { st with
            map := st.map.set l.entry (some (l.ready e (l.pins s.store.pinTotal) st.seq))
            pinTotal := st.pinTotal + if l.pins s.store.pinTotal then l.pages else 0
            slots := st.slots.set p .closed }).postTo p .loadDone l.clip l.pages (l.outcome s.store.pinTotal) := by
        have h1 : (v.onStore (Store.replaced l.clip)).onStore (Store.loaded p l) = v.onStore (Store.loaded p l) := by
          refine State.onStore_congr (f := fun st => (st.replaced l.clip).loaded p l) ?_
          rw [hrep]
        rw [hcomplete, h1, hrep]
        unfold State.onStore
        rw [hload]
        show State.postTo p _ _ _ _ { s.dropResv p with store := { v.store with
          map := _, pinTotal := _, slots := (s.store.slots.set p (.closing l)).set p .closed } } = _
        rw [hslots]
        rfl
      refine (State.done_answer hh rfl (hbody.trans (congrArg (State.answer · .accepted) hstate)) (by exact hn)).trans ?_
      have ho : l.outcome s.store.pinTotal = if l.pin = false then 0 else if s.store.pinTotal + l.pages ≤ 3072 then 1 else 2 := by
        unfold Load.outcome
        cases l.pin <;> simp
      rw [ho]
      rfl
  · exact State.done_refusal hh rfl (noArgs_args hp _ _) hg.2.2
  · refine State.done_refusal hh rfl ?_ hg.2.2
    rw [hp, noArgs_nil]
    unfold loadAbortBody
    rw [show (s.dropResv p).store.slots.get p = .closed from hl]
  · refine State.done_refusal hh rfl ?_ hg.2.2
    rw [hp, noArgs_nil]
    unfold loadAbortBody
    rw [show (s.dropResv p).store.slots.get p = .closing l from hl]
  · obtain ⟨hbl, hb, hn⟩ := hg
    obtain ⟨links, hab⟩ := Store.aborted_of_good hb hbl he hf p
    have hbody : noArgs h.payload (s.dropResv p) (loadAbortBody p) = ((s.dropResv p).onStore (Store.aborted p l)).answer .ok := by
      rw [hp, noArgs_nil, loadAbortBody_opened (s := s.dropResv p) hl]
    have hstore : ((s.dropResv p).onStore (Store.aborted p l)).store = _ := hab
    refine ⟨_, State.done_answer hh rfl hbody ?_, ?_, fun q hq => ?_, (congrArg Store.slots hstore :), (congrArg Store.map hstore :),
      (congrArg Store.freeList hstore :), (congrArg Store.filling hstore :), fun hd => ?_, fun hd w rest hw => ?_, rfl, ?_⟩
    · rw [hstore]
      exact hn
    · rw [State.withReply_port, if_pos rfl]
      simp only [State.onStore_ports, State.dropResv, State.onPort_ports, Tab.get_modify_self]
    · rw [State.withReply_other hq.symm]
      exact Tab.get_modify_other hq.symm _
    · refine (congrArg Store.eligible hstore :).trans ?_
      unfold Store.discardLines
      rw [hd]
      rfl
    · refine (congrArg Store.eligible hstore :).trans ?_
      unfold Store.discardLines
      rw [hd, hw]
      dsimp only
      rw [if_pos rfl]
      by_cases hk : w.slot = some p <;> simp [hk]
    · rw [show (State.withReply p h .ok [] ((s.dropResv p).onStore (Store.aborted p l))).store = _ from hab]
      rfl

end Sys2Proof.Machine
end

section
/-! SUPPORT. LOAD-OPEN (R12): its arguments, its tests in order, and the entry it takes. -/

namespace Sys2Proof.Machine

variable {s t : State} {p : Port} {c : Command} {h : InHand} {bs : List Byte} {st : Store} {n : EntryNo} {e : Entry} {x : LoadOpenArgs}

theorem clipKindOf_clipKindCode (k : ClipKind) : clipKindOf (byteOf (clipKindCode k)).toNat = some k := by cases k <;> rfl

theorem loadOpenOf_args (c0 c1 l n0 n1 n2 n3 : Byte) (kind : ClipKind) (pin : Bool) :
    loadOpenOf [c0, c1, byteOf (clipKindCode kind), l, n0, n1, n2, n3, flagByte pin] =
      some ⟨natLE [c0, c1], kind, l.toNat, natLE [n0, n1, n2, n3], pin⟩ := by
  show ((clipKindOf (byteOf (clipKindCode kind)).toNat).bind fun k => (boolOf (flagByte pin)).bind fun b => some _) = _
  rw [clipKindOf_clipKindCode, boolOf_flagByte]
  rfl

theorem loadOpenOf_length (h : loadOpenOf bs = some x) : bs.length = 9 := by
  unfold loadOpenOf at h
  split at h
  · rfl
  · cases h

theorem loadOpenLegal_iff : loadOpenLegal x = true ↔
    x.clip ≠ 0 ∧ x.lang ≤ 63 ∧ 1 ≤ x.len ∧ x.len ≤ 4194304 ∧ (x.kind = .cue ∨ x.len % 2 = 0) := by
  simp only [loadOpenLegal, Bool.and_eq_true, bne_iff_ne, decide_eq_true_iff, Bool.or_eq_true, beq_iff_eq, and_assoc]
  rfl

/-- R12 test 3: a clip ID that another slot loads, or that a RETIRING entry holds. -/
theorem Store.loadBusy_iff {clip : Nat} : st.loadBusy p clip = true ↔
    (∃ q, q ≠ p ∧ ∃ l, (st.slots.get q).load = some l ∧ l.clip = clip) ∨
      ∃ n e, st.map.get n = some e ∧ e.state = .retiring ∧ e.clip = clip := by
  unfold Store.loadBusy
  rw [Bool.or_eq_true]
  refine or_congr ?_ ?_
  · rw [List.any_eq_true]
    constructor
    · rintro ⟨q, -, hq⟩
      rw [Bool.and_eq_true, bne_iff_ne] at hq
      obtain ⟨hne, hq⟩ := hq
      cases hl : (st.slots.get q).load with
      | none => rw [hl] at hq; cases hq
      | some l => rw [hl] at hq; exact ⟨q, hne, l, hl, eq_of_beq hq⟩
    · rintro ⟨q, hne, l, hl, hc⟩
      refine ⟨q, mem_indices q, ?_⟩
      rw [Bool.and_eq_true, bne_iff_ne, hl]
      exact ⟨hne, beq_iff_eq.2 hc⟩
  · constructor
    · intro hf
      obtain ⟨⟨n, e⟩, hf⟩ := Option.isSome_iff_exists.1 hf
      obtain ⟨he, ht, -⟩ := Store.findEntry_eq_some.1 hf
      rw [Bool.and_eq_true, beq_iff_eq, beq_iff_eq] at ht
      exact ⟨n, e, he, ht⟩
    · rintro ⟨n, e, he, ht⟩
      rw [Option.isSome_iff_ne_none]
      intro hf
      have := Store.findEntry_eq_none.1 hf n e he
      rw [Bool.eq_false_iff] at this
      exact this (by rw [Bool.and_eq_true, beq_iff_eq, beq_iff_eq]; exact ht)

theorem Store.emptyEntry_eq_some : st.emptyEntry = some n ↔ st.map.get n = none ∧ ∀ m, m < n → st.map.get m ≠ none := by
  unfold Store.emptyEntry
  rw [find?_indices, Option.isNone_iff_eq_none]
  refine and_congr_right fun _ => forall₂_congr fun m _ => ?_
  rw [Bool.eq_false_iff, ne_eq, Option.isNone_iff_eq_none]

theorem Store.emptyEntry_eq_none : st.emptyEntry = none ↔ ∀ n, st.map.get n ≠ none := by
  unfold Store.emptyEntry
  rw [find?_indices_none]
  refine forall_congr' fun n => ?_
  rw [Bool.eq_false_iff, ne_eq, Option.isNone_iff_eq_none]

theorem State.searchMap_of_good (hb : s.store.badMap = []) : s.onStore Store.searchMap = s := by
  unfold State.onStore
  rw [Store.searchMap_of_good hb]

/-! ## Room for the entry -/

theorem State.roomForEntry_empty (hn : s.store.emptyEntry = some n) : s.roomForEntry = some (s, n) := by
  unfold State.roomForEntry
  rw [hn]

theorem State.roomForEntry_full (hb : s.store.badMap = []) (hfull : s.store.emptyEntry = none)
    (hc : ∀ n e, s.store.map.get n = some e → e.candidate = false) : s.roomForEntry = none := by
  unfold State.roomForEntry
  rw [hfull]
  dsimp only
  rw [State.evict_eq hb, State.firstCandidate_none hc]
  rfl

/-- R12, R21: in a full clip map with a candidate the eviction's entry is the empty one. -/
theorem State.roomForEntry_evicts (hb : s.store.badMap = []) (hl : s.store.badLinks = []) (hfull : ∀ n, s.store.map.get n ≠ none)
    (he : s.store.map.get n = some e) (hc : e.candidate = true) : ∃ m f t, s.store.map.get m = some f ∧ f.candidate = true ∧
      s.roomForEntry = some (t, m) ∧ t.store.badMap = [] ∧ t.store.noted = s.store.noted := by
  obtain ⟨m, f, hf, hfc, hfirst, -⟩ := State.firstCandidate_some he hc
  have hfree : ((s.onStore fun st => st.freeEntry m).post .clipEvicted f.clip (f.pageCount.getD 0) 0).store =
      { s.store.freeChain f.firstPage with map := s.store.map.set m none } := Store.freeEntry_of_good hb hf
  have hempty : ((s.onStore fun st => st.freeEntry m).post .clipEvicted f.clip (f.pageCount.getD 0) 0).store.emptyEntry = some m := by
    rw [Store.emptyEntry_eq_some, hfree]
    refine ⟨Tab.get_set_self _ _ _, fun k hk => ?_⟩
    dsimp only
    rw [Tab.get_set_other (Fin.ne_of_gt hk)]
    exact hfull k
  refine ⟨m, f, (s.onStore fun st => st.freeEntry m).post .clipEvicted f.clip (f.pageCount.getD 0) 0, hf, hfc, ?_, ?_, ?_⟩
  · unfold State.roomForEntry
    rw [Store.emptyEntry_eq_none.2 hfull]
    dsimp only
    rw [State.evict_eq hb, hfirst, Option.map_some, Option.bind_some]
    dsimp only
    rw [hempty]
    rfl
  · rw [hfree]
    exact (Store.freeChain_badMap _ _).trans hb
  · rw [hfree]
    exact Store.freeChain_noted hl _

/-! ## The tests in order -/

theorem loadOpenBody_busy (hl : s.store.slots.get p ≠ .closed) : loadOpenBody p bs s = s.answer .refusedState := by
  unfold loadOpenBody
  rw [if_pos]
  cases hx : s.store.slots.get p with
  | closed => exact absurd hx hl
  | opened l => rfl
  | closing l => rfl

theorem loadOpenBody_illegal (hl : s.store.slots.get p = .closed) (hx : (loadOpenOf bs).filter loadOpenLegal = none) :
    loadOpenBody p bs s = s.answer .badArgument := by
  unfold loadOpenBody
  rw [hl, hx]
  rfl

/-- R12: LOAD-OPEN with legal arguments, in a CLOSED slot. -/
theorem loadOpenBody_legal (hb : s.store.badMap = []) (hl : s.store.slots.get p = .closed)
    (hx : (loadOpenOf bs).filter loadOpenLegal = some x) : loadOpenBody p bs s =
      if s.store.loadBusy p x.clip then s.answer .inUse
      else match s.roomForEntry with
        | none => s.answer .full
        | some (s, n) => (s.onStore fun st => (st.putEntry n (some (x.entry p))).setSlot p (.opened (x.load n))).answer .ok := by
  unfold loadOpenBody
  rw [hl, hx, State.searchMap_of_good hb]
  dsimp only [LoadSlot.load]
  refine (if_neg (by nofun)).trans ?_
  split
  · rfl
  · cases hr : s.roomForEntry with
    | none => dsimp only; rw [State.searchMap_of_good hb]
    | some y => rfl

/-- Settles O14. -/
theorem loadOpenTakesASlot : Obligations.LoadOpenTakesASlot := by
  unfold Obligations.LoadOpenTakesASlot
  intro p s h c0 c1 l n0 n1 n2 n3 kind pin clip len load entry legal clash hh hg
  obtain ⟨hbl, hb, hn⟩ := hg
  refine ⟨fun hp hl => ?_, fun hp => ⟨fun hl => ?_, fun hl => ?_⟩⟩
  · refine State.done_refusal hh rfl (loadOpenBody_illegal (s := s.dropResv p) hl ?_) hn
    cases hx : loadOpenOf h.payload with
    | none => rfl
    | some x => exact absurd (loadOpenOf_length hx) hp
  · exact State.done_refusal hh rfl (loadOpenBody_busy (s := s.dropResv p) hl) hn
  · let x : LoadOpenArgs := ⟨clip, kind, l.toNat, len, pin⟩
    have hx : loadOpenOf h.payload = some x := by rw [hp]; exact loadOpenOf_args ..
    have hlegal : loadOpenLegal x = true ↔ legal := loadOpenLegal_iff
    have hclash : (s.dropResv p).store.loadBusy p x.clip = true ↔ clash := Store.loadBusy_iff
    have hb' : (s.dropResv p).store.badMap = [] := hb
    have body (k : legal) := loadOpenBody_legal (s := s.dropResv p) (bs := h.payload) hb' hl
      (x := x) (by rw [hx, Option.filter_some, if_pos (hlegal.2 k)])
    refine ⟨fun k => ?_, fun k hc => ?_, fun k hc => ⟨fun n hfree hlow => ?_, fun hfull => ?_, fun hfull ⟨n, e, he, hcand⟩ => ?_⟩⟩
    · refine State.done_refusal hh rfl (loadOpenBody_illegal (s := s.dropResv p) hl ?_) hn
      rw [hx, Option.filter_some, if_neg fun k' => k (hlegal.1 k')]
    · exact State.done_refusal hh rfl ((body k).trans (if_pos (hclash.2 hc))) hn
    · have hroom : (s.dropResv p).roomForEntry = some (s.dropResv p, n) :=
        State.roomForEntry_empty (Store.emptyEntry_eq_some.2 ⟨hfree, hlow⟩)
      refine State.done_answer hh rfl ((body k).trans ((if_neg fun h => hc (hclash.1 h)).trans ?_)) (by exact hn)
      rw [hroom]
      refine congrArg (State.answer · .ok) (State.onStore_congr ?_)
      rw [Store.putEntry_of_good hb']
      rfl
    · have hroom : (s.dropResv p).roomForEntry = none := by
        refine State.roomForEntry_full hb' (Store.emptyEntry_eq_none.2 fun n h => ?_) fun n e he => ?_
        · obtain ⟨e, he, -⟩ := hfull n
          exact absurd (he.symm.trans h) (by nofun)
        · obtain ⟨f, hf, hfc⟩ := hfull n
          rw [Option.some.inj (he.symm.trans hf)]
          exact hfc
      refine State.done_refusal hh rfl ((body k).trans ((if_neg fun h => hc (hclash.1 h)).trans ?_)) hn
      rw [hroom]
    · obtain ⟨m, f, t, hf, hfc, hroom, hbad, hnoted⟩ := State.roomForEntry_evicts (s := s.dropResv p) hb' hbl hfull he hcand
      let u := t.onStore fun st => (st.putEntry m (some (x.entry p))).setSlot p (.opened (x.load m))
      refine ⟨m, f, _, hf, hfc, State.done_answer hh rfl (t := u) ((body k).trans ((if_neg fun h => hc (hclash.1 h)).trans ?_)) ?_, ?_, ?_,
        State.withReply_slot _ _ _ _ _⟩
      · rw [hroom]
      · exact hnoted.trans hn
      · exact Tab.get_set_self _ _ _
      · exact Tab.get_set_self _ _ _

end Sys2Proof.Machine
end

section
/-! SUPPORT. LOAD-DATA (R13 to R15): its tests in order, the line a piece joins, and the page it takes. -/

namespace Sys2Proof.Machine

variable {s t : State} {p : Port} {h : InHand} {bs piece : List Byte} {st : Store} {l : Load} {page : Page} {off : Nat}

/-! ## The tests in order (R13) -/

theorem loadDataBody_notOpen (hl : ∀ l, s.store.slots.get p ≠ .opened l) : loadDataBody p bs s = s.answer .refusedState := by
  unfold loadDataBody
  split
  · next l h => exact absurd h (hl l)
  · rfl

/-- R13: LOAD-DATA in an OPEN slot, with an offset and a piece. -/
theorem loadDataBody_piece (hl : s.store.slots.get p = .opened l) (hp : takeNumber 4 bs = some (off, piece)) :
    loadDataBody p bs s =
      if piece.length = 0 ∨ 256 < piece.length then s.answer .badArgument
      else if off ≠ l.received then s.answer .outOfOrder
      else if l.len < off + piece.length then s.answer .badArgument
      else if s.store.freeLines < s.store.linesNeeded p l off piece.length then s.answer .wait
      else match s.roomForPiece p l (off + piece.length - 1) with
        | none => (s.onStore Store.searchMap).answer .full
        | some s => (s.acceptPiece p off piece).answer .ok := by
  unfold loadDataBody
  rw [hl, hp] <;> rfl

theorem loadDataBody_short (hl : s.store.slots.get p = .opened l) (hp : bs.length < 5 ∨ 260 < bs.length) :
    loadDataBody p bs s = s.answer .badArgument := by
  cases ht : takeNumber 4 bs with
  | none =>
    unfold loadDataBody
    rw [hl, ht]
  | some x =>
    rw [loadDataBody_piece hl ht, if_pos]
    unfold takeNumber at ht
    split at ht
    · cases ht
    · obtain rfl := Option.some.inj ht
      rw [List.length_drop]
      omega

theorem takeNumber_four (o0 o1 o2 o3 : Byte) (piece : List Byte) :
    takeNumber 4 (o0 :: o1 :: o2 :: o3 :: piece) = some (natLE [o0, o1, o2, o3], piece) := by
  unfold takeNumber
  rw [if_neg (by simp only [List.length_cons]; omega)]
  rfl

/-- R13: a piece that passes the first tests. -/
theorem loadDataBody_fits (hl : s.store.slots.get p = .opened l) (hp : takeNumber 4 bs = some (off, piece)) (hne : piece ≠ [])
    (h256 : piece.length ≤ 256) (hoff : off = l.received) (hlen : off + piece.length ≤ l.len) : loadDataBody p bs s =
      if s.store.freeLines < s.store.linesNeeded p l off piece.length then s.answer .wait
      else match s.roomForPiece p l (off + piece.length - 1) with
        | none => (s.onStore Store.searchMap).answer .full
        | some s => (s.acceptPiece p off piece).answer .ok := by
  have := List.length_pos_of_ne_nil hne
  rw [loadDataBody_piece hl hp, if_neg (by omega), if_neg (not_not.2 hoff), if_neg (by omega)]

/-! ## Free lines and pages (R13 tests 5 and 6) -/

theorem sub_one_ite_le {c : Prop} [Decidable c] (k : Nat) : (if c then k - 1 else k) ≤ k := by
  split
  · exact Nat.sub_le _ _
  · exact Nat.le_refl _

theorem Store.linesNeeded_le (st : Store) (p : Port) (l : Load) (off n : Nat) :
    st.linesNeeded p l off n ≤ (off + n - 1) / 64 + 1 - off / 64 := by
  unfold Store.linesNeeded
  exact sub_one_ite_le _

/-- A slot with no pending line holds none of those that a piece needs. -/
theorem Store.linesNeeded_none (h : ∀ w ∈ st.filling ++ st.eligible, w.slot ≠ some p) (l : Load) (off n : Nat) :
    st.linesNeeded p l off n = (off + n - 1) / 64 + 1 - off / 64 := by
  have held (q : Page) : (st.filling ++ st.eligible).any (fun w => w.isAt p q (lineOf off)) = false := by
    rw [List.any_eq_false]
    intro w hw
    simp [WriteLine.isAt, h w hw]
  unfold Store.linesNeeded
  refine if_neg ?_
  split
  · rw [held]; nofun
  · nofun

/-- A piece within a line that the slot holds needs no new one. -/
theorem Store.linesNeeded_held {w : WriteLine} (hq : (st.loadPages l)[off / 4096]? = some page) (hw : w ∈ st.filling ++ st.eligible)
    (hat : w.isAt p page (lineOf off) = true) {n : Nat} (hn : off % 64 + n ≤ 64) : st.linesNeeded p l off n = 0 := by
  have held : (st.filling ++ st.eligible).any (fun w => w.isAt p page (lineOf off)) = true := List.any_eq_true.2 ⟨w, hw, hat⟩
  unfold Store.linesNeeded
  dsimp only
  rw [hq]
  dsimp only
  refine (if_pos held).trans ?_
  omega

theorem State.roomForPiece_held {c : Chain} {last : Nat} (hc : l.chain = some c) (h : last / 4096 < c.count) :
    s.roomForPiece p l last = some s := by
  unfold State.roomForPiece
  rw [hc]
  exact if_pos h

theorem State.roomForPiece_takes {last : Nat} (h : (l.chain.map (·.count)).getD 0 ≤ last / 4096) (ht : s.store.takePage p l = some st) :
    s.roomForPiece p l last = some (s.onStore fun _ => st) := by
  unfold State.roomForPiece
  rw [ht]
  cases hc : l.chain with
  | none => exact if_neg (Nat.not_lt_zero _)
  | some c => rw [hc] at h; exact if_neg (Nat.not_lt.2 h)

theorem State.roomForPiece_full {last : Nat} (hb : s.store.badMap = []) (h : (l.chain.map (·.count)).getD 0 ≤ last / 4096)
    (hf : s.store.freeList = []) (hc : ∀ n e, s.store.map.get n = some e → e.candidate = false) : s.roomForPiece p l last = none := by
  have ht : s.store.takePage p l = none := by
    unfold Store.takePage
    rw [hf]
  have he : s.evict = none := by rw [State.evict_eq hb, State.firstCandidate_none hc, Option.map_none]
  unfold State.roomForPiece
  rw [ht, he]
  cases hc : l.chain with
  | none => exact if_neg (Nat.not_lt_zero _)
  | some c => rw [hc] at h; exact if_neg (Nat.not_lt.2 h)

/-- R14, R2: the load's chain with the page taken. -/
def Load.longer (l : Load) (q : Page) : Load :=
  { l with chain := some ⟨(l.chain.map (·.first)).getD q, q, (l.chain.map (·.count)).getD 0 + 1⟩ }

/-- R14, R2: the links with the page taken. -/
def Load.linksWith (l : Load) (q : Page) (links : List (Nat × Link)) : List (Nat × Link) :=
  match l.chain with
  | none => setLink links q .last
  | some c => setLink (setLink links q .last) c.last (.next q)

/-- R14: the Clip Store with the page taken, and the rest of the free page list. -/
def Store.paged (st : Store) (p : Port) (l : Load) (q : Page) (rest : List Page) : Store :=
  { st with freeList := rest, links := l.linksWith q st.links, slots := st.slots.set p (.opened (l.longer q)) }

theorem Store.takePage_of_good {q : Page} {rest : List Page} (hb : st.badLinks = []) (hf : st.freeList = q :: rest) (p : Port) (l : Load) :
    st.takePage p l = some (st.paged p l q rest) := by
  obtain ⟨map, links, freeList, pinTotal, seq, slots, filling, eligible, scrub, burst, dram, dramErr, badLinks, badMap, noted⟩ := st
  obtain ⟨entry, clip, kind, len, pin, received, chain⟩ := l
  subst hb hf
  cases chain <;> rfl

theorem linkOf_linksWith {q : Page} {links : List (Nat × Link)} (hw : sparseWf Link.free links = true)
    (hlast : ∀ c, l.chain = some c → c.last ≠ q) (x : Page) : linkOf (l.linksWith q links) x =
      if x = q then .last else if l.chain.map (·.last) = some x then .next q else linkOf links x := by
  have hw' : sparseWf Link.free (setLink links q .last) = true := sparseSet_wf _ _ _ hw
  unfold Load.linksWith
  cases hc : l.chain with
  | none =>
    dsimp only
    rw [linkOf_setLink hw]
    rfl
  | some c =>
    have hne := hlast c hc
    dsimp only [Option.map_some]
    rw [linkOf_setLink hw', linkOf_setLink hw]
    by_cases hx : x = c.last
    · rw [if_pos hx, if_neg (by rw [hx]; exact hne), if_pos (by rw [hx])]
    · rw [if_neg hx]
      refine if_congr Iff.rfl rfl (if_neg fun k => hx ?_).symm
      exact (Option.some.inj k).symm

/-! ## The lines (R15) -/

/-- R15: bytes laid after those of the slot's pending line there, which leaves the other lines. -/
theorem Store.layLine_eq {before : List Byte} {rest : List WriteLine}
    (hb : (match st.filling.find? fun w => w.isAt p page (lineOf off) with
      | some w => w.data.take w.filled
      | none => []) = before)
    (hr : (st.filling.filter fun w => !w.isAt p page (lineOf off)) = rest) (bs : List Byte) (last : Bool) :
    st.layLine p page off bs last =
      let w : WriteLine := ⟨some p, page, lineOf off, before ++ bs ++ List.replicate (64 - (before.length + bs.length)) 0,
        before.length + bs.length⟩
      if before.length + bs.length = 64 ∨ last then { st with filling := rest, eligible := st.eligible ++ [w] }
      else { st with filling := rest ++ [w] } := by
  subst hb hr
  unfold Store.layLine
  simp only [List.length_append] <;> rfl

theorem Store.layLine_frame (st : Store) (p : Port) (page : Page) (off : Nat) (bs : List Byte) (last : Bool) :
    ∃ filling eligible, st.layLine p page off bs last = { st with filling := filling, eligible := eligible } := by
  obtain ⟨before, hb⟩ : ∃ b, (match st.filling.find? fun w => w.isAt p page (lineOf off) with
      | some w => w.data.take w.filled
      | none => []) = b := ⟨_, rfl⟩
  rw [Store.layLine_eq hb rfl]
  dsimp only
  split
  · exact ⟨_, _, rfl⟩
  · exact ⟨_, st.eligible, rfl⟩

/-- R15: a piece within one line is laid there. -/
theorem Store.layPiece_oneLine {pages : List Page} {len : Nat} (hne : piece ≠ []) (h : off % 64 + piece.length ≤ 64)
    (hq : pages[off / 4096]? = some page) (st : Store) :
    Store.layPiece p pages len 6 off piece st = st.layLine p page off piece (off + piece.length == len) := by
  have hpage : pages.getD (off / 4096) 0 = page := by rw [List.getD_eq_getElem?_getD, hq, Option.getD_some]
  have htake : piece.take (64 - off % 64) = piece := List.take_of_length_le (by omega)
  have hdrop : piece.drop (64 - off % 64) = [] := List.drop_eq_nil_of_le (by omega)
  unfold Store.layPiece
  dsimp only
  rw [if_neg (by rw [List.isEmpty_iff]; exact hne), htake, hdrop, hpage]
  rfl

/-- R15: laying bytes changes the write buffer alone. -/
theorem Store.layPiece_frame (p : Port) (pages : List Page) (len fuel off : Nat) (bs : List Byte) (st : Store) :
    ∃ filling eligible, Store.layPiece p pages len fuel off bs st = { st with filling := filling, eligible := eligible } := by
  induction fuel generalizing off bs st with
  | zero => exact ⟨st.filling, st.eligible, rfl⟩
  | succ fuel ih =>
    unfold Store.layPiece
    dsimp only
    split
    · exact ⟨st.filling, st.eligible, rfl⟩
    · obtain ⟨f, e, hf⟩ := ih (off + (bs.take (64 - off % 64)).length) (bs.drop (64 - off % 64))
        (st.layLine p (pages.getD (off / 4096) 0) off (bs.take (64 - off % 64)) (off + (bs.take (64 - off % 64)).length == len))
      refine ⟨f, e, hf.trans ?_⟩
      obtain ⟨f', e', hlay⟩ := Store.layLine_frame st p (pages.getD (off / 4096) 0) off (bs.take (64 - off % 64))
        (off + (bs.take (64 - off % 64)).length == len)
      rw [hlay]

theorem State.acceptPiece_eq (hl : s.store.slots.get p = .opened l) (off : Nat) (piece : List Byte) :
    s.acceptPiece p off piece = s.onStore fun st => (Store.layPiece p (st.loadPages l) l.len 6 off piece st).setSlot p
      (.opened { l with received := l.received + piece.length }) := by
  unfold State.acceptPiece
  rw [hl]

theorem WriteLine.isAt_iff {w : WriteLine} {line : Fin 64} :
    w.isAt p page line = true ↔ w.slot = some p ∧ w.page = page ∧ w.line = line := by
  simp only [WriteLine.isAt, Bool.and_eq_true, beq_iff_eq, and_assoc]

theorem filter_notAt {ws : List WriteLine} {line : Fin 64} (h : ∀ w ∈ ws, ¬(w.slot = some p ∧ w.page = page ∧ w.line = line)) :
    (ws.filter fun w => !w.isAt p page line) = ws :=
  List.filter_eq_self.2 fun w hw => by
    rw [Bool.not_eq_true', Bool.eq_false_iff, ne_eq, WriteLine.isAt_iff]
    exact h w hw

theorem find?_notAt {ws : List WriteLine} {line : Fin 64} (h : ∀ w ∈ ws, ¬(w.slot = some p ∧ w.page = page ∧ w.line = line)) :
    (ws.find? fun w => w.isAt p page line) = none :=
  List.find?_eq_none.2 fun w hw => by
    rw [WriteLine.isAt_iff]
    exact h w hw

/-- R15: a piece within a page of the chain and one line of it, with room in the write buffer. -/
theorem loadDataBody_oneLine {c : Chain} {before : List Byte} {rest : List WriteLine} (hl : s.store.slots.get p = .opened l)
    (hp : takeNumber 4 bs = some (off, piece)) (hne : piece ≠ []) (h256 : piece.length ≤ 256) (hoff : off = l.received)
    (hlen : off + piece.length ≤ l.len) (hc : l.chain = some c) (hcount : off / 4096 < c.count)
    (hq : (s.store.chain c.first)[off / 4096]? = some page) (h64 : off % 64 + piece.length ≤ 64)
    (hroom : s.store.linesNeeded p l off piece.length ≤ s.store.freeLines)
    (hb : (match s.store.filling.find? fun w => w.isAt p page (lineOf off) with
      | some w => w.data.take w.filled
      | none => []) = before)
    (hr : (s.store.filling.filter fun w => !w.isAt p page (lineOf off)) = rest) :
    loadDataBody p bs s = (s.onStore fun st =>
      let w : WriteLine := ⟨some p, page, lineOf off, before ++ piece ++ List.replicate (64 - (before.length + piece.length)) 0,
        before.length + piece.length⟩
      if before.length + piece.length = 64 ∨ off + piece.length = l.len then
        { st with
          filling := rest, eligible := st.eligible ++ [w]
          slots := st.slots.set p (.opened { l with received := l.received + piece.length }) }
      else
        { st with
          filling := rest ++ [w]
          slots := st.slots.set p (.opened { l with received := l.received + piece.length }) }).answer .ok := by
  have hpos := List.length_pos_of_ne_nil hne
  have hpages : s.store.loadPages l = s.store.chain c.first := by
    unfold Store.loadPages
    rw [hc]
  rw [loadDataBody_fits hl hp hne h256 hoff hlen, if_neg (Nat.not_lt.2 hroom),
    State.roomForPiece_held hc (by omega)]
  dsimp only
  rw [State.acceptPiece_eq hl]
  refine congrArg (State.answer · .ok) (State.onStore_congr ?_)
  rw [Store.layPiece_oneLine hne h64 (hpages ▸ hq), Store.layLine_eq hb hr]
  dsimp only [Store.setSlot]
  simp only [beq_iff_eq]
  split <;> rfl

/-- Settles O15. -/
theorem loadDataFillsLinesAndPages : Obligations.LoadDataFillsLinesAndPages := by
  unfold Obligations.LoadDataFillsLinesAndPages
  refine ⟨fun p s h hh hg => ⟨fun hl => ?_, fun l hl => ⟨fun hp => ?_, fun o0 o1 o2 o3 piece hp hne h256 => ?_⟩⟩,
    fun p s h l o0 o1 o2 o3 piece => ?_⟩
  · exact State.done_refusal hh rfl (loadDataBody_notOpen (s := s.dropResv p) hl) hg.2.2
  · exact State.done_refusal hh rfl (loadDataBody_short (s := s.dropResv p) hl hp) hg.2.2
  · intro off
    obtain ⟨-, -, hn⟩ := hg
    have ht : takeNumber 4 h.payload = some (off, piece) := by rw [hp]; exact takeNumber_four ..
    have hpos := List.length_pos_of_ne_nil hne
    have body := loadDataBody_piece (s := s.dropResv p) hl ht
    rw [if_neg (by omega)] at body
    refine ⟨fun ho => ?_, fun ho hlen => ?_, fun ho hlen => ⟨fun hfull hnone => ?_, fun c page hc hcount hq h64 => ?_⟩⟩
    · exact State.done_refusal hh rfl (body.trans (if_pos ho)) hn
    · exact State.done_refusal hh rfl (body.trans ((if_neg (not_not.2 ho)).trans (if_pos hlen))) hn
    · refine State.done_refusal hh rfl ((loadDataBody_fits (s := s.dropResv p) hl ht hne h256 ho hlen).trans (if_pos ?_)) hn
      rw [Store.linesNeeded_none (by exact hnone)]
      show 4 - (s.store.filling.length + s.store.eligible.length) < _
      omega
    · intro line lay
      refine ⟨fun hnew hroom => ?_, fun x a b hx hxs hxp hxl hab => ?_⟩
      · have hfill : ∀ w ∈ s.store.filling, ¬(w.slot = some p ∧ w.page = page ∧ w.line = line) := fun w hw =>
          hnew w (List.mem_append_left _ hw)
        refine State.done_answer hh rfl (t := (s.dropResv p).onStore (lay [] s.store.filling))
          (loadDataBody_oneLine (s := s.dropResv p) hl ht hne h256 ho hlen hc hcount hq h64 ?_ ?_ (filter_notAt hfill)) ?_
        · refine Nat.le_trans (Store.linesNeeded_le _ _ _ _ _) ?_
          show _ ≤ 4 - (s.store.filling.length + s.store.eligible.length)
          omega
        · show (match s.store.filling.find? fun w => w.isAt p page line with
            | some w => w.data.take w.filled
            | none => []) = []
          rw [find?_notAt hfill]
        · show (lay [] s.store.filling s.store).noted = []
          dsimp only [lay]
          split <;> exact hn
      · have hat : x.isAt p page line = true := WriteLine.isAt_iff.2 ⟨hxs, hxp, hxl⟩
        have ha : ∀ w ∈ a, ¬(w.slot = some p ∧ w.page = page ∧ w.line = line) := fun w hw => hab w (List.mem_append_left _ hw)
        have hb : ∀ w ∈ b, ¬(w.slot = some p ∧ w.page = page ∧ w.line = line) := fun w hw => hab w (List.mem_append_right _ hw)
        refine State.done_answer hh rfl (t := (s.dropResv p).onStore (lay (x.data.take x.filled) (a ++ b)))
          (loadDataBody_oneLine (s := s.dropResv p) hl ht hne h256 ho hlen hc hcount hq h64 ?_ ?_ ?_) ?_
        · have hmem : x ∈ s.store.filling ++ s.store.eligible :=
            List.mem_append_left _ (by rw [hx]; exact List.mem_append_right _ List.mem_cons_self)
          rw [Store.linesNeeded_held (st := (s.dropResv p).store) (w := x) (page := page) (by unfold Store.loadPages; rw [hc]; exact hq) hmem hat h64]
          exact Nat.zero_le _
        · show (match s.store.filling.find? fun w => w.isAt p page line with
            | some w => w.data.take w.filled
            | none => []) = _
          have hfind : ((x :: b).find? fun w => w.isAt p page line) = some x := List.find?_cons_of_pos hat
          rw [hx, List.find?_append, find?_notAt ha, hfind]
          rfl
        · show (s.store.filling.filter fun w => !w.isAt p page line) = _
          rw [hx, List.filter_append, filter_notAt ha, List.filter_cons_of_neg (by rw [hat]; nofun), filter_notAt hb]
        · show (lay (x.data.take x.filled) (a ++ b) s.store).noted = []
          dsimp only [lay]
          split <;> exact hn
  · intro off count hh hg hw hl hp hne h256 ho hlen hlines hcount
    obtain ⟨hbl, hb, hn⟩ := hg
    have ht : takeNumber 4 h.payload = some (off, piece) := by rw [hp]; exact takeNumber_four ..
    have hroom : ¬(s.dropResv p).store.freeLines < (s.dropResv p).store.linesNeeded p l off piece.length := by
      refine Nat.not_lt.2 (Nat.le_trans (Store.linesNeeded_le _ _ _ _ _) ?_)
      show _ ≤ 4 - (s.store.filling.length + s.store.eligible.length)
      omega
    have body := (loadDataBody_fits (s := s.dropResv p) hl ht hne h256 ho hlen).trans (if_neg hroom)
    refine ⟨fun q rest hf hlast => ?_, fun hf hc => ?_⟩
    · have htake := Store.takePage_of_good (st := (s.dropResv p).store) hbl hf p l
      rw [State.roomForPiece_takes hcount htake] at body
      dsimp only at body
      rw [State.acceptPiece_eq (l := l.longer q) (Tab.get_set_self _ _ _)] at body
      have hlink := linkOf_linksWith (l := l) (q := q) hw hlast
      generalize hu : State.onStore _ _ = u at body
      have hstore := (congrArg State.store hu).symm
      obtain ⟨f, e, hlay⟩ := Store.layPiece_frame p ((s.store.paged p l q rest).loadPages (l.longer q)) (l.longer q).len 6 off piece
        (s.store.paged p l q rest)
      have hparts : u.store = { s.store with
          freeList := rest, links := l.linksWith q s.store.links, filling := f, eligible := e
          slots := (s.store.slots.set p (.opened (l.longer q))).set p
            (.opened { l.longer q with received := l.received + piece.length }) } :=
        hstore.trans (congrArg (Store.setSlot · p (.opened { l.longer q with received := l.received + piece.length })) hlay)
      refine ⟨_, State.done_answer hh rfl (t := u) body ?_, State.withReply_slot _ _ _ _ _, (congrArg Store.freeList hparts :),
        (congrArg Store.map hparts :), (congrArg Store.dram hparts :), ?_, fun c hc => ?_, fun x hx hxl => ?_, ?_⟩
      · rw [hparts]
        exact hn
      all_goals rw [show (State.withReply p h .ok [] u).store = _ from hparts]
      · exact (hlink q).trans (if_pos rfl)
      · refine (hlink c.last).trans ((if_neg (hlast c hc)).trans (if_pos ?_))
        rw [hc]
        rfl
      · refine (hlink x).trans ((if_neg hx).trans (if_neg fun k => ?_))
        obtain ⟨c, hc, hcl⟩ := Option.map_eq_some_iff.1 k
        exact hxl c hc hcl.symm
      · exact Tab.get_set_self _ _ _
    · rw [State.roomForPiece_full (s := s.dropResv p) hb hcount hf hc, State.searchMap_of_good (by exact hb)] at body
      exact State.done_refusal hh rfl body hn

end Sys2Proof.Machine
end

section
/-! SUPPORT. The DRAM arbiter's grants (R22), by priority. -/

namespace Sys2Proof.Machine

variable {s t : State} {st : Store} {p : Prog} {k : PlayerNo} {page : Page} {n : EntryNo} {e : Entry}

theorem State.fetchWaits_eq_false : s.fetchWaits p = false ↔ ∀ b, s.mix.block.get p = some b → b.want = [] := by
  unfold State.fetchWaits
  cases s.mix.block.get p with
  | none => exact ⟨fun _ _ => nofun, fun _ => rfl⟩
  | some b => simp

theorem State.fetchWaits_of_want {b : Block} (hb : s.mix.block.get p = some b) (hw : b.want ≠ []) : s.fetchWaits p = true := by
  unfold State.fetchWaits
  rw [hb]
  simp [hw]

theorem State.cueWaits_eq_false : s.cueWaits k = false ↔ ∀ y, s.light.players.get k = some y → y.want = [] := by
  unfold State.cueWaits
  cases s.light.players.get k with
  | none => exact ⟨fun _ _ => nofun, fun _ => rfl⟩
  | some y => simp

theorem State.cueWaits_of_want {y : Player} (hy : s.light.players.get k = some y) (hw : y.want ≠ []) : s.cueWaits k = true := by
  unfold State.cueWaits
  rw [hy]
  simp [hw]

/-! ## R22: the clients in order -/

theorem State.grant_busy (h : s.store.burst ≠ none) : s.grant = s := if_pos (Option.isSome_iff_ne_none.2 h)

/-- With the DRAM idle the lowest programme whose fetch waits is granted first. -/
theorem State.grant_fetch (h : s.store.burst = none) (hp : s.fetchWaits p = true) (hlow : ∀ q, q < p → s.fetchWaits q = false) :
    s.grant = s.grantFetch p := by
  have hf : allProgs.find? s.fetchWaits = some p := find?_indices.2 ⟨hp, hlow⟩
  unfold State.grant
  rw [h, hf]
  rfl

theorem State.grant_cue (h : s.store.burst = none) (hno : ∀ q, s.fetchWaits q = false) (hk : s.cueWaits k = true)
    (hlow : ∀ j, j < k → s.cueWaits j = false) : s.grant = s.grantCue k := by
  have hf : allProgs.find? s.fetchWaits = none := find?_indices_none.2 hno
  have hc : ([0, 1, 2] : List PlayerNo).find? s.cueWaits = some k := find?_indices.2 ⟨hk, hlow⟩
  unfold State.grant
  rw [h, hf, hc]
  rfl

/-- With no fetch waiting the scrub queue comes before the write buffer. -/
theorem State.grant_rest (h : s.store.burst = none) (hno : ∀ q, s.fetchWaits q = false) (hcue : ∀ j, s.cueWaits j = false) :
    s.grant = if s.store.scrub.isEmpty then s.grantDrain else s.grantScrub := by
  have hf : allProgs.find? s.fetchWaits = none := find?_indices_none.2 hno
  have hc : ([0, 1, 2] : List PlayerNo).find? s.cueWaits = none := find?_indices_none.2 hcue
  unfold State.grant
  rw [h, hf, hc]
  rfl

theorem State.grantFetch_head {b : Block} {v : Voice} {r : LineReq} {rest : List (Voice × LineReq)} {x : BlockSource}
    (hb : s.mix.block.get p = some b) (hw : b.want = (v, r) :: rest) (hx : b.src.get v = some x) : s.grantFetch p =
      (s.setBlock p (some { b with want := rest })).onStore fun st => { st with burst := some ⟨.fetch p v x.bind r, true⟩ } := by
  unfold State.grantFetch
  rw [hb]
  dsimp only
  rw [hw]
  dsimp only
  rw [hx]
  rfl

theorem State.grantCue_head {y : Player} {r : LineReq} {rest : List LineReq} (hy : s.light.players.get k = some y)
    (hw : y.want = r :: rest) : s.grantCue k =
      (s.setPlayer k (some { y with want := rest })).onStore fun st => { st with burst := some ⟨.cue k y.bind r, true⟩ } := by
  unfold State.grantCue
  rw [hy]
  dsimp only
  rw [hw]
  rfl

/-! ## Scrubs (R27) -/

/-- R27: an entry in READY, DAMAGED or RETIRING whose chain holds a page. -/
def Entry.owns (st : Store) (page : Page) (e : Entry) : Bool :=
  e.state != .loading && match e.firstPage with
    | some q => (st.chain q).contains page
    | none => false

theorem Entry.owns_iff : e.owns st page = true ↔ e.state ≠ .loading ∧ ∃ q, e.firstPage = some q ∧ page ∈ st.chain q := by
  unfold Entry.owns
  rw [Bool.and_eq_true, bne_iff_ne]
  refine and_congr_right fun _ => ?_
  cases e.firstPage with
  | none => exact ⟨nofun, fun ⟨q, h, _⟩ => by cases h⟩
  | some q => simp

theorem Store.ownerOf_eq (h : linkOf st.links page ≠ .free) : st.ownerOf page = st.findEntry (Entry.owns st page) := if_neg h

theorem Store.ownerOf_first (hl : linkOf st.links page ≠ .free) (he : st.map.get n = some e) (ho : e.owns st page = true)
    (hlow : ∀ m, m < n → ∀ f, st.map.get m = some f → f.owns st page = false) : st.ownerOf page = some (n, e) := by
  rw [Store.ownerOf_eq hl]
  exact Store.findEntry_eq_some.2 ⟨he, ho, hlow⟩

theorem Store.ownerOf_none (h : linkOf st.links page = .free ∨ ∀ n e, st.map.get n = some e → e.owns st page = false) :
    st.ownerOf page = none := by
  rcases h with h | h
  · exact if_pos h
  · by_cases hl : linkOf st.links page = .free
    · exact if_pos hl
    · rw [Store.ownerOf_eq hl]
      exact Store.findEntry_eq_none.2 h

/-- R27: the head scrub request, with good parity. -/
theorem State.grantScrub_head {w : WordNo} {rest : List (Page × WordNo)} (hb : s.store.badMap = []) (hl : s.store.badLinks = [])
    (hs : s.store.scrub = (page, w) :: rest) : s.grantScrub =
      match s.store.ownerOf page with
      | none => s.onStore fun st => { st with scrub := rest }
      | some (n, e) => (s.onStore fun st => { st with scrub := rest }).onStore fun st =>
          { st with burst := some ⟨.scrub page w n e.clip, true⟩ } := by
  have hread : (s.onStore fun st => { (st.readLinks [page]).readOwner page with scrub := rest }) =
      s.onStore fun st => { st with scrub := rest } := State.onStore_congr (by
    rw [Store.readLinks_of_good hl, Store.readOwner_of_good hb hl])
  have hown : (s.onStore fun st => { st with scrub := rest }).store.ownerOf page = s.store.ownerOf page := rfl
  unfold State.grantScrub
  rw [hs]
  dsimp only
  rw [hread, hown]
  cases s.store.ownerOf page <;> rfl

/-- Settles O18. -/
theorem grantsGoByPriority : Obligations.GrantsGoByPriority := by
  unfold Obligations.GrantsGoByPriority
  intro s ⟨hl, hb, hn⟩ start holds
  have settled {t : State} (h : s.grant = t) (ht : t.store.noted = []) : exec .dramGrant s = .next t := by
    show s.grant.done = _
    rw [h, State.done_of_noted ht]
  have noFetch {q : Prog} (h : ∀ c, s.mix.block.get q = some c → c.want = []) : s.fetchWaits q = false := State.fetchWaits_eq_false.2 h
  have noCue {j : PlayerNo} (h : ∀ z, s.light.players.get j = some z → z.want = []) : s.cueWaits j = false := State.cueWaits_eq_false.2 h
  refine ⟨fun hbusy => settled (State.grant_busy hbusy) hn, fun hidle => ⟨fun p b v r rest x hp hw hx hlow => ?_, fun hnone =>
    ⟨fun k y r rest hk hw hlow => ?_, fun hcue => ⟨fun page w rest hs => ⟨fun n e ho hlow => ?_, fun ho => ?_⟩, fun hs =>
      ⟨fun w rest he => ?_, fun he => ?_⟩⟩⟩⟩⟩
  · refine settled ((State.grant_fetch hidle (State.fetchWaits_of_want hp (by rw [hw]; nofun)) fun q hq => noFetch (hlow q hq)).trans
      (State.grantFetch_head hp hw hx)) hn
  · refine settled ((State.grant_cue hidle (fun q => noFetch (hnone q)) (State.cueWaits_of_want hk (by rw [hw]; nofun))
      fun j hj => noCue (hlow j hj)).trans (State.grantCue_head hk hw)) hn
  all_goals have hrest := State.grant_rest hidle (fun q => noFetch (hnone q)) fun j => noCue (hcue j)
  · obtain ⟨hlink, hn', hstate, hchain⟩ := ho
    have hown : s.store.ownerOf page = some (n, e) := Store.ownerOf_first hlink hn' (Entry.owns_iff.2 ⟨hstate, hchain⟩) fun m hm f hf =>
      Bool.eq_false_iff.2 fun k => hlow m f hm ⟨hlink, hf, Entry.owns_iff.1 k⟩
    rw [hs] at hrest
    refine settled (hrest.trans ((State.grantScrub_head hb hl hs).trans ?_)) hn
    rw [hown]
  · have hown : s.store.ownerOf page = none := by
      by_cases hlink : linkOf s.store.links page = .free
      · exact Store.ownerOf_none (.inl hlink)
      · exact Store.ownerOf_none (.inr fun n e he => Bool.eq_false_iff.2 fun k => ho n e ⟨hlink, he, Entry.owns_iff.1 k⟩)
    rw [hs] at hrest
    refine settled (hrest.trans ((State.grantScrub_head hb hl hs).trans ?_)) hn
    rw [hown]
  · rw [hs] at hrest
    refine settled (hrest.trans ?_) hn
    show s.grantDrain = _
    unfold State.grantDrain
    rw [he]
    rfl
  · rw [hs] at hrest
    refine settled (hrest.trans ?_) hn
    show s.grantDrain = _
    unfold State.grantDrain
    rw [he]

end Sys2Proof.Machine
end

section
/-! SUPPORT. Drains (R16): the line written, and the load that its last line completes (R18). -/

namespace Sys2Proof.Machine

variable {s t : State} {p : Port} {st : Store} {l : Load} {e : Entry} {w : WriteLine} {rest : List WriteLine}

/-! ## The line written -/

theorem wordKey_inj {p q : Page} {v w : Nat} (hv : v < 512) (hw : w < 512) : wordKey p v = wordKey q w ↔ p = q ∧ v = w := by
  unfold wordKey
  rw [Fin.ext_iff]
  omega

theorem errorOf_setError {errs : List (Nat × Option WordError)} (h : sparseWf none errs = true) {p q : Page} {v w : Nat} (hv : v < 512)
    (hw : w < 512) (x : Option WordError) : errorOf (setError errs p v x) q w = if q = p ∧ w = v then x else errorOf errs q w := by
  unfold errorOf setError
  rw [sparseGet_set _ h]
  exact if_congr (wordKey_inj hw hv) rfl rfl

/-- Words written afresh have no wrong stored bits, and no other word changes. -/
theorem errorOf_foldl_setError (page : Page) (line : Fin 64) (is : List (Fin 8)) {errs : List (Nat × Option WordError)}
    (h : sparseWf none errs = true) (q : Page) (k : WordNo) :
    errorOf (is.foldl (fun m i => setError m page (wordOfLine line i).val none) errs) q k.val =
      if q = page ∧ ∃ i ∈ is, k.val = (wordOfLine line i).val then none else errorOf errs q k.val := by
  induction is generalizing errs with
  | nil => simp
  | cons i is ih =>
    rw [List.foldl_cons, ih (errs := setError errs page (wordOfLine line i).val none) (sparseSet_wf _ _ _ h), errorOf_setError h (wordOfLine line i).isLt k.isLt]
    by_cases hq : q = page <;> by_cases hi : k.val = (wordOfLine line i).val <;> simp [hq, hi]

theorem Store.writeLine_errorOf (h : sparseWf none st.dramErr = true) (w : WriteLine) (q : Page) (k : WordNo) :
    errorOf (st.writeLine w).dramErr q k.val = if q = w.page ∧ k.val / 8 = w.line.val then none else errorOf st.dramErr q k.val := by
  refine (errorOf_foldl_setError w.page w.line (indices 8) h q k).trans (if_congr (and_congr_right fun _ => ?_) rfl rfl)
  constructor
  · rintro ⟨i, -, hi⟩
    rw [hi]
    show (w.line.val * 8 + i.val) / 8 = _
    omega
  · intro hk
    refine ⟨⟨k.val % 8, by omega⟩, mem_indices _, ?_⟩
    show k.val = w.line.val * 8 + k.val % 8
    omega

/-! ## The load completed (R18) -/

/-- What a load's completion leaves of the Clip Store, with good parity. -/
structure LoadKeeps (a b : Store) : Prop where
  dram : b.dram = a.dram
  dramErr : b.dramErr = a.dramErr
  burst : b.burst = a.burst
  eligible : b.eligible = a.eligible
  noted : b.noted = a.noted

theorem LoadKeeps.refl (a : Store) : LoadKeeps a a := ⟨rfl, rfl, rfl, rfl, rfl⟩

theorem LoadKeeps.trans {a b c : Store} (h : LoadKeeps a b) (k : LoadKeeps b c) : LoadKeeps a c :=
  ⟨k.dram.trans h.dram, k.dramErr.trans h.dramErr, k.burst.trans h.burst, k.eligible.trans h.eligible, k.noted.trans h.noted⟩

theorem LoadKeeps.retire {n : EntryNo} (hb : st.badMap = []) (hl : st.badLinks = []) (he : st.map.get n = some e) :
    LoadKeeps st (st.retire n) := by
  rw [Store.retire_of_good hb he]
  dsimp only
  split
  · cases e.firstPage with
    | none => exact ⟨rfl, rfl, rfl, rfl, rfl⟩
    | some q => rw [Store.freeChain_of_good hl]; exact ⟨rfl, rfl, rfl, rfl, rfl⟩
  · exact ⟨rfl, rfl, rfl, rfl, rfl⟩

/-- The standing entry that a load replaces, if there is one. -/
theorem Store.standingOf_cases (st : Store) (clip : Nat) : st.standingOf clip = none ∨
    ∃ n e, st.standingOf clip = some (n, e) ∧ st.map.get n = some e ∧ e.standing = true := by
  cases h : st.standingOf clip with
  | none => exact .inl rfl
  | some x =>
    obtain ⟨he, ht, -⟩ := Store.findEntry_eq_some.1 h
    exact .inr ⟨x.1, x.2, rfl, he, (Bool.and_eq_true _ _ ▸ ht).1⟩

theorem LoadKeeps.replaced (hb : st.badMap = []) (hl : st.badLinks = []) (clip : Nat) : LoadKeeps st (st.replaced clip) := by
  rcases st.standingOf_cases clip with h | ⟨n, e, h, he, -⟩
  · rw [Store.replaced_none hb h]
    exact .refl st
  · rw [Store.replaced_some hb h]
    exact .retire hb hl he

theorem LoadKeeps.loaded (st : Store) (p : Port) (l : Load) : LoadKeeps st (st.loaded p l) := by
  unfold Store.loaded
  cases st.map.get l.entry <;> exact ⟨rfl, rfl, rfl, rfl, rfl⟩

/-- R18: the LOADING entry of a load outlives the entry it replaces. -/
theorem Store.replaced_loading (hb : st.badMap = []) (hl : st.badLinks = []) (clip : Nat) {m : EntryNo} (he : st.map.get m = some e)
    (hs : e.state = .loading) : (st.replaced clip).map.get m = some e ∧ (st.replaced clip).badMap = [] ∧
      (st.replaced clip).seq = st.seq ∧ (st.replaced clip).slots = st.slots := by
  rcases st.standingOf_cases clip with h | ⟨n, f, h, hf, hst⟩
  · rw [Store.replaced_none hb h]
    exact ⟨he, hb, rfl, rfl⟩
  · obtain ⟨rmap, -, rslots, rseq, rbad, -⟩ := Store.retire_parts hb hl hf
    rw [Store.replaced_some hb h, rmap, Tab.get_set_other]
    · exact ⟨he, rbad, rseq, rslots⟩
    · rintro rfl
      rw [Option.some.inj (he.symm.trans hf)] at hs
      rcases Entry.standing_iff.1 hst with k | k <;> rw [k] at hs <;> cases hs

theorem LoadKeeps.completeLoad (hb : s.store.badMap = []) (hl : s.store.badLinks = []) (p : Port) :
    LoadKeeps s.store (s.completeLoad p).store := by
  cases h : (s.store.slots.get p).load with
  | none =>
    unfold State.completeLoad
    rw [h]
    exact .refl _
  | some l =>
    rw [State.completeLoad_eq h]
    exact (LoadKeeps.replaced hb hl l.clip).trans (.loaded _ p l)

/-! ## The line leaves the buffer (R16) -/

/-- R16: a drained line leaves the write buffer. -/
def Store.drained (rest : List WriteLine) (st : Store) : Store := { st with eligible := rest }

theorem LoadKeeps.drainDone (hb : s.store.badMap = []) (hl : s.store.badLinks = []) (he : s.store.eligible = w :: rest) :
    LoadKeeps (s.store.drained rest) s.drainDone.store := by
  unfold State.drainDone
  rw [he]
  dsimp only
  split
  · exact .refl _
  · split
    · split
      · exact LoadKeeps.completeLoad (s := s.onStore (Store.drained rest)) hb hl _
      · exact .refl _
    · exact .refl _

/-- R16, R18: the drain of a CLOSING slot's last pending line. -/
theorem State.drainDone_last (he : s.store.eligible = w :: rest) (hw : w.slot = some p) (hl : s.store.slots.get p = .closing l)
    (hlast : ∀ x ∈ s.store.filling ++ rest, x.slot ≠ some p) : s.drainDone = (s.onStore (Store.drained rest)).completeLoad p := by
  have hpend : ((s.onStore (Store.drained rest)).store.pendingOf p) = [] :=
    List.filter_eq_nil_iff.2 fun x hx => by rw [beq_iff_eq]; exact hlast x hx
  have hslot : (s.onStore (Store.drained rest)).store.slots.get p = .closing l := hl
  unfold State.drainDone
  rw [he]
  dsimp only
  rw [hw]
  dsimp only
  rw [show s.onStore (fun st => { st with eligible := rest }) = s.onStore (Store.drained rest) from rfl, hslot, hpend]
  rfl

/-- R16, R22: the completion of a drain. -/
theorem State.burstDone_drain (noise : List (Fin 8 × WordError)) (hb : s.store.burst = some ⟨.drain w, true⟩) :
    s.burstDone noise = (s.onStore fun st => (st.setBurst none).writeLine w).drainDone := by
  unfold State.burstDone
  rw [hb]
  rfl

/-- Settles O19. -/
theorem drainsWriteAndCompleteALoad : Obligations.DrainsWriteAndCompleteALoad := by
  unfold Obligations.DrainsWriteAndCompleteALoad
  refine ⟨fun noise s w rest hg hburst he hdata hwf herr => ?_, fun noise s w rest p l e hg hburst he hw hslot hlast hentry hstate => ?_⟩
  · obtain ⟨hbl, hb, hn⟩ := hg
    have hkeep := LoadKeeps.drainDone (s := s.onStore fun st => (st.setBurst none).writeLine w) hb hbl he
    have hdram : (s.burstDone noise).store.dram = Memory.writeAll s.store.dram (lineAddress w.page w.line) w.data := by
      rw [State.burstDone_drain noise hburst]
      exact hkeep.dram
    rw [← State.burstDone_drain noise hburst] at hkeep
    refine ⟨s.burstDone noise, State.done_of_noted (hkeep.noted.trans hn), hkeep.burst, hkeep.eligible, fun k hk => ?_, fun a ha => ?_,
      fun q k => ?_⟩
    · rw [hdram, Memory.read_writeAll hwf, hdata]
      unfold lineAddress
      rw [if_pos (by omega), Nat.add_sub_cancel_left]
    · rw [hdram, Memory.read_writeAll hwf, hdata]
      unfold lineAddress
      rw [if_neg (by omega)]
    · rw [hkeep.dramErr]
      exact Store.writeLine_errorOf (st := s.store.setBurst none) herr w q k
  · obtain ⟨hbl, hb, hn⟩ := hg
    let u := (s.onStore fun st => (st.setBurst none).writeLine w).onStore (Store.drained rest)
    have hdone : s.burstDone noise = u.completeLoad p := by
      rw [State.burstDone_drain noise hburst]
      exact State.drainDone_last he hw hslot hlast
    have hload : (u.store.slots.get p).load = some l := by
      rw [show u.store.slots.get p = .closing l from hslot]
      rfl
    obtain ⟨rentry, rbad, rseq, rslots⟩ := Store.replaced_loading (st := u.store) hb hbl l.clip hentry hstate
    have hfinal := Store.loaded_of_good rbad rentry p
    have hcomplete := hdone.trans (State.completeLoad_eq hload)
    have hstore : (s.burstDone noise).store = _ := (congrArg State.store hcomplete).trans hfinal
    have hnoted : (s.burstDone noise).store.noted = [] := by
      rw [hdone]
      exact (LoadKeeps.completeLoad (s := u) hb hbl p).noted.trans hn
    refine ⟨s.burstDone noise, l.ready e (l.pins (u.store.replaced l.clip).pinTotal) (u.store.replaced l.clip).seq,
      State.done_of_noted hnoted, ?_, ?_, rfl, rfl, rfl, rfl, ?_, rfl, fun q hq => ?_, ?_⟩
    · rw [hstore]
      exact Tab.get_set_self _ _ _
    · rw [hstore]
      exact Tab.get_set_self _ _ _
    · exact congrArg some rseq
    · rw [hcomplete]
      exact Tab.get_modify_other hq.symm _
    · rw [hcomplete]
      have hport : ((((u.onStore (Store.replaced l.clip)).onStore (Store.loaded p l)).postTo p .loadDone l.clip l.pages
          (l.outcome (u.store.replaced l.clip).pinTotal)).ports.get p) =
          PortState.receive ⟨.loadDone, l.clip, l.pages, l.outcome (u.store.replaced l.clip).pinTotal, s.ctl.time⟩ (s.ports.get p) :=
        Tab.get_modify_self _ _ _
      rw [hport]
      unfold PortState.receive
      by_cases hlen : (s.ports.get p).queue.length < 16
      · exact .inl ⟨hlen, _, by rw [if_pos (by exact hlen)]; rfl⟩
      · exact .inr ⟨Nat.not_lt.1 hlen, by rw [if_neg (by exact hlen)]⟩

end Sys2Proof.Machine
end

section
/-! SUPPORT. Reads of the DRAM (R23 to R27): the check of a word, sound lines delivered, and scrubs. -/

namespace Sys2Proof.Machine

variable {s t : State} {p : Prog} {k : PlayerNo} {page : Page} {n : EntryNo} {e : Entry} {b : Binding} {r : LineReq}
  {noise : List (Fin 8 × WordError)} {done : List (Option (List Byte))} {i : Fin 8}

/-! ## The check of a word (R24, R25) -/

theorem Store.requestScrub_eq (st : Store) (page : Page) (w : WordNo) : st.requestScrub page w =
    if (page, w) ∈ st.scrub then (st, true)
    else if st.scrub.length < 8 then ({ st with scrub := st.scrub ++ [(page, w)] }, true)
    else (st, false) := rfl

/-- R26: a word with one wrong bit asks for a scrub. -/
theorem State.eccCorrected_eq (page : Page) (w : WordNo) (s : State) : s.eccCorrected page w =
    if (page, w) ∈ s.store.scrub then s.fileFault .eccCorrected page.val w.val
    else if s.store.scrub.length < 8 then
      (s.fileFault .eccCorrected page.val w.val).onStore fun st => { st with scrub := st.scrub ++ [(page, w)] }
    else (s.fileFault .eccCorrected page.val w.val).fileFault .scrubOverflow page.val w.val := by
  have hs : (s.fileFault .eccCorrected page.val w.val).store.scrub = s.store.scrub :=
    congrArg Store.scrub (State.fileFault_store rfl s page.val w.val)
  unfold State.eccCorrected
  dsimp only
  generalize s.fileFault .eccCorrected page.val w.val = t at hs ⊢
  rw [← hs, Store.requestScrub_eq]
  split
  · rfl
  · split <;> rfl

theorem State.readEntry_of_good (hb : s.store.badMap = []) (n : EntryNo) (clip page : Nat) :
    (s.fileFault .eccUncorrected clip page).onStore (fun st => st.readEntry n) = s.fileFault .eccUncorrected clip page := by
  have hs : (s.fileFault .eccUncorrected clip page).store = s.store := State.fileFault_store rfl s clip page
  unfold State.onStore
  dsimp only
  rw [Store.readEntry_of_good (by rw [hs, hb])]

/-- R25: a word with two wrong bits, in an entry that holds the clip in READY. -/
theorem State.eccUncorrected_ready {clip : Nat} (hb : s.store.badMap = []) (he : s.store.map.get n = some e) (hr : e.state = .ready)
    (hc : e.clip = clip) (page : Page) : s.eccUncorrected n clip page =
      ((s.fileFault .eccUncorrected clip page.val).onStore fun st =>
        { st with map := st.map.set n (some { e with state := .damaged }) }).post .clipDamaged clip 0 0 := by
  subst hc
  have hs : (s.fileFault .eccUncorrected e.clip page.val).store = s.store := State.fileFault_store rfl s e.clip page.val
  unfold State.eccUncorrected
  rw [State.readEntry_of_good hb]
  dsimp only
  rw [hs, he]
  dsimp only
  rw [if_pos ⟨hr, rfl⟩]
  refine congrArg (State.post .clipDamaged e.clip 0 0) (State.onStore_congr ?_)
  exact Store.putEntry_of_good (by rw [hs, hb]) _ _

/-- R25: a word with two wrong bits of a clip that its entry no longer holds in READY. -/
theorem State.eccUncorrected_gone {clip : Nat} (hb : s.store.badMap = [])
    (he : ∀ e, s.store.map.get n = some e → e.state = .ready → e.clip ≠ clip) (page : Page) :
    s.eccUncorrected n clip page = s.fileFault .eccUncorrected clip page.val := by
  have hs : (s.fileFault .eccUncorrected clip page.val).store = s.store := State.fileFault_store rfl s clip page.val
  unfold State.eccUncorrected
  rw [State.readEntry_of_good hb]
  dsimp only
  rw [hs]
  cases hm : s.store.map.get n with
  | none => rfl
  | some e => exact if_neg fun h => he e hm h.1 h.2

theorem State.readWord_sound (h : s.store.readError noise r.page (wordOfLine r.line i) = none) :
    State.readWord noise b r (s, done) i = (s, done ++ [some (s.wordBytes r.page (wordOfLine r.line i))]) := by
  unfold State.readWord
  dsimp only
  rw [h]

theorem State.readWord_single (h : s.store.readError noise r.page (wordOfLine r.line i) = some .single) :
    State.readWord noise b r (s, done) i =
      (s.eccCorrected r.page (wordOfLine r.line i), done ++ [some (s.wordBytes r.page (wordOfLine r.line i))]) := by
  unfold State.readWord
  dsimp only
  rw [h]

theorem State.readWord_double (h : s.store.readError noise r.page (wordOfLine r.line i) = some .double) :
    State.readWord noise b r (s, done) i = (s.eccUncorrected b.entry b.clip r.page, done ++ [none]) := by
  unfold State.readWord
  dsimp only
  rw [h]

/-- Settles O21. -/
theorem readsAreChecked : Obligations.ReadsAreChecked := by
  unfold Obligations.ReadsAreChecked
  intro noise b r s done i w err
  refine ⟨fun h => State.readWord_sound h, fun h => ?_, fun h hb => ⟨fun e he hr hc => ?_, fun he => ?_⟩⟩
  · intro t
    rw [State.readWord_single h, State.eccCorrected_eq]
  · rw [State.readWord_double h, State.eccUncorrected_ready hb he hr hc]
  · rw [State.readWord_double h, State.eccUncorrected_gone hb he]

/-! ## Sound lines (R23) -/

theorem readError_sound (st : Store) (page : Page) (w : WordNo) : st.readError [] page w = errorOf st.dramErr page w.val := by
  unfold Store.readError
  rw [List.find?_nil, Option.map_none]
  cases errorOf st.dramErr page w.val with
  | none => rfl
  | some x => cases x <;> rfl

theorem State.readLine_sound (h : ∀ i : Fin 8, errorOf s.store.dramErr r.page (r.line.val * 8 + i.val) = none) (b : Binding) :
    s.readLine [] b r = (s, (indices 8).map fun i => some (s.wordBytes r.page (wordOfLine r.line i))) := by
  have key : ∀ (is : List (Fin 8)) (done : List (Option (List Byte))), is.foldl (State.readWord [] b r) (s, done) =
      (s, done ++ is.map fun i => some (s.wordBytes r.page (wordOfLine r.line i))) := by
    intro is
    induction is with
    | nil => intro done; rw [List.foldl_nil, List.map_nil, List.append_nil]
    | cons i is ih =>
      intro done
      rw [List.foldl_cons, State.readWord_sound ((readError_sound _ _ _).trans (h i)), ih, List.append_assoc]
      rfl
  exact key (indices 8) []

/-- The words of a line, in their places (R1). -/
theorem wordsOfLine_byte (s : State) (r : LineReq) {i k : Nat} (hi : i < 8) (hk : k < 8) :
    ((((indices 8).map fun i => some (s.wordBytes r.page (wordOfLine r.line i))).getD i none).bind fun l => l[k]?) =
      some (Memory.read s.store.dram (r.page.val * 4096 + r.line.val * 64 + i * 8 + k)) := by
  have hget : ((indices 8).map fun i => some (s.wordBytes r.page (wordOfLine r.line i))).getD i none =
      some (s.wordBytes r.page (wordOfLine r.line ⟨i, hi⟩)) := by
    rw [List.getD_eq_getElem?_getD, List.getElem?_map, indices, List.getElem?_ofFn, dif_pos hi]
    rfl
  rw [hget, Option.bind_some]
  unfold State.wordBytes
  rw [Memory.readMany_getElem? _ _ _ _ hk]
  refine congrArg (fun a => some (Memory.read s.store.dram a)) ?_
  show r.page.val * 4096 + (r.line.val * 8 + i) * 8 + k = _
  omega

theorem State.burstDone_fetch {v : Voice} {words : List (Option (List Byte))} (hb : s.store.burst = some ⟨.fetch p v b r, true⟩)
    (hr : (s.onStore fun st => st.setBurst none).readLine noise b r = (t, words)) :
    s.burstDone noise = t.deliverFetch p ⟨v, r.clipLine, words⟩ := by
  unfold State.burstDone
  rw [hb]
  dsimp only
  rw [if_pos rfl, hr]

theorem State.burstDone_cue {words : List (Option (List Byte))} (hb : s.store.burst = some ⟨.cue k b r, true⟩)
    (hr : (s.onStore fun st => st.setBurst none).readLine noise b r = (t, words)) :
    s.burstDone noise = t.deliverCue k ⟨r.clipLine, words⟩ := by
  unfold State.burstDone
  rw [hb]
  dsimp only
  rw [if_pos rfl, hr]

theorem State.burstDone_scrub {w : WordNo} {clip : Nat} (hb : s.store.burst = some ⟨.scrub page w n clip, true⟩) :
    s.burstDone noise = (s.onStore fun st => { st with burst := none }).scrubDone noise page w n clip := by
  unfold State.burstDone
  rw [hb]
  rfl

/-- R22: data that are no longer wanted are discarded. -/
theorem State.burstDone_unwanted {x : Burst} (hb : s.store.burst = some x) (hx : x.wanted = false) (hd : ∀ w, x.job ≠ .drain w) :
    s.burstDone noise = s.onStore fun st => { st with burst := none } := by
  unfold State.burstDone
  rw [hb]
  dsimp only
  rw [hx]
  cases hj : x.job with
  | drain w => exact absurd hj (hd w)
  | fetch p v b r => rfl
  | cue k b r => rfl
  | scrub page w n clip => rfl

theorem State.deliverFetch_wanted {x : Block} (hb : s.mix.block.get p = some x) (g : GotLine) : s.deliverFetch p g =
    s.onMix fun m => { m with
      block := m.block.set p (some { x with got := x.got ++ [g] })
      streak := if x.want = [] then m.streak.set p 0 else m.streak } := by
  unfold State.deliverFetch
  rw [hb]
  dsimp only
  cases hw : x.want with
  | nil => rfl
  | cons y ys => rfl

/-- R149: a player that wants more lines waits for them. -/
theorem State.deliverCue_waits {y : Player} (hk : s.light.players.get k = some y) (hw : y.want ≠ []) (g : CueLine) :
    s.deliverCue k g = s.onLight fun l => { l with players := l.players.set k (some { y with got := y.got ++ [g] }) } := by
  have hset : (s.setPlayer k (some { y with got := y.got ++ [g] })).light.players.get k = some { y with got := y.got ++ [g] } :=
    Tab.get_set_self _ _ _
  unfold State.deliverCue
  rw [hk]
  dsimp only
  unfold State.cueCheck
  rw [hset]
  dsimp only
  rw [if_neg fun h => hw (List.isEmpty_iff.1 h.2.1)]
  rfl

/-- Settles O20. -/
theorem fetchesAndScrubsReadTheDram : Obligations.FetchesAndScrubsReadTheDram := by
  unfold Obligations.FetchesAndScrubsReadTheDram
  refine ⟨fun s hn => ?_, fun noise s page w n clip hg hburst => ?_⟩
  · intro sound idle
    let words (r : LineReq) : List (Option (List Byte)) := (indices 8).map fun i => some (s.wordBytes r.page (wordOfLine r.line i))
    have read (r : LineReq) (h : sound r) (b : Binding) : idle.readLine [] b r = (idle, words r) := State.readLine_sound (s := idle) h b
    have settled {noise : List (Fin 8 × WordError)} {t : State} (h : s.burstDone noise = t) (ht : t.store.noted = []) :
        exec (.burstCompletion noise) s = .next t := by
      show (s.burstDone noise).done = _
      rw [h, State.done_of_noted ht]
    refine ⟨fun p v x r b hburst hs hb => ⟨words r, rfl, fun i k hi hk => wordsOfLine_byte s r hi hk, ?_⟩,
      fun k x r y hburst hs hy hw => ⟨words r, rfl, fun i j hi hj => wordsOfLine_byte s r hi hj, ?_⟩,
      fun noise b hburst hw hd => settled (State.burstDone_unwanted hburst hw hd) hn⟩
    · exact settled ((State.burstDone_fetch hburst (read r hs x)).trans (State.deliverFetch_wanted (s := idle) hb _)) hn
    · exact settled ((State.burstDone_cue hburst (read r hs x)).trans (State.deliverCue_waits (s := idle) hy hw _)) hn
  · intro idle err
    obtain ⟨hbl, hb, hn⟩ := hg
    have settled {t : State} (h : idle.scrubDone noise page w n clip = t) (ht : t.store.noted = []) :
        exec (.burstCompletion noise) s = .next t := by
      show (s.burstDone noise).done = _
      rw [State.burstDone_scrub hburst, h, State.done_of_noted ht]
    have hread : idle.store.readError noise page w = err := rfl
    refine ⟨fun h => settled ?_ hn, fun h => settled ?_ hn, fun h e he hr hc => settled (t := _) ?_ ?_⟩
    · unfold State.scrubDone
      rw [hread, h]
    · unfold State.scrubDone
      rw [hread, h]
    · unfold State.scrubDone
      rw [hread, h]
      exact State.eccUncorrected_ready (s := idle) hb he hr hc page
    · show (idle.fileFault .eccUncorrected clip page.val).store.noted = []
      rw [State.fileFault_store rfl]
      exact hn

end Sys2Proof.Machine
end

section
/-! SUPPORT. Parity failures (R28): which reads note them, and their filing at the end of an event. -/

namespace Sys2Proof.Machine

variable {s t : State} {p : Port} {st : Store} {n : EntryNo} {e : Entry} {page : Page} {h : InHand} {x : LoadOpenArgs}

/-! ## The filing at the end of an event -/

/-- R172: an entry to FALLBACK puts the hub there. -/
theorem State.enterFallback_op (s : State) : s.enterFallback.ctl.op = .fallback := by
  by_cases hop : s.ctl.op = .fallback
  · exact (Drift.enterFallback s).fallback hop
  · unfold State.enterFallback
    rw [if_neg hop]
    have hin : (s.changeOp .fallback .fault).ctl.op = .fallback := rfl
    have hd : Drift (s.changeOp .fallback .fault)
        ((((s.changeOp .fallback .fault).setParkHold none).emptyQueues.annFallback).releaseBeds) :=
      .of (.releaseBeds _) (.of (.annFallback _) (.of (.emptyQueues _) (.setParkHold _ _)))
    refine (Drift.stopPlayers _).fallback ?_
    split
    · exact (Drift.seatRestartPolling _).fallback (hd.fallback hin)
    · exact hd.fallback hin

theorem State.critical_calm (h : s.faults.pending = false ∨ s.ctl.op = .fallback) (k : FaultKind) (d1 : Nat) :
    (s.critical k d1).store = s.store := by
  unfold State.critical
  split
  · next hp =>
    have hop : s.ctl.op = .fallback := h.resolve_left (by rw [hp]; nofun)
    unfold State.enterFallback
    rw [if_pos hop]
  · rfl

/-- Whether a kind of fault is enabled in its bank (R175). -/
def State.faultEnabled (s : State) (k : FaultKind) : Bool := (s.faults.banks.get (bankIndex (faultBank k))).enabled k

/-- R168: a filing's record and its FAULT event, without what a critical one brings about. -/
def State.filed (k : FaultKind) (d1 d2 : Nat) (s : State) : State :=
  let i := bankIndex (faultBank k)
  let b := s.faults.banks.get i
  let t := s.onFaults fun f => { f with banks := f.banks.set i (b.file k (s.faultEnabled k) d1 d2 s.ctl.time) }
  if s.faultEnabled k then t.post .fault i.val (faultNumber k) (flagCode (captures b.record (faultUncorrected k) (s.faultEnabled k))) else t

theorem State.fileFault_eq (k : FaultKind) (d1 d2 : Nat) (s : State) : s.fileFault k d1 d2 =
    if s.faultEnabled k && faultCritical k then (s.filed k d1 d2).critical k d1 else s.filed k d1 d2 := rfl

theorem State.filed_store (k : FaultKind) (d1 d2 : Nat) (s : State) : (s.filed k d1 d2).store = s.store := by
  unfold State.filed
  dsimp only
  split <;> rfl

theorem State.filed_ctl (k : FaultKind) (d1 d2 : Nat) (s : State) : (s.filed k d1 d2).ctl = s.ctl := by
  unfold State.filed
  dsimp only
  split <;> rfl

theorem State.filed_pending (k : FaultKind) (d1 d2 : Nat) (s : State) : (s.filed k d1 d2).faults.pending = s.faults.pending := by
  unfold State.filed
  dsimp only
  split <;> rfl

/-- A filing that takes the hub nowhere leaves the Clip Store. -/
theorem State.fileFault_calm (h : s.faults.pending = false ∨ s.ctl.op = .fallback) (k : FaultKind) (d1 d2 : Nat) :
    (s.fileFault k d1 d2).store = s.store := by
  have hfiled : (s.filed k d1 d2).faults.pending = false ∨ (s.filed k d1 d2).ctl.op = .fallback := by
    rwa [State.filed_pending, State.filed_ctl]
  rw [State.fileFault_eq]
  split
  · exact (State.critical_calm hfiled k d1).trans (State.filed_store k d1 d2 s)
  · exact State.filed_store k d1 d2 s

/-- R172: a critical fault while one is pending takes the hub to FALLBACK. -/
theorem State.fileFault_fallback {k : FaultKind} (hp : s.faults.pending = true) (hk : faultCritical k = true)
    (hen : s.faultEnabled k = true) (d1 d2 : Nat) : s.fileFault k d1 d2 = (s.filed k d1 d2).enterFallback := by
  rw [State.fileFault_eq, hen, hk]
  exact if_pos ((State.filed_pending k d1 d2 s).trans hp)

/-- R171: the first critical fault sets the critical-pending flag. -/
theorem State.fileFault_pending {k : FaultKind} (hp : s.faults.pending = false) (hk : faultCritical k = true)
    (hen : s.faultEnabled k = true) (d1 d2 : Nat) : s.fileFault k d1 d2 =
      ((s.filed k d1 d2).onFaults fun f => { f with pending := true }).post .faultCritical (bankIndex (faultBank k)).val (faultNumber k) d1 := by
  rw [State.fileFault_eq, hen, hk]
  exact if_neg (Bool.eq_false_iff.1 ((State.filed_pending k d1 d2 s).trans hp))

/-- In FALLBACK the noted failures are filed, and nothing else comes of them. -/
theorem State.foldl_fileParity_store (hop : s.ctl.op = .fallback) (xs : List ParityPlace) : (xs.foldl State.fileParity s).store = s.store := by
  induction xs generalizing s with
  | nil => rfl
  | cons x xs ih =>
    rw [List.foldl_cons, ih ((Drift.fileParity s x).fallback hop)]
    cases x with
    | link q => exact State.fileFault_calm (.inr hop) _ _ _
    | map n => exact State.fileFault_calm (.inr hop) _ _ _

/-- What noting does to a state, and the filing undoes. -/
theorem State.onStore_noted (hn : s.store.noted = []) (xs : List ParityPlace) :
    (s.onStore fun st => { st with noted := st.noted ++ xs }).onStore (fun st => { st with noted := [] }) = s := by
  show s.onStore (fun st => { st with noted := [] }) = s
  unfold State.onStore
  rw [← hn]

/-- The failures noted in an event of the hub in FALLBACK. -/
theorem State.settleParity_fallback (hn : s.store.noted = []) (hop : s.ctl.op = .fallback) (xs : List ParityPlace) :
    (s.onStore fun st => { st with noted := st.noted ++ xs }).settleParity = xs.foldl State.fileParity s := by
  have hfile : (s.onStore fun st => { st with noted := st.noted ++ xs }).fileNoted = xs.foldl State.fileParity s := by
    unfold State.fileNoted
    rw [State.onStore_noted hn]
    show (s.store.noted ++ xs).foldl State.fileParity s = _
    rw [hn, List.nil_append]
  unfold State.settleParity
  rw [hfile]
  unfold State.fileNoted
  rw [State.foldl_fileParity_store hop, hn]
  show (xs.foldl State.fileParity s).onStore (fun st => { st with noted := [] }) = _
  unfold State.onStore
  rw [← hn, ← State.foldl_fileParity_store hop xs]

/-- The one failure noted in an event, with the critical-pending flag clear. -/
theorem State.settleParity_single (hn : s.store.noted = []) (hp : s.faults.pending = false) (x : ParityPlace) :
    (s.onStore fun st => { st with noted := st.noted ++ [x] }).settleParity = s.fileParity x := by
  have hfile : (s.onStore fun st => { st with noted := st.noted ++ [x] }).fileNoted = s.fileParity x := by
    unfold State.fileNoted
    rw [State.onStore_noted hn]
    show (s.store.noted ++ [x]).foldl State.fileParity s = _
    rw [hn]
    rfl
  have hstore : (s.fileParity x).store = s.store := by
    cases x with
    | link q => exact State.fileFault_calm (.inl hp) _ _ _
    | map n => exact State.fileFault_calm (.inl hp) _ _ _
  unfold State.settleParity
  rw [hfile]
  unfold State.fileNoted
  rw [hstore, hn]
  show (s.fileParity x).onStore (fun st => { st with noted := [] }) = _
  unfold State.onStore
  rw [← hn, ← hstore]

/-- R172: with a critical fault pending the clip map's failures take the hub to FALLBACK. -/
theorem State.settleParity_pending (hn : s.store.noted = []) (hp : s.faults.pending = true) (hen : s.faultEnabled .mapParity = true)
    (n : EntryNo) (ns : List EntryNo) :
    (s.onStore fun st => { st with noted := st.noted ++ (n :: ns).map .map }).settleParity.ctl.op = .fallback := by
  refine (Drift.fileNoted _).fallback ?_
  unfold State.fileNoted
  rw [State.onStore_noted hn]
  show ((s.store.noted ++ (n :: ns).map ParityPlace.map).foldl State.fileParity s).ctl.op = .fallback
  rw [hn, List.nil_append, List.map_cons, List.foldl_cons]
  refine (Drift.foldl _ Drift.fileParity (ns.map ParityPlace.map) (s.fileParity (.map n))).fallback ?_
  show (s.fileFault .mapParity n.val 0).ctl.op = .fallback
  rw [State.fileFault_fallback hp rfl hen]
  exact State.enterFallback_op _

/-- The entries that a search of the clip map notes. -/
theorem State.noted_badMap {ns : List EntryNo} (hb : s.store.badMap = ns) :
    (s.onStore fun st => { st with noted := st.noted ++ st.badMap.map .map }) =
      s.onStore fun st => { st with noted := st.noted ++ ns.map .map } :=
  State.onStore_congr (f := fun st => { st with noted := st.noted ++ st.badMap.map .map }) (by rw [hb])

theorem foldl_fileParity_map (ns : List EntryNo) (s : State) :
    (ns.map ParityPlace.map).foldl State.fileParity s = ns.foldl (fun t n => t.fileFault .mapParity n.val 0) s :=
  List.foldl_map

/-! ## What the reads note -/

theorem Store.searchMap_noted (st : Store) : st.searchMap.noted = st.noted ++ st.badMap.map .map := rfl

theorem Store.searchMap_searchMap (st : Store) :
    st.searchMap.searchMap = { st with noted := st.noted ++ (st.badMap ++ st.badMap).map .map } := by
  rw [List.map_append, ← List.append_assoc]
  rfl

theorem Store.readEntry_eq (st : Store) (n : EntryNo) : st.readEntry n =
    { st with noted := st.noted ++ if n ∈ st.badMap then [.map n] else [] } := by
  unfold Store.readEntry
  split
  · rfl
  · rw [List.append_nil]

theorem Store.freeChain_notedLinks (st : Store) (q : Page) :
    (st.freeChain (some q)).noted = st.noted ++ ((st.chain q).filter (· ∈ st.badLinks)).map .link := by
  rw [Store.freeChain_some]

theorem Store.lookup_noted (st : Store) (clip : Nat) (accept : ClipKind → Bool) :
    (st.lookup clip accept).1.noted = st.noted ++ st.badMap.map .map := by
  rw [← Store.searchMap_noted]
  unfold Store.lookup
  dsimp only
  generalize st.searchMap = u
  split
  · rfl
  · split
    · rfl
    · split <;> rfl

/-- The link values that a freed entry's chain meets. -/
def Entry.linksMet (st : Store) (e : Entry) : List ParityPlace :=
  match e.firstPage with
  | some q => ((st.chain q).filter (· ∈ st.badLinks)).map ParityPlace.link
  | none => []

theorem Store.freeEntry_noted (he : st.map.get n = some e) : (st.freeEntry n).noted = st.noted ++ e.linksMet st := by
  unfold Store.freeEntry Entry.linksMet
  rw [he]
  show (st.freeChain e.firstPage).noted = _
  cases e.firstPage with
  | none => exact (List.append_nil _).symm
  | some q => exact st.freeChain_notedLinks q

theorem Store.release_noted (he : st.map.get n = some e) : (st.release n).noted =
    st.noted ++ (if n ∈ st.badMap then [.map n] else []) ++ if e.state = .retiring ∧ e.useCount - 1 = 0 then e.linksMet st else [] := by
  unfold Store.release
  rw [Store.readEntry_eq]
  dsimp only
  rw [he]
  dsimp only
  split
  · rw [Store.freeEntry_noted (e := { e with useCount := e.useCount - 1 }) (Tab.get_set_self _ _ _)]
    rfl
  · rw [List.append_nil]
    rfl

theorem Store.readOwner_meets (hl : linkOf st.links page ≠ .free) (hn : n ∈ st.badMap) : ParityPlace.map n ∈ (st.readOwner page).noted := by
  unfold Store.readOwner
  rw [if_neg hl]
  exact List.mem_append_left _ (List.mem_append_right _ (List.mem_map_of_mem hn))

theorem State.firstCandidate_candidate (h : s.firstCandidate = some (n, e)) : s.store.map.get n = some e ∧ e.candidate = true := by
  by_cases hc : ∀ m f, s.store.map.get m = some f → f.candidate = false
  · rw [State.firstCandidate_none hc] at h
    cases h
  · simp only [not_forall, Bool.not_eq_false] at hc
    obtain ⟨m, f, hf, hfc⟩ := hc
    obtain ⟨k, g, hg, hgc, hfirst, -⟩ := State.firstCandidate_some hf hfc
    rw [h] at hfirst
    cases hfirst
    exact ⟨hg, hgc⟩

theorem State.evict_noted (h : s.evict = some t) : ∃ n e, s.store.map.get n = some e ∧ e.candidate = true ∧
    t.store.noted = s.store.noted ++ s.store.badMap.map ParityPlace.map ++ e.linksMet s.store := by
  unfold State.evict at h
  dsimp only at h
  split at h
  · cases h
  · next n e hf =>
    obtain rfl := Option.some.inj h
    obtain ⟨he, hc⟩ := State.firstCandidate_candidate hf
    exact ⟨n, e, he, hc, Store.freeEntry_noted (st := s.store.searchMap) he⟩

theorem State.eccUncorrected_noted (hn : n ∈ s.store.badMap) (clip : Nat) (page : Page) :
    (s.eccUncorrected n clip page).store.noted = s.store.noted ++ [ParityPlace.map n] := by
  have hs : (s.fileFault .eccUncorrected clip page.val).store = s.store := State.fileFault_store rfl s clip page.val
  have hread : ((s.fileFault .eccUncorrected clip page.val).onStore fun st => st.readEntry n).store.noted =
      s.store.noted ++ [ParityPlace.map n] := by
    show ((s.fileFault .eccUncorrected clip page.val).store.readEntry n).noted = _
    rw [hs, Store.readEntry_eq, if_pos hn]
  rw [← hread]
  unfold State.eccUncorrected
  dsimp only
  split
  · rfl
  · split <;> rfl

/-! ## CLIP-QUERY and LOAD-OPEN -/

/-- What CLIP-QUERY's event comes to, before its failures are filed. -/
theorem State.take_clipQuery (hh : s.holds p .clipQuery h) (hl : h.payload.length = 2) :
    (s.take p .clipQuery fun bs s => withWord bs s clipQueryBody) =
      (s.withReply p h .ok (s.store.queryBytes (natLE h.payload))).onStore fun st =>
        { st with noted := st.noted ++ st.badMap.map .map } :=
  (State.take_read_ok hh (by nofun) (withWord_word hl s clipQueryBody)).trans rfl

/-- R12: LOAD-OPEN refused after its searches of the clip map. -/
theorem State.take_loadOpen_refused (hh : s.holds p .loadOpen h) {st : Status} {xs : List ParityPlace}
    (hb : loadOpenBody p h.payload (s.dropResv p) =
      ((s.dropResv p).onStore fun st => { st with noted := st.noted ++ xs }).answer st) :
    (s.take p .loadOpen (loadOpenBody p)) = (s.refusedWrite p h st).onStore fun st => { st with noted := st.noted ++ xs } :=
  State.take_write_answer hh rfl hb

/-- R12: LOAD-OPEN with legal arguments in a CLOSED slot, whatever the parity. -/
theorem loadOpenBody_searched (hx : loadOpenOf h.payload = some x) (hlegal : loadOpenLegal x = true) (hl : s.store.slots.get p = .closed) :
    loadOpenBody p h.payload s =
      if s.store.loadBusy p x.clip then (s.onStore Store.searchMap).answer .inUse
      else match (s.onStore Store.searchMap).roomForEntry with
        | none => ((s.onStore Store.searchMap).onStore Store.searchMap).answer .full
        | some (s, n) => (s.onStore fun st => (st.putEntry n (some (x.entry p))).setSlot p (.opened (x.load n))).answer .ok := by
  unfold loadOpenBody
  rw [hl, hx, Option.filter_some, if_pos hlegal]
  rfl

theorem State.roomForEntry_none (hfull : ∀ n, ∃ e, s.store.map.get n = some e ∧ e.candidate = false) : s.roomForEntry = none := by
  have hempty : s.store.emptyEntry = none := Store.emptyEntry_eq_none.2 fun n h => by
    obtain ⟨e, he, -⟩ := hfull n
    rw [he] at h
    cases h
  have hfirst : (s.onStore Store.searchMap).firstCandidate = none := State.firstCandidate_none fun n e he => by
    obtain ⟨f, hf, hc⟩ := hfull n
    rw [Option.some.inj ((show s.store.map.get n = some e from he).symm.trans hf)]
    exact hc
  unfold State.roomForEntry State.evict
  rw [hempty]
  dsimp only
  rw [hfirst]
  rfl

/-- R27: the grant of a scrub whose page is FREE reads that page's link value alone. -/
theorem State.grantScrub_free {w : WordNo} {rest : List (Page × WordNo)} (hs : s.store.scrub = (page, w) :: rest)
    (hl : linkOf s.store.links page = .free) : s.grantScrub =
      s.onStore fun st => { st with noted := st.noted ++ ([page].filter (· ∈ st.badLinks)).map .link, scrub := rest } := by
  have hread : (s.store.readLinks [page]).readOwner page = s.store.readLinks [page] := if_pos hl
  have hown : ((s.onStore fun st => { (st.readLinks [page]).readOwner page with scrub := rest }).store.ownerOf page) = none := by
    refine Store.ownerOf_none (.inl ?_)
    show linkOf ((s.store.readLinks [page]).readOwner page).links page = .free
    rw [hread]
    exact hl
  unfold State.grantScrub
  rw [hs]
  dsimp only
  rw [hown]
  exact State.onStore_congr (congrArg (fun st : Store => { st with scrub := rest }) hread)

/-- Settles O23. -/
theorem parityFailuresAreFiled : Obligations.ParityFailuresAreFiled := by
  unfold Obligations.ParityFailuresAreFiled
  refine ⟨fun p s h hh hl hn => ?_, fun p s h x hh hx hlegal hslot hn hop => ?_, fun s page w rest hidle hmix hcue hs hlink hbad hn hp => ?_,
    fun st => ?_, fun s t ht => ?_, fun s n clip page hn => State.eccUncorrected_noted hn clip page⟩
  · intro reply
    have hexec : exec (.clipQuery p) s = .next (reply.onStore fun st => { st with noted := st.noted ++ st.badMap.map .map }).settleParity :=
      congrArg State.done (State.take_clipQuery hh hl)
    refine ⟨fun n hbad hp => ⟨?_, fun hen => ?_⟩, fun hbad hp hen => ?_, fun hop => ?_⟩
    · rw [hexec]
      rw [State.noted_badMap (s := reply) hbad]
      exact congrArg Host.Outcome.next (State.settleParity_single (s := reply) hn hp (.map n))
    · have h := State.fileFault_pending (s := reply) (k := .mapParity) hp rfl hen n.val 0
      exact (congrArg (fun u : State => u.faults.pending) h).trans rfl
    · obtain ⟨n, ns, hns⟩ := List.exists_cons_of_ne_nil hbad
      refine ⟨_, hexec, ?_⟩
      rw [State.noted_badMap (s := reply) hns]
      exact State.settleParity_pending (s := reply) hn hp hen n ns
    · rw [hexec]
      refine congrArg Host.Outcome.next ?_
      rw [← foldl_fileParity_map, ← State.settleParity_fallback (s := reply) hn hop]
      rfl
  · have hbody := loadOpenBody_searched (s := s.dropResv p) hx hlegal hslot
    have settled {st : Status} {ns : List EntryNo}
        (hb : loadOpenBody p h.payload (s.dropResv p) =
          ((s.dropResv p).onStore fun st => { st with noted := st.noted ++ ns.map .map }).answer st) :
        exec (.loadOpen p) s = .next (ns.foldl (fun t n => t.fileFault .mapParity n.val 0) (s.refusedWrite p h st)) := by
      show (s.take p .loadOpen (loadOpenBody p)).done = _
      rw [State.take_loadOpen_refused hh hb]
      unfold State.done
      rw [State.settleParity_fallback (s := s.refusedWrite p h st) hn hop, foldl_fileParity_map]
    refine ⟨fun hbusy => settled ?_, fun hbusy hfull => settled ?_⟩
    · exact hbody.trans (if_pos hbusy)
    · have hroom : ((s.dropResv p).onStore Store.searchMap).roomForEntry = none := State.roomForEntry_none hfull
      refine hbody.trans ((if_neg (Bool.eq_false_iff.1 (by exact hbusy))).trans ?_)
      rw [hroom]
      exact congrArg (State.answer · .full) (State.onStore_congr (f := fun st => st.searchMap.searchMap) (Store.searchMap_searchMap _))
  · have hgrant : s.grant = (s.onStore fun st => { st with scrub := rest }).onStore fun st => { st with noted := st.noted ++ [.link page] } := by
      refine (State.grant_rest hidle (fun q => State.fetchWaits_eq_false.2 (hmix q)) fun j => State.cueWaits_eq_false.2 (hcue j)).trans ?_
      rw [hs]
      refine (State.grantScrub_free hs hlink).trans (State.onStore_congr (g := fun st => { st with scrub := rest, noted := st.noted ++ [.link page] }) ?_)
      rw [List.filter_cons_of_pos (by rw [decide_eq_true_iff]; exact hbad)]
      rfl
    show s.grant.done = _
    rw [hgrant]
    exact congrArg Host.Outcome.next (State.settleParity_single (s := s.onStore fun st => { st with scrub := rest }) hn hp (.link page))
  · refine ⟨st.lookup_noted, st.freeChain_notedLinks, fun n e he => ⟨fun hstay => ?_, fun q hr hu hq => ?_⟩, fun b hi => rfl,
      fun page hl n hn => Store.readOwner_meets hl hn, fun n e => rfl, fun p v => rfl⟩
    · have hno : ¬(e.state = .retiring ∧ e.useCount - 1 = 0) := by
        rintro ⟨hr, h0⟩
        rcases hstay with h | h
        · exact h hr
        · omega
      rw [Store.release_noted he, if_neg hno, List.append_nil]
    · have hlast : e.state = .retiring ∧ e.useCount - 1 = 0 := ⟨hr, by omega⟩
      rw [Store.release_noted he, if_pos hlast]
      unfold Entry.linksMet
      rw [hq]
  · obtain ⟨n, e, he, hc, hnoted⟩ := State.evict_noted ht
    exact ⟨n, e, he, hc, hnoted⟩

end Sys2Proof.Machine
end

section
/-! SUPPORT. The points of a forward move (R35, R44): which are gathered, and in which order. -/

namespace Sys2Proof.Machine

variable {r : Route} {old new d : Nat} {l : List (Nat × Point)} {x y : Nat × Point}

theorem crosses_iff {p : Nat} : crosses old new p = true ↔ old < p ∧ p ≤ new := by
  rw [crosses, Bool.and_eq_true, decide_eq_true_iff, decide_eq_true_iff]

/-- R35, R44: the point of a stop that a move gathers, where it gathers one. -/
def Route.stopPoint (r : Route) (old new : Nat) (i : StopNo) : Option (Nat × Point) :=
  (r.stops.get i).bind fun x =>
    if crosses old new x.b then some (x.b, .arrival i (crosses old new x.a))
    else if crosses old new x.a then some (x.a, .approach i)
    else none

/-- R35: the point of a segment that a move gathers, where it gathers one. -/
def Route.segmentPoint (r : Route) (old new : Nat) (i : SegNo) : Option (Nat × Point) :=
  (r.segments.get i).bind fun x => if crosses old new x.t then some (x.t, .trigger i) else none

/-- A point, where there is one, joins those gathered. -/
def addPoint (l : List (Nat × Point)) (o : Option (Nat × Point)) : List (Nat × Point) :=
  match o with
  | none => l
  | some x => insertPoint x.1 x.2 l

theorem gatherStop_eq (r : Route) (old new : Nat) (l : List (Nat × Point)) (i : StopNo) :
    gatherStop r old new l i = addPoint l (r.stopPoint old new i) := by
  unfold gatherStop Route.stopPoint
  cases r.stops.get i with
  | none => rfl
  | some x =>
    rw [Option.bind_some]
    dsimp only
    split
    · rfl
    · split <;> rfl

theorem gatherSegment_eq (r : Route) (old new : Nat) (l : List (Nat × Point)) (i : SegNo) :
    gatherSegment r old new l i = addPoint l (r.segmentPoint old new i) := by
  unfold gatherSegment Route.segmentPoint
  cases r.segments.get i with
  | none => rfl
  | some x =>
    rw [Option.bind_some]
    dsimp only
    split <;> rfl

/-- R35: the points of both tables, stops first, by index. -/
def Route.points (r : Route) (old new : Nat) : List (Option (Nat × Point)) :=
  (indices 64).map (r.stopPoint old new) ++ (indices 256).map (r.segmentPoint old new)

theorem Route.gather_eq (r : Route) (old new : Nat) : r.gather old new = (r.points old new).foldl addPoint [] := by
  have hs : gatherStop r old new = fun l i => addPoint l (r.stopPoint old new i) := by
    funext l i
    exact gatherStop_eq r old new l i
  have hg : gatherSegment r old new = fun l i => addPoint l (r.segmentPoint old new i) := by
    funext l i
    exact gatherSegment_eq r old new l i
  unfold Route.gather Route.points
  rw [hs, hg, List.foldl_append, List.foldl_map, List.foldl_map]

/-! ## Which points are gathered -/

theorem mem_insertPoint {p : Point} : y ∈ insertPoint d p l ↔ y = (d, p) ∨ y ∈ l := by
  induction l with
  | nil => simp [insertPoint]
  | cons z l ih =>
    unfold insertPoint
    split
    · rw [List.mem_cons, ih, List.mem_cons]
      exact or_left_comm
    · exact List.mem_cons

theorem mem_addPoint {o : Option (Nat × Point)} : y ∈ addPoint l o ↔ o = some y ∨ y ∈ l := by
  cases o with
  | none => exact ⟨.inr, fun h => h.resolve_left (by nofun)⟩
  | some x => exact mem_insertPoint.trans (or_congr_left (by rw [Option.some.injEq]; exact eq_comm))

theorem mem_foldl_addPoint {os : List (Option (Nat × Point))} : y ∈ os.foldl addPoint l ↔ some y ∈ os ∨ y ∈ l := by
  induction os generalizing l with
  | nil => exact ⟨.inr, fun h => h.resolve_left (by nofun)⟩
  | cons o os ih =>
    rw [List.foldl_cons, ih, mem_addPoint, List.mem_cons, or_assoc, or_left_comm, eq_comm (a := o)]

theorem Route.mem_gather : y ∈ r.gather old new ↔
    (∃ i, r.stopPoint old new i = some y) ∨ ∃ i, r.segmentPoint old new i = some y := by
  rw [Route.gather_eq, mem_foldl_addPoint]
  unfold Route.points
  rw [List.mem_append, List.mem_map, List.mem_map]
  simp only [mem_indices, true_and, List.not_mem_nil, or_false]

theorem Route.stopPoint_approach {i j : StopNo} : r.stopPoint old new j = some (d, .approach i) ↔
    j = i ∧ ∃ x, r.stops.get i = some x ∧ d = x.a ∧ (old < x.a ∧ x.a ≤ new) ∧ ¬(old < x.b ∧ x.b ≤ new) := by
  unfold Route.stopPoint
  rw [Option.bind_eq_some_iff]
  simp only [← crosses_iff]
  constructor
  · rintro ⟨x, hx, h⟩
    split at h
    · cases h
    · next hb =>
      split at h
      · next ha =>
        cases h
        exact ⟨rfl, x, hx, rfl, ha, hb⟩
      · cases h
  · rintro ⟨rfl, x, hx, rfl, ha, hb⟩
    exact ⟨x, hx, by rw [if_neg hb, if_pos ha]⟩

theorem Route.stopPoint_arrival {i j : StopNo} {both : Bool} : r.stopPoint old new j = some (d, .arrival i both) ↔
    j = i ∧ ∃ x, r.stops.get i = some x ∧ d = x.b ∧ (old < x.b ∧ x.b ≤ new) ∧ (both = true ↔ old < x.a ∧ x.a ≤ new) := by
  unfold Route.stopPoint
  rw [Option.bind_eq_some_iff]
  simp only [← crosses_iff]
  constructor
  · rintro ⟨x, hx, h⟩
    split at h
    · next hb =>
      cases h
      exact ⟨rfl, x, hx, rfl, hb, Iff.rfl⟩
    · split at h <;> cases h
  · rintro ⟨rfl, x, hx, rfl, hb, hboth⟩
    exact ⟨x, hx, by rw [if_pos hb, Bool.eq_iff_iff.2 hboth]⟩

theorem Route.stopPoint_trigger {j : StopNo} {i : SegNo} : r.stopPoint old new j ≠ some (d, .trigger i) := by
  unfold Route.stopPoint
  rw [ne_eq, Option.bind_eq_some_iff]
  rintro ⟨x, -, h⟩
  split at h
  · cases h
  · split at h <;> cases h

theorem Route.segmentPoint_eq_some {j : SegNo} : r.segmentPoint old new j = some y ↔
    ∃ x, r.segments.get j = some x ∧ (old < x.t ∧ x.t ≤ new) ∧ y = (x.t, .trigger j) := by
  unfold Route.segmentPoint
  rw [Option.bind_eq_some_iff]
  refine exists_congr fun x => and_congr_right fun _ => ?_
  rw [← crosses_iff, Option.ite_none_right_eq_some, Option.some.injEq, eq_comm (a := y)]

/-! ## In which order -/

/-- Gathered earlier: stops before segments, and then by index. -/
def gatheredBefore (x y : Nat × Point) : Prop := x.2.rank < y.2.rank ∨ x.2.rank = y.2.rank ∧ x.2.index < y.2.index

/-- A point joins behind those at or below its distance, which were gathered earlier. -/
theorem insertPoint_sorted {p : Point} (hl : l.Pairwise pointBefore) (hk : ∀ y ∈ l, gatheredBefore y (d, p)) :
    (insertPoint d p l).Pairwise pointBefore := by
  induction l with
  | nil => exact List.pairwise_singleton _ _
  | cons z l ih =>
    obtain ⟨hz, hl'⟩ := List.pairwise_cons.1 hl
    unfold insertPoint
    split
    · next hd =>
      refine List.pairwise_cons.2 ⟨fun y hy => ?_, ih hl' fun y hy => hk y (List.mem_cons_of_mem _ hy)⟩
      rcases mem_insertPoint.1 hy with rfl | hy
      · rcases Nat.lt_or_eq_of_le hd with h | h
        · exact .inl h
        · exact .inr ⟨h, hk z List.mem_cons_self⟩
      · exact hz y hy
    · next hd =>
      refine List.pairwise_cons.2 ⟨fun y hy => .inl ?_, hl⟩
      rcases List.mem_cons.1 hy with rfl | hy
      · exact Nat.lt_of_not_le hd
      · have hle : z.1 ≤ y.1 := by
          rcases hz y hy with h | ⟨h, -⟩
          · exact Nat.le_of_lt h
          · exact Nat.le_of_eq h
        exact Nat.lt_of_lt_of_le (Nat.lt_of_not_le hd) hle

/-- A relation between the points that two options hold. -/
def BothBefore (a b : Option (Nat × Point)) : Prop := ∀ x y, a = some x → b = some y → gatheredBefore x y

theorem foldl_addPoint_sorted {os : List (Option (Nat × Point))} (ho : os.Pairwise BothBefore) (hl : l.Pairwise pointBefore)
    (hk : ∀ y ∈ l, ∀ x, some x ∈ os → gatheredBefore y x) : (os.foldl addPoint l).Pairwise pointBefore := by
  induction os generalizing l with
  | nil => exact hl
  | cons o os ih =>
    obtain ⟨hfirst, ho'⟩ := List.pairwise_cons.1 ho
    refine ih ho' ?_ fun y hy x hx => ?_
    · cases o with
      | none => exact hl
      | some x => exact insertPoint_sorted hl fun y hy => hk y hy x List.mem_cons_self
    · rcases mem_addPoint.1 hy with rfl | hy
      · exact hfirst _ hx y x rfl rfl
      · exact hk y hy x (List.mem_cons_of_mem _ hx)

theorem Route.stopPoint_key {i : StopNo} (h : r.stopPoint old new i = some y) : y.2.rank = 0 ∧ y.2.index = i.val := by
  obtain ⟨d, p⟩ := y
  cases p with
  | approach j =>
    obtain ⟨rfl, -⟩ := Route.stopPoint_approach.1 h
    exact ⟨rfl, rfl⟩
  | arrival j both =>
    obtain ⟨rfl, -⟩ := Route.stopPoint_arrival.1 h
    exact ⟨rfl, rfl⟩
  | trigger j => exact absurd h Route.stopPoint_trigger

theorem Route.segmentPoint_key {i : SegNo} (h : r.segmentPoint old new i = some y) : y.2.rank = 1 ∧ y.2.index = i.val := by
  obtain ⟨x, -, -, rfl⟩ := Route.segmentPoint_eq_some.1 h
  exact ⟨rfl, rfl⟩

theorem Route.points_pairwise (r : Route) (old new : Nat) : (r.points old new).Pairwise BothBefore := by
  unfold Route.points
  rw [List.pairwise_append, List.pairwise_map, List.pairwise_map]
  refine ⟨?_, ?_, ?_⟩
  · refine indices_pairwise.imp fun h x y hx hy => .inr ?_
    obtain ⟨hxr, hxi⟩ := Route.stopPoint_key hx
    obtain ⟨hyr, hyi⟩ := Route.stopPoint_key hy
    exact ⟨hxr.trans hyr.symm, by rw [hxi, hyi]; exact h⟩
  · refine indices_pairwise.imp fun h x y hx hy => .inr ?_
    obtain ⟨hxr, hxi⟩ := Route.segmentPoint_key hx
    obtain ⟨hyr, hyi⟩ := Route.segmentPoint_key hy
    exact ⟨hxr.trans hyr.symm, by rw [hxi, hyi]; exact h⟩
  · intro a ha b hb x y hx hy
    refine .inl ?_
    obtain ⟨i, -, rfl⟩ := List.mem_map.1 ha
    obtain ⟨j, -, rfl⟩ := List.mem_map.1 hb
    rw [(Route.stopPoint_key hx).1, (Route.segmentPoint_key hy).1]
    exact Nat.one_pos

theorem Route.gather_sorted (r : Route) (old new : Nat) : (r.gather old new).Pairwise pointBefore := by
  rw [Route.gather_eq]
  exact foldl_addPoint_sorted (r.points_pairwise old new) List.Pairwise.nil (by nofun)

theorem Route.approach_mem_gather {i : StopNo} : (d, Point.approach i) ∈ r.gather old new ↔
    ∃ x, r.stops.get i = some x ∧ d = x.a ∧ (old < x.a ∧ x.a ≤ new) ∧ ¬(old < x.b ∧ x.b ≤ new) := by
  rw [Route.mem_gather]
  simp only [Route.stopPoint_approach, Route.segmentPoint_eq_some, Prod.mk.injEq, reduceCtorEq, and_false, exists_false, or_false,
    exists_eq_left]

theorem Route.arrival_mem_gather {i : StopNo} {both : Bool} : (d, Point.arrival i both) ∈ r.gather old new ↔
    ∃ x, r.stops.get i = some x ∧ d = x.b ∧ (old < x.b ∧ x.b ≤ new) ∧ (both = true ↔ old < x.a ∧ x.a ≤ new) := by
  rw [Route.mem_gather]
  simp only [Route.stopPoint_arrival, Route.segmentPoint_eq_some, Prod.mk.injEq, reduceCtorEq, and_false, exists_false, or_false,
    exists_eq_left]

theorem Route.trigger_mem_gather {i : SegNo} : (d, Point.trigger i) ∈ r.gather old new ↔
    ∃ x, r.segments.get i = some x ∧ d = x.t ∧ old < x.t ∧ x.t ≤ new := by
  rw [Route.mem_gather]
  constructor
  · rintro (⟨j, h⟩ | ⟨j, h⟩)
    · exact absurd h Route.stopPoint_trigger
    · obtain ⟨x, hx, hc, he⟩ := Route.segmentPoint_eq_some.1 h
      cases he
      exact ⟨x, hx, rfl, hc⟩
  · rintro ⟨x, hx, rfl, hc⟩
    exact .inr ⟨i, Route.segmentPoint_eq_some.2 ⟨x, hx, hc, rfl⟩⟩

/-- Settles O24. -/
theorem pointsAreGatheredInOrder : Obligations.PointsAreGatheredInOrder := by
  unfold Obligations.PointsAreGatheredInOrder
  exact fun r old new => ⟨r.gather_sorted old new, fun _ _ => Route.approach_mem_gather, fun _ _ _ => Route.arrival_mem_gather,
    fun _ _ => Route.trigger_mem_gather⟩

end Sys2Proof.Machine
end

section
/-! SUPPORT. What the hub's own work, within an event, leaves of the Clip Store's parity, of the Route Unit and of the event queues: no
parity check fails, the cursor and the stops stay, a segment's record changes only while it is TRIGGERED (R52), and events join at the
tail. -/

namespace Sys2Proof.Machine

variable {s t u : State} {st : Store}

/-! ## Parity (R28) -/

/-- Good parity of the two tables, and no failure noted. -/
def Store.Good (st : Store) : Prop := st.badLinks = [] ∧ st.badMap = [] ∧ st.noted = []

namespace Store.Good

theorem searchMap (h : st.Good) : st.searchMap.Good := by
  rw [Store.searchMap_of_good h.2.1]
  exact h

theorem readEntry (h : st.Good) (n : EntryNo) : (st.readEntry n).Good := by
  rw [Store.readEntry_of_good h.2.1]
  exact h

theorem readLinks (h : st.Good) (ps : List Page) : (st.readLinks ps).Good := by
  rw [Store.readLinks_of_good h.1]
  exact h

theorem putEntry (h : st.Good) (n : EntryNo) (e : Option Entry) : (st.putEntry n e).Good := by
  rw [Store.putEntry_of_good h.2.1]
  exact h

theorem freeChain (h : st.Good) (o : Option Page) : (st.freeChain o).Good := by
  cases o with
  | none => exact h
  | some q =>
    rw [Store.freeChain_of_good h.1]
    exact h

theorem freeEntry (h : st.Good) (n : EntryNo) : (st.freeEntry n).Good := by
  unfold Store.freeEntry
  split
  · exact h
  · exact (h.freeChain _).putEntry _ _

theorem release (h : st.Good) (n : EntryNo) : (st.release n).Good := by
  unfold Store.release
  have hr := h.readEntry n
  dsimp only
  split
  · exact hr
  · have hp := hr.putEntry n
    split
    · exact (hp _).freeEntry n
    · exact hp _

theorem lookup (h : st.Good) (clip : Nat) (accept : ClipKind → Bool) : (st.lookup clip accept).1.Good := by
  unfold Store.lookup
  have hs := h.searchMap
  dsimp only
  split
  · exact hs
  · split
    · exact hs
    · split
      · dsimp only
        rw [Store.putEntry_of_good hs.2.1]
        exact hs
      · exact hs

theorem dropCue (h : st.Good) (k : PlayerNo) : (st.dropCue k).Good := by
  unfold Store.dropCue
  split
  · exact h
  · exact h

end Store.Good

/-! ## Segments (R52) -/

/-- What becomes of a segment record while its items play: only a TRIGGERED one changes, and it stays TRIGGERED or is FINISHED. -/
def SegmentRuns (a b : Option Segment) : Prop :=
  b = a ∨ ∃ x y, a = some x ∧ b = some y ∧ x.state = .triggered ∧ (y.state = .triggered ∨ y.state = .finished) ∧
    { y with state := x.state, outstanding := x.outstanding, played := x.played } = x

theorem SegmentRuns.refl (a : Option Segment) : SegmentRuns a a := .inl rfl

theorem SegmentRuns.trans {a b c : Option Segment} (h : SegmentRuns a b) (k : SegmentRuns b c) : SegmentRuns a c := by
  rcases k with rfl | ⟨y, z, hy, hz, hys, hzs, hzy⟩
  · exact h
  · rcases h with rfl | ⟨x, y', hx, hy', hxs, -, hyx⟩
    · exact .inr ⟨y, z, hy, hz, hys, hzs, hzy⟩
    · obtain rfl := Option.some.inj (hy.symm.trans hy')
      refine .inr ⟨x, z, hx, hz, hxs, hzs, ?_⟩
      calc { z with state := x.state, outstanding := x.outstanding, played := x.played }
        _ = { { z with state := y.state, outstanding := y.outstanding, played := y.played } with
              state := x.state, outstanding := x.outstanding, played := x.played } := rfl
        _ = x := by rw [hzy, hyx]

theorem SegmentRuns.of_not_triggered {a b : Option Segment} (h : SegmentRuns a b) (ha : ∀ x, a = some x → x.state ≠ .triggered) :
    b = a := by
  rcases h with h | ⟨x, -, hx, -, hs, -⟩
  · exact h
  · exact absurd hs (ha x hx)

/-- A TRIGGERED segment runs on or is FINISHED, its record the same. -/
theorem SegmentRuns.of_triggered {b : Option Segment} {x : Segment} (h : SegmentRuns (some x) b) (hx : x.state = .triggered) :
    ∃ y, b = some y ∧ (y.state = .triggered ∨ y.state = .finished) ∧
      { y with state := x.state, outstanding := x.outstanding, played := x.played } = x := by
  rcases h with rfl | ⟨x', y, hx', hy, -, hs, hr⟩
  · exact ⟨x, rfl, .inl hx, rfl⟩
  · obtain rfl := Option.some.inj hx'
    exact ⟨y, hy, hs, hr⟩

/-! ## The hub's own work -/

/-- An event received joins at the tail of its queue, or is lost. -/
theorem PortState.receive_prefix (e : Event) (ps : PortState) : ps.queue <+: (ps.receive e).queue := by
  unfold PortState.receive
  split
  · exact List.prefix_append _ _
  · exact List.prefix_refl _

/-- What the hub's own work, within an event, leaves of the Clip Store's parity, of the Route Unit and of the event queues. -/
structure Inner (s t : State) : Prop where
  good : s.store.Good → t.store.Good
  cursor : t.route.cursor = s.route.cursor
  stops : t.route.stops = s.route.stops
  segments : ∀ i, SegmentRuns (s.route.segments.get i) (t.route.segments.get i)
  queues : ∀ p, (s.ports.get p).queue <+: (t.ports.get p).queue

namespace Inner

theorem refl (s : State) : Inner s s := ⟨id, rfl, rfl, fun _ => .refl _, fun _ => List.prefix_refl _⟩

theorem trans (h : Inner s t) (k : Inner t u) : Inner s u :=
  ⟨k.good ∘ h.good, k.cursor.trans h.cursor, k.stops.trans h.stops, fun i => (h.segments i).trans (k.segments i),
    fun p => (h.queues p).trans (k.queues p)⟩

theorem of (k : Inner t u) (h : Inner s t) : Inner s u := h.trans k

theorem foldl {γ : Type} {f : State → γ → State} (h : ∀ s x, Inner s (f s x)) (l : List γ) (s : State) : Inner s (l.foldl f s) := by
  induction l generalizing s with
  | nil => exact refl s
  | cons x l ih => exact (h s x).trans (ih _)

theorem ite {c : Prop} [Decidable c] (h : Inner s t) (k : Inner s u) : Inner s (if c then t else u) := by
  split
  · exact h
  · exact k

/-- What touches neither the Route Unit nor the Clip Store, and lets events join at the tails of their queues. -/
theorem events (hr : t.route = s.route) (hs : t.store = s.store) (hp : ∀ p, (s.ports.get p).queue <+: (t.ports.get p).queue) :
    Inner s t :=
  ⟨fun h => hs ▸ h, by rw [hr], by rw [hr], fun i => by rw [hr]; exact .refl _, hp⟩

/-- What touches neither the Route Unit nor the Clip Store nor the ports. -/
theorem same (hr : t.route = s.route) (hs : t.store = s.store) (hp : t.ports = s.ports) : Inner s t :=
  events hr hs fun p => by rw [hp]

theorem onStore (s : State) {f : Store → Store} (h : ∀ st, Store.Good st → (f st).Good) : Inner s (s.onStore f) :=
  ⟨h s.store, rfl, rfl, fun _ => .refl _, fun _ => List.prefix_refl _⟩

theorem release (s : State) (n : EntryNo) : Inner s (s.onStore fun st => st.release n) := onStore s fun _ h => h.release n

/-- A lookup, whose store takes the place of the old one. -/
theorem lookup (s : State) (clip : Nat) (accept : ClipKind → Bool) : Inner s (s.onStore fun _ => (s.store.lookup clip accept).1) :=
  ⟨fun h => h.lookup clip accept, rfl, rfl, fun _ => .refl _, fun _ => List.prefix_refl _⟩

theorem post (s : State) (k : EventKind) (a b c : Nat) : Inner s (s.post k a b c) :=
  events rfl rfl fun p => by
    rw [State.post_get]
    split
    · exact PortState.receive_prefix _ _
    · exact List.prefix_refl _

theorem touch (s : State) (r : RecName) : Inner s (s.touch r) :=
  events rfl rfl fun p => by
    unfold State.touch
    rw [State.onPorts_ports, Tab.get_map]
    split <;> exact List.prefix_refl _

theorem onSeat (s : State) (f : SeatLink → SeatLink) : Inner s (s.onSeat f) := same rfl rfl rfl

theorem onVoice (s : State) (p : Prog) (v : Voice) (f : VoiceState → VoiceState) : Inner s (s.onVoice p v f) := same rfl rfl rfl

theorem onAnn (s : State) (f : Announcer → Announcer) : Inner s (s.onAnn f) := same rfl rfl rfl

theorem onCom (s : State) (f : Commentary → Commentary) : Inner s (s.onCom f) := same rfl rfl rfl

theorem setQueue (s : State) (p : Prog) (q : List Item) : Inner s (s.setQueue p q) := same rfl rfl rfl

theorem setPlayer (s : State) (k : PlayerNo) (x : Option Player) : Inner s (s.setPlayer k x) := same rfl rfl rfl

theorem setLayer (s : State) (l : LayerNo) (x : Layer) : Inner s (s.setLayer l x) := ite (refl s) (.of (touch _ _) (same rfl rfl rfl))

/-! ### Commentary -/

/-- A change of the record of a TRIGGERED segment. -/
theorem setSegment (s : State) {i : SegNo} {x y : Segment} (hx : s.route.segments.get i = some x) (ht : x.state = .triggered)
    (hy : y.state = .triggered ∨ y.state = .finished)
    (hr : { y with state := x.state, outstanding := x.outstanding, played := x.played } = x) : Inner s (s.setSegment i (some y)) := by
  have hset : Inner s (s.onRoute fun r => { r with segments := r.segments.set i (some y) }) := by
    refine ⟨id, rfl, rfl, fun j => ?_, fun _ => List.prefix_refl _⟩
    show SegmentRuns _ ((s.route.segments.set i (some y)).get j)
    rw [Tab.get_set]
    split
    · next e =>
      subst e
      exact .inr ⟨x, y, hx, rfl, ht, hy, hr⟩
    · exact .refl _
  exact ite (refl s) (.of (touch _ _) hset)

theorem settleSegment (s : State) (i : SegNo) : Inner s (s.settleSegment i) := by
  unfold State.settleSegment
  split
  · next x hx =>
    split
    · next h => exact .of (post _ _ _ _ _) (setSegment s hx h.1 (.inr rfl) rfl)
    · exact refl s
  · exact refl s

theorem reportItem (s : State) (i : SegNo) (o : ItemOutcome) : Inner s (s.reportItem i o) := by
  unfold State.reportItem
  split
  · next x hx =>
    split
    · next h => exact .of (settleSegment _ _) (setSegment s hx h (.inl h) rfl)
    · exact refl s
  · exact refl s

theorem itemLeft (s : State) (p : Prog) (o : ItemOutcome) (x : Item) : Inner s (s.itemLeft p o x) := by
  have h : Inner s ((if x.playing then s.onVoice p .commentary VoiceState.unbind else s).onStore fun st => st.release x.bind.entry) :=
    .of (release _ _) (ite (onVoice _ _ _ _) (refl s))
  exact ite h (.of (reportItem _ _ _) h)

theorem removeItems (s : State) (p : Prog) (f : Item → Bool) (o : ItemOutcome) : Inner s (s.removeItems p f o) :=
  .of (foldl (fun s x => itemLeft s p o x) _ _) (setQueue s p _)

theorem emptyQueue (s : State) (p : Prog) : Inner s (s.emptyQueue p) := removeItems s p _ _

theorem emptyQueues (s : State) : Inner s s.emptyQueues := foldl emptyQueue _ s

theorem cancelWaiting (s : State) (d : Nat) (orphan : Bool) : Inner s (s.cancelWaiting d orphan) := by
  have h : Inner s (langProgs.foldl (fun s p => s.removeItems p (fun x => !x.playing) .cancelled) s) :=
    foldl (fun s p => removeItems s p _ _) _ s
  unfold State.cancelWaiting
  exact .of (onCom _ _) h

theorem lateTest (s : State) (d : Nat) : Inner s (s.lateTest d) := foldl (fun s p => removeItems s p (Item.isLate d) .late) _ s

theorem placeItem (s : State) (p : Prog) (x : Item) : Inner s (s.placeItem p x).1 := by
  unfold State.placeItem
  dsimp only
  split
  · exact setQueue s p _
  · split
    · dsimp only
      exact .of (onCom _ _) (.of (itemLeft _ _ _ _) (setQueue s p _))
    · exact release s _

/-! ### Lights -/

theorem readTo (s : State) (b : Binding) (hi : Nat) : Inner s (s.onStore fun st => st.readTo b hi) := onStore s fun _ h => h.readLinks _

theorem cueFetch (s : State) (k : PlayerNo) (q : Player) (lo hi : Nat) : Inner s (s.cueFetch k q lo hi) :=
  .of (setPlayer _ _ _) (readTo s _ _)

theorem playerStop (s : State) (k : PlayerNo) : Inner s (s.playerStop k) := by
  unfold State.playerStop
  split
  · exact refl s
  · exact .of (onStore _ fun _ h => (h.dropCue k).release _) (setPlayer s k none)

theorem stopPlayers (s : State) : Inner s s.stopPlayers := .of (playerStop _ _) (.of (playerStop _ _) (playerStop s _))

theorem playerStart (s : State) (k : PlayerNo) (clip : Nat) : Inner s (s.playerStart k clip).1 := by
  unfold State.playerStart
  dsimp only
  split
  · exact .of (post _ _ _ _ _) (.of (lookup _ _ _) (playerStop s k))
  · exact .of (cueFetch _ _ _ _ _) (.of (lookup _ _ _) (playerStop s k))

theorem cueRequest (s : State) (k : PlayerNo) (clip : Option Nat) : Inner s (s.cueRequest k clip) := by
  unfold State.cueRequest
  split
  · exact refl s
  · exact ite (playerStart _ _ _) (refl s)

theorem endStopCue (s : State) : Inner s s.endStopCue := .of (setLayer _ _ _) (playerStop s 2)

/-! ### Beds, and the changes of the operating state -/

theorem bedRelease (s : State) (p : Prog) : Inner s (s.bedRelease p) := by
  unfold State.bedRelease
  split
  · exact refl s
  · exact .of (release _ _) (onVoice s _ _ _)

theorem releaseBeds (s : State) : Inner s s.releaseBeds := foldl bedRelease _ s

theorem changeOp (s : State) (new : OpState) (cause : StateCause) : Inner s (s.changeOp new cause) :=
  .of (post _ _ _ _ _) (same (t := s.onCtl fun c => { c with op := new }) rfl rfl rfl)

theorem setParkHold (s : State) (h : Option ParkHold) : Inner s (s.setParkHold h) := same rfl rfl rfl

theorem decide128 (s : State) (p : Prog) (a : Activity) : Inner s (s.decide128 p a) := .of (post _ _ _ _ _) (onSeat s _)

theorem startHold (s : State) (p : Prog) : Inner s (s.startHold p) := by
  have h : Inner s (s.setHold p (some s.ctl.time)) := onSeat s _
  exact ite (.of (decide128 _ _ _) (.of (onSeat _ _) h)) h

theorem recountOne (s : State) (p : Prog) : Inner s (s.recountOne p) := by
  unfold State.recountOne
  have h : Inner s (s.onSeat fun k => { k with occ := k.occ.set p (s.seat.count127 p) }) := onSeat s _
  have hold := fun u : State => onSeat u fun k => { k with hold := k.hold.set p none }
  exact ite h (ite (.of (startHold _ _) h) (ite (ite (.of (decide128 _ _ _) (.of (hold _) h)) (.of (hold _) h)) h))

theorem recount (s : State) : Inner s s.recount := foldl recountOne _ s

theorem seatStandby (s : State) : Inner s s.seatStandby := .of (recount _) (onSeat s _)

theorem seatRestartPolling (s : State) : Inner s s.seatRestartPolling := onSeat s _

theorem enterStandby (s : State) : Inner s s.enterStandby :=
  .of (stopPlayers _) (.of (seatStandby _) (.of (releaseBeds _) (.of (emptyQueues _) (changeOp s _ _))))

theorem quietCheck (s : State) : Inner s s.quietCheck := ite (enterStandby s) (refl s)

theorem enterPark (s : State) (h : ParkHold) (cause : StateCause) : Inner s (s.enterPark h cause) :=
  .of (quietCheck _) (.of (setParkHold _ _) (changeOp s _ _))

/-! ### Announcements -/

theorem dropItems (s : State) (f : AnnItem → Bool) (r : DropReason) : Inner s (s.dropItems f r) :=
  .of (foldl (fun s _ => post s _ _ _ _) _ _) (onAnn s _)

theorem takeNumber (s : State) : Inner s s.takeNumber.1 := same rfl rfl rfl

theorem findClip (s : State) (clip : Nat) : Inner s (s.findClip clip).1 := lookup s clip audioKind

theorem findChime (chime : Option Nat) (x : State × Tab AnnVoice 13) (p : Prog) : Inner x.1 (findChime chime x p).1 := by
  unfold Machine.findChime
  split
  · exact refl _
  · split
    · exact findClip _ _
    · exact refl _

theorem findSpeech (s : State) (item : AnnItem) (lang : Nat) : Inner s (s.findSpeech item lang).1 := by
  unfold State.findSpeech
  split
  next s' b h =>
  have h' : Inner s s' := by
    split at h
    · next y _ =>
      have := findClip s y.2
      rw [h] at this
      exact this
    · cases h
      exact refl s
  split
  · exact .of (findClip _ _) h'
  · exact h'

theorem findSpeechFor (item : AnnItem) (x : State × Tab AnnVoice 13) (p : Prog) : Inner x.1 (findSpeechFor item x p).1 := by
  unfold Machine.findSpeechFor
  split
  · exact findSpeech _ _ _
  · exact refl _

theorem findPa (x : State × Tab AnnVoice 13) (clip : Nat) : Inner x.1 (findPa x clip).1 := findClip _ _

theorem foldlPair {γ β : Type} {f : State × β → γ → State × β} (h : ∀ x y, Inner x.1 (f x y).1) (l : List γ) (x : State × β) :
    Inner x.1 (l.foldl f x).1 := by
  induction l generalizing x with
  | nil => exact refl _
  | cons y l ih => exact (h x y).trans (ih _)

theorem chooseClips (s : State) (item : AnnItem) : Inner s (s.chooseClips item).1 :=
  .of (foldlPair findPa _ _) (.of (foldlPair (findSpeechFor item) _ _) (foldlPair (findChime item.chime) _ (s, _)))

theorem setDucker (s : State) (b : Bool) : Inner s (s.setDucker b) := ite (refl s) (onAnn s _)

theorem setWindow (s : State) (b : Bool) : Inner s (s.setWindow b) := same rfl rfl rfl

theorem onAnnVoice (s : State) (p : Prog) (f : AnnVoice → AnnVoice) : Inner s (s.onAnnVoice p f) := same rfl rfl rfl

theorem bindAnn (s : State) (p : Prog) (b : Option Binding) : Inner s (s.bindAnn p b) := by
  unfold State.bindAnn
  split
  · exact onVoice s _ _ _
  · exact refl s

theorem leadIn (s : State) (item : AnnItem) (voices : Tab AnnVoice 13) : Inner s (s.leadIn item voices) :=
  .of (setWindow _ _) (.of (cueRequest _ _ _) (.of (foldl (fun s p => bindAnn s p _) _ _) (setDucker s true)))

theorem startCurrent (s : State) (item : AnnItem) : Inner s (s.startCurrent item) :=
  .of (leadIn _ _ _) (.of (onAnn _ _) (.of (chooseClips _ _) (post s _ _ _ _)))

theorem tryStart (s : State) : Inner s s.tryStart := by
  unfold State.tryStart
  split
  · exact ite (.of (startCurrent _ _) (onAnn s _)) (refl s)
  · exact refl s

theorem releaseUses (l : List Binding) (s : State) :
    Inner s (l.foldl (fun s b => s.onStore fun st => st.release b.entry) s) := foldl (fun u _ => release u _) l s

theorem releaseAnn (s : State) (p : Prog) : Inner s (s.releaseAnn p) := by
  unfold State.releaseAnn
  split
  · exact refl s
  · exact .of (onAnnVoice _ _ _) (.of (onVoice _ _ _ _) (releaseUses _ s))

theorem closeCurrent (s : State) (tail : Bool) : Inner s (s.closeCurrent tail) := by
  unfold State.closeCurrent
  split
  · exact refl s
  · have h := of (endStopCue _) (foldl releaseAnn allProgs s)
    exact .of (onAnn _ _) (ite (.of (setWindow _ _) (.of (post _ _ _ _ _) h)) (.of (post _ _ _ _ _) h))

theorem tailStart (s : State) : Inner s s.tailStart := .of (setDucker _ _) (onAnn s _)

theorem speakingEnd (s : State) : Inner s s.speakingEnd := by
  unfold State.speakingEnd
  split
  · exact ite (.of (startCurrent _ _) (.of (onAnn _ _) (closeCurrent s _))) (tailStart s)
  · exact tailStart s

theorem speakingStart (s : State) : Inner s s.speakingStart := by
  unfold State.speakingStart
  split
  · exact refl s
  · exact ite (.of (speakingEnd _) (.of (foldl (fun s p => bindAnn s p _) _ _) (onAnn s _)))
      (.of (foldl (fun s p => bindAnn s p _) _ _) (onAnn s _))

theorem tailEnd (s : State) : Inner s s.tailEnd := .of (quietCheck _) (.of (tryStart _) (closeCurrent s _))

theorem phaseTest (s : State) : Inner s s.phaseTest := by
  unfold State.phaseTest
  split
  · exact refl s
  · split
    · exact ite (speakingStart s) (refl s)
    · exact ite (speakingEnd s) (refl s)
    · exact ite (tailEnd s) (refl s)

theorem stopItemArrives (s : State) (mk : Nat → AnnItem) : Inner s (s.stopItemArrives mk) := by
  have h := takeNumber s
  exact ite (.of (post _ _ _ _ _) h) (ite (.of (post _ _ _ _ _) h) (.of (tryStart _) (.of (onAnn _ _) h)))

theorem dropStops (s : State) : Inner s s.dropStops := .of (quietCheck _) (dropItems s _ _)

theorem dropStop (s : State) (i : StopNo) : Inner s (s.dropStop i) := .of (quietCheck _) (dropItems s _ _)

theorem staleTest (s : State) (d : Nat) : Inner s (s.staleTest d) := .of (quietCheck _) (dropItems s _ _)

theorem cutShort (s : State) (e : AnnEnd) : Inner s (s.cutShort e) := by
  unfold State.cutShort
  split
  · exact refl s
  · exact ite (refl s) (.of (tailStart _) (onAnn s _))

theorem annFallback (s : State) : Inner s s.annFallback := by
  unfold State.annFallback
  have h := dropItems s (fun x => x.kind != .safety) .state
  dsimp only
  split
  · exact h
  · exact ite h (.of (cutShort _ _) h)

/-! ### Faults -/

theorem enterFallback (s : State) : Inner s s.enterFallback := by
  unfold State.enterFallback
  have h : Inner s ((((s.changeOp .fallback .fault).setParkHold none).emptyQueues.annFallback).releaseBeds) :=
    .of (releaseBeds _) (.of (annFallback _) (.of (emptyQueues _) (.of (setParkHold _ _) (changeOp s _ _))))
  dsimp only
  exact ite (refl s) (.of (stopPlayers _) (ite (.of (seatRestartPolling _) h) h))

theorem onFaults (s : State) (f : FaultRecorder → FaultRecorder) : Inner s (s.onFaults f) := same rfl rfl rfl

theorem critical (s : State) (k : FaultKind) (d1 : Nat) : Inner s (s.critical k d1) :=
  ite (enterFallback s) (.of (post _ _ _ _ _) (onFaults s _))

theorem filed (s : State) (k : FaultKind) (d1 d2 : Nat) : Inner s (s.filed k d1 d2) := by
  unfold State.filed
  exact ite (.of (post _ _ _ _ _) (onFaults s _)) (onFaults s _)

theorem fileFault (s : State) (k : FaultKind) (d1 d2 : Nat) : Inner s (s.fileFault k d1 d2) := by
  rw [State.fileFault_eq]
  exact ite (.of (critical _ _ _) (filed s _ _ _)) (filed s _ _ _)

/-! ### The hand-off (R59 to R62) -/

theorem handOne (i : SegNo) (x : Segment) (h : HandOff) (p : Prog) : Inner h.state (handOne i x h p).state := by
  unfold Machine.handOne
  dsimp only
  split
  · exact refl _
  · split
    · exact refl _
    · split
      · exact lookup _ _ _
      · exact .of (placeItem _ _ _) (lookup _ _ _)

theorem takeHandOff (s : State) (i : SegNo) (x : Segment) : Inner s (s.takeHandOff i x).1 := by
  have all (l : List Prog) (h : HandOff) : Inner h.state (l.foldl (Machine.handOne i x) h).state := by
    induction l generalizing h with
    | nil => exact refl _
    | cons p l ih => exact (handOne i x h p).trans (ih _)
  have h : Inner s (if s.engineMode = 0 then langProgs.foldl (Machine.handOne i x) ⟨s, 0, none⟩ else ⟨s, 0, none⟩ : HandOff).state := by
    split
    · exact all langProgs ⟨s, 0, none⟩
    · exact refl s
  unfold State.takeHandOff
  dsimp only
  split
  · exact .of (fileFault _ _ _ _) (.of (onCom _ _) h)
  · exact .of (onCom _ fun c => { c with marks := c.marks.set i false }) h

end Inner

end Sys2Proof.Machine
end

section
/-! SUPPORT. A forward move (R35): what each gathered point does to the two tables, and what the whole move comes to. -/

namespace Sys2Proof.Machine

variable {s t : State} {x : Stop} {y : Segment} {d : Nat} {pt : Nat × Point} {l : List (Nat × Point)} {i : StopNo} {j : SegNo}

/-! ## Frames of the Route Unit's own changes -/

theorem State.setStop_store (s : State) (i : StopNo) (x : Option Stop) : (s.setStop i x).store = s.store := by
  unfold State.setStop
  split <;> rfl

theorem State.setSegment_store (s : State) (i : SegNo) (x : Option Segment) : (s.setSegment i x).store = s.store := by
  unfold State.setSegment
  split <;> rfl

theorem State.setCursor_store (s : State) (c : Cursor) : (s.setCursor c).store = s.store := by
  unfold State.setCursor
  split <;> rfl

/-- R31: the next stop depends on the stops alone. -/
theorem Route.firstOpenStop_congr {a b : Route} (h : a.stops = b.stops) : a.firstOpenStop = b.firstOpenStop := by
  unfold Route.firstOpenStop
  rw [h]

/-- A cursor but for its next stop. -/
def Cursor.place (c : Cursor) : Cursor := { c with nextStop := none }

/-! ## One point (R42 to R44, R51) -/

/-- The stop of a point, if it is one of a stop. -/
def Point.stopOf : Point → Option StopNo
  | .approach i => some i
  | .arrival i _ => some i
  | .trigger _ => none

/-- R42: a stop at its approach point. -/
def Stop.approached (x : Stop) : Stop :=
  if x.state = .ahead ∧ (!x.requestOnly || x.request) = true then { x with state := .approaching } else x

/-- R43, R44: a stop at its arrival point. -/
def Stop.arrived (both : Bool) (x : Stop) : Stop :=
  if x.state = .ahead ∨ x.state = .approaching then
    { x with
      state := if x.state == .approaching || (both && !x.requestOnly) || x.request then .called else .passed
      request := false }
  else x

/-- What the evaluation of a point leaves of everything that the point does not name. -/
structure Evaluates (pt : Nat × Point) (s t : State) : Prop where
  good : s.store.Good → t.store.Good
  cursor : t.route.cursor.place = s.route.cursor.place
  stops : ∀ i, pt.2.stopOf ≠ some i → t.route.stops.get i = s.route.stops.get i
  segments : ∀ j, pt.2 ≠ .trigger j → SegmentRuns (s.route.segments.get j) (t.route.segments.get j)

/-- Work that the Route Unit does not see is the evaluation of any point. -/
theorem Inner.evaluates (h : Inner s t) (pt : Nat × Point) : Evaluates pt s t :=
  ⟨h.good, by rw [h.cursor], fun _ _ => by rw [h.stops], fun j _ => h.segments j⟩

/-- R42, R46: a stop becomes APPROACHING. -/
theorem State.approach_spec (s : State) (i : StopNo) (x : Stop) (d : Nat) :
    Inner ((s.setStop i (some { x with state := .approaching })).recomputeNext) (s.approach i x d) :=
  .of (.post _ _ _ _ _) (.stopItemArrives _ _)

theorem State.approachPoint_spec (s : State) (i : StopNo) (d : Nat) : Evaluates (d, .approach i) s (s.approachPoint i d) ∧
    (s.approachPoint i d).route.stops.get i = (s.route.stops.get i).map Stop.approached := by
  unfold State.approachPoint
  cases hx : s.route.stops.get i with
  | none => exact ⟨(Inner.refl s).evaluates _, hx⟩
  | some x =>
    dsimp only [Option.map_some]
    by_cases h : x.state = .ahead ∧ (!x.requestOnly || x.request) = true
    · rw [if_pos h]
      have hin := s.approach_spec i x d
      have hroute := State.recomputeNext_route (s.setStop i (some { x with state := .approaching }))
      rw [State.setStop_route] at hroute
      have hstops : (s.approach i x d).route.stops = s.route.stops.set i (some { x with state := .approaching }) := by
        rw [hin.stops, hroute]
      refine ⟨⟨fun hg => hin.good ?_, ?_, fun k hk => ?_, fun k _ => ?_⟩, ?_⟩
      · rw [State.recomputeNext, State.setCursor_store, State.setStop_store]
        exact hg
      · rw [hin.cursor, hroute]
        rfl
      · rw [hstops, Tab.get_set_other fun e => hk (by rw [e]; rfl)]
      · have hseg := hin.segments k
        rw [hroute] at hseg
        exact hseg
      · rw [hstops, Tab.get_set_self]
        unfold Stop.approached
        rw [if_pos h]
    · rw [if_neg h]
      refine ⟨(Inner.refl s).evaluates _, hx.trans ?_⟩
      unfold Stop.approached
      rw [if_neg h]

/-- R43, R44: the stop that an arrival point settles, before its next stop is worked out. -/
theorem State.arrivalPoint_inner (s : State) (i : StopNo) (both : Bool) (d : Nat) (hx : s.route.stops.get i = some x)
    (h : x.state = .ahead ∨ x.state = .approaching) :
    ∃ u, Inner (s.setStop i (some (x.arrived both))) u ∧ s.arrivalPoint i both d = u.recomputeNext := by
  unfold State.arrivalPoint Stop.arrived
  rw [hx]
  dsimp only
  rw [if_pos h, if_pos h]
  refine ⟨_, ?_, rfl⟩
  exact .of (.post _ _ _ _ _) (.ite (.stopItemArrives _ _) (.refl _))

theorem State.arrivalPoint_spec (s : State) (i : StopNo) (both : Bool) (d : Nat) :
    Evaluates (d, .arrival i both) s (s.arrivalPoint i both d) ∧
    (s.arrivalPoint i both d).route.stops.get i = (s.route.stops.get i).map (Stop.arrived both) := by
  cases hx : s.route.stops.get i with
  | none =>
    unfold State.arrivalPoint
    rw [hx]
    exact ⟨(Inner.refl s).evaluates _, hx⟩
  | some x =>
    by_cases h : x.state = .ahead ∨ x.state = .approaching
    · obtain ⟨u, hin, hu⟩ := s.arrivalPoint_inner i both d hx h
      have hroute := State.recomputeNext_route u
      have hstops : u.route.stops = s.route.stops.set i (some (x.arrived both)) := by rw [hin.stops, State.setStop_route]
      rw [hu]
      refine ⟨⟨fun hg => ?_, ?_, fun k hk => ?_, fun k _ => ?_⟩, ?_⟩
      · rw [State.recomputeNext, State.setCursor_store]
        exact hin.good (by rw [State.setStop_store]; exact hg)
      · rw [hroute]
        show u.route.cursor.place = _
        rw [hin.cursor, State.setStop_route]
      · rw [hroute]
        show u.route.stops.get k = _
        rw [hstops, Tab.get_set_other fun e => hk (by rw [e]; rfl)]
      · rw [hroute]
        have hseg := hin.segments k
        rw [State.setStop_route] at hseg
        exact hseg
      · rw [hroute]
        show u.route.stops.get i = _
        rw [hstops, Tab.get_set_self, Option.map_some]
    · have hsame : s.arrivalPoint i both d = s := by
        unfold State.arrivalPoint
        rw [hx]
        exact if_neg h
      rw [hsame]
      refine ⟨(Inner.refl s).evaluates _, hx.trans ?_⟩
      rw [Option.map_some]
      unfold Stop.arrived
      rw [if_neg h]

/-- A segment record after the trigger point of an ARMED one: MISSED beyond the late window, else TRIGGERED, or FINISHED already. -/
def Segment.Settled (d : Nat) (y z : Segment) : Prop :=
  { z with state := y.state, outstanding := y.outstanding, played := y.played } = y ∧
    (y.late < d - y.t → z.state = .missed) ∧ (d - y.t ≤ y.late → z.state = .triggered ∨ z.state = .finished)

theorem State.triggerPoint_spec (s : State) (j : SegNo) (d : Nat) : Evaluates (d, .trigger j) s (s.triggerPoint j d) ∧
    ∀ y, s.route.segments.get j = some y → y.state = .armed →
      ∃ z, (s.triggerPoint j d).route.segments.get j = some z ∧ y.Settled d z := by
  unfold State.triggerPoint
  cases hy : s.route.segments.get j with
  | none => exact ⟨(Inner.refl s).evaluates _, nofun⟩
  | some y =>
    dsimp only
    by_cases harmed : y.state = .armed
    · rw [if_pos harmed]
      have hother {v : Option Segment} {k : SegNo} (hk : (d, Point.trigger j).2 ≠ .trigger k) :
          (s.setSegment j v).route.segments.get k = s.route.segments.get k := by
        rw [State.setSegment_route]
        exact Tab.get_set_other (fun e => hk (by rw [e])) _
      by_cases hlate : y.late < d - y.t
      · rw [if_pos hlate]
        have hroute := State.setSegment_route s j (some { y with state := .missed })
        refine ⟨⟨fun hg => ?_, ?_, fun k _ => ?_, fun k hk => ?_⟩, fun y' hy' _ => ?_⟩
        · show (s.setSegment j (some { y with state := .missed })).store.Good
          rw [State.setSegment_store]
          exact hg
        · show (s.setSegment j (some { y with state := .missed })).route.cursor.place = _
          rw [hroute]
        · show (s.setSegment j (some { y with state := .missed })).route.stops.get k = _
          rw [hroute]
        · exact .inl (hother hk)
        · obtain rfl := Option.some.inj hy'
          refine ⟨{ y with state := .missed }, ?_, rfl, fun _ => rfl, fun h => absurd hlate (Nat.not_lt.2 h)⟩
          show (s.setSegment j (some { y with state := .missed })).route.segments.get j = _
          rw [hroute]
          exact Tab.get_set_self _ _ _
      · rw [if_neg hlate]
        let x : Segment := { y with state := .triggered, outstanding := 0, played := 0 }
        have hr1 := State.setSegment_route s j (some x)
        obtain ⟨u, n, hu⟩ : ∃ u n, (s.setSegment j (some x)).takeHandOff j x = (u, n) := ⟨_, _, rfl⟩
        have hin1 : Inner (s.setSegment j (some x)) u := by
          have := Inner.takeHandOff (s.setSegment j (some x)) j x
          rw [hu] at this
          exact this
        have hr2 := State.setSegment_route u j (some { x with outstanding := n })
        have hin2 : Inner (u.setSegment j (some { x with outstanding := n }))
            (((u.setSegment j (some { x with outstanding := n })).settleSegment j).cueRequest 1 x.cue) :=
          .of (.cueRequest _ _ _) (.settleSegment _ _)
        rw [show (s.setSegment j (some { y with state := .triggered, outstanding := 0, played := 0 })).takeHandOff j
          { y with state := .triggered, outstanding := 0, played := 0 } = (u, n) from hu]
        refine ⟨⟨fun hg => hin2.good ?_, ?_, fun k _ => ?_, fun k hk => ?_⟩, fun y' hy' _ => ?_⟩
        · rw [State.setSegment_store]
          exact hin1.good (by rw [State.setSegment_store]; exact hg)
        · rw [hin2.cursor, hr2]
          show u.route.cursor.place = _
          rw [hin1.cursor, hr1]
        · rw [hin2.stops, hr2]
          show u.route.stops.get k = _
          rw [hin1.stops, hr1]
        · have hk' : k ≠ j := fun e => hk (by rw [e])
          have h1 := hin1.segments k
          have h2 := hin2.segments k
          rw [hother hk] at h1
          rw [hr2] at h2
          dsimp only at h2
          rw [Tab.get_set_other hk'.symm] at h2
          exact h1.trans h2
        · obtain rfl := Option.some.inj hy'
          have h2 := hin2.segments j
          rw [hr2] at h2
          dsimp only at h2
          rw [Tab.get_set_self] at h2
          obtain ⟨z, hz, hzs, hzr⟩ := h2.of_triggered rfl
          refine ⟨z, hz, ?_, fun h => absurd h hlate, fun _ => hzs⟩
          calc { z with state := y.state, outstanding := y.outstanding, played := y.played }
            _ = { { z with state := .triggered, outstanding := n, played := 0 } with
                  state := y.state, outstanding := y.outstanding, played := y.played } := rfl
            _ = y := by rw [hzr]
    · rw [if_neg harmed]
      exact ⟨(Inner.refl s).evaluates _, fun y' hy' h => absurd (Option.some.inj hy' ▸ h) harmed⟩

theorem State.evalPoint_evaluates (d : Nat) (s : State) (pt : Nat × Point) : Evaluates pt s (s.evalPoint d pt) := by
  obtain ⟨k, q⟩ := pt
  cases q with
  | approach i =>
    obtain ⟨h, -⟩ := s.approachPoint_spec i d
    exact ⟨h.good, h.cursor, h.stops, h.segments⟩
  | arrival i both =>
    obtain ⟨h, -⟩ := s.arrivalPoint_spec i both d
    exact ⟨h.good, h.cursor, h.stops, h.segments⟩
  | trigger j =>
    obtain ⟨h, -⟩ := s.triggerPoint_spec j d
    exact ⟨h.good, h.cursor, h.stops, h.segments⟩

/-! ## Several points -/

theorem foldl_evalPoint_good (d : Nat) (l : List (Nat × Point)) (s : State) (h : s.store.Good) :
    (l.foldl (State.evalPoint d) s).store.Good := by
  induction l generalizing s with
  | nil => exact h
  | cons pt l ih => exact ih _ ((s.evalPoint_evaluates d pt).good h)

theorem foldl_evalPoint_cursor (d : Nat) (l : List (Nat × Point)) (s : State) :
    (l.foldl (State.evalPoint d) s).route.cursor.place = s.route.cursor.place := by
  induction l generalizing s with
  | nil => rfl
  | cons pt l ih => exact (ih _).trans (s.evalPoint_evaluates d pt).cursor

/-- Points of other stops leave a stop. -/
theorem foldl_evalPoint_stop (d : Nat) {l : List (Nat × Point)} (h : ∀ pt ∈ l, pt.2.stopOf ≠ some i) (s : State) :
    (l.foldl (State.evalPoint d) s).route.stops.get i = s.route.stops.get i := by
  induction l generalizing s with
  | nil => rfl
  | cons pt l ih =>
    exact (ih (fun q hq => h q (List.mem_cons_of_mem _ hq)) _).trans ((s.evalPoint_evaluates d pt).stops i (h pt List.mem_cons_self))

theorem foldl_evalPoint_segment (d : Nat) {l : List (Nat × Point)} (h : ∀ pt ∈ l, pt.2 ≠ .trigger j) (s : State) :
    SegmentRuns (s.route.segments.get j) ((l.foldl (State.evalPoint d) s).route.segments.get j) := by
  induction l generalizing s with
  | nil => exact .refl _
  | cons pt l ih =>
    exact ((s.evalPoint_evaluates d pt).segments j (h pt List.mem_cons_self)).trans (ih (fun q hq => h q (List.mem_cons_of_mem _ hq)) _)

/-! ## The points of a move, each gathered once -/

theorem pointBefore_irrefl (pt : Nat × Point) : ¬pointBefore pt pt := by
  unfold pointBefore
  omega

/-- A gathered point stands once among the others. -/
theorem Route.gather_split {r : Route} {old new : Nat} (h : pt ∈ r.gather old new) :
    ∃ a b, r.gather old new = a ++ pt :: b ∧ pt ∉ a ∧ pt ∉ b := by
  obtain ⟨a, b, hab⟩ := List.append_of_mem h
  have hsorted := r.gather_sorted old new
  rw [hab, List.pairwise_append, List.pairwise_cons] at hsorted
  obtain ⟨-, ⟨hb, -⟩, ha⟩ := hsorted
  exact ⟨a, b, hab, fun hm => pointBefore_irrefl _ (ha pt hm pt List.mem_cons_self), fun hm => pointBefore_irrefl _ (hb pt hm)⟩

/-- The one point of a stop whose arrival point a move crosses. -/
theorem Route.gather_arrival {r : Route} {old new : Nat} (hx : r.stops.get i = some x) (hb : old < x.b ∧ x.b ≤ new)
    (h : pt ∈ r.gather old new) (hs : pt.2.stopOf = some i) : pt = (x.b, .arrival i (crosses old new x.a)) := by
  obtain ⟨k, q⟩ := pt
  cases q with
  | approach i' =>
    cases hs
    obtain ⟨x', hx', -, -, hno⟩ := Route.approach_mem_gather.1 h
    cases hx.symm.trans hx'
    exact absurd hb hno
  | arrival i' both =>
    cases hs
    obtain ⟨x', hx', rfl, -, hboth⟩ := Route.arrival_mem_gather.1 h
    cases hx.symm.trans hx'
    rw [← crosses_iff] at hboth
    rw [Bool.eq_iff_iff.2 hboth]
  | trigger j => cases hs

/-- The one point of a stop whose approach point alone a move crosses. -/
theorem Route.gather_approach {r : Route} {old new : Nat} (hx : r.stops.get i = some x) (hb : ¬(old < x.b ∧ x.b ≤ new))
    (h : pt ∈ r.gather old new) (hs : pt.2.stopOf = some i) : pt = (x.a, .approach i) ∧ old < x.a ∧ x.a ≤ new := by
  obtain ⟨k, q⟩ := pt
  cases q with
  | approach i' =>
    cases hs
    obtain ⟨x', hx', rfl, ha, -⟩ := Route.approach_mem_gather.1 h
    cases hx.symm.trans hx'
    exact ⟨rfl, ha⟩
  | arrival i' both =>
    cases hs
    obtain ⟨x', hx', -, hb', -⟩ := Route.arrival_mem_gather.1 h
    cases hx.symm.trans hx'
    exact absurd hb' hb
  | trigger j => cases hs

theorem Route.gather_trigger {r : Route} {old new : Nat} (hy : r.segments.get j = some y) (h : pt ∈ r.gather old new)
    (hs : pt.2 = .trigger j) : pt = (y.t, .trigger j) ∧ old < y.t ∧ y.t ≤ new := by
  obtain ⟨k, q⟩ := pt
  cases hs
  obtain ⟨y', hy', rfl, hc⟩ := Route.trigger_mem_gather.1 h
  cases hy.symm.trans hy'
  exact ⟨rfl, hc⟩

/-! ## The two tables after the points of a move -/

/-- The hub once the points of a forward move to `d` are evaluated. -/
def State.crossed (d : Nat) (s : State) : State := (s.route.gather s.route.cursor.distance d).foldl (State.evalPoint d) s

/-- A stop changes at its own point of the move alone. -/
theorem State.crossed_stop (hpt : pt ∈ s.route.gather s.route.cursor.distance d)
    (hone : ∀ q ∈ s.route.gather s.route.cursor.distance d, q.2.stopOf = some i → q = pt) {f : Stop → Stop}
    (heval : ∀ u : State, (u.evalPoint d pt).route.stops.get i = (u.route.stops.get i).map f) :
    (s.crossed d).route.stops.get i = (s.route.stops.get i).map f := by
  obtain ⟨a, b, hab, ha, hb⟩ := Route.gather_split hpt
  have hother {l : List (Nat × Point)} (hl : pt ∉ l) (hsub : ∀ q ∈ l, q ∈ s.route.gather s.route.cursor.distance d) :
      ∀ q ∈ l, q.2.stopOf ≠ some i := fun q hq e => hl (hone q (hsub q hq) e ▸ hq)
  unfold State.crossed
  rw [hab, List.foldl_append, List.foldl_cons, foldl_evalPoint_stop d (hother hb fun q hq => by rw [hab]; simp [hq]), heval,
    foldl_evalPoint_stop d (hother ha fun q hq => by rw [hab]; simp [hq])]

theorem State.crossed_arrival (hx : s.route.stops.get i = some x) (hb : s.route.cursor.distance < x.b ∧ x.b ≤ d) :
    (s.crossed d).route.stops.get i = some (x.arrived (crosses s.route.cursor.distance d x.a)) := by
  have hpt : (x.b, Point.arrival i (crosses s.route.cursor.distance d x.a)) ∈ s.route.gather s.route.cursor.distance d :=
    Route.arrival_mem_gather.2 ⟨x, hx, rfl, hb, crosses_iff⟩
  rw [State.crossed_stop hpt (fun q hq e => Route.gather_arrival hx hb hq e) fun u => (u.arrivalPoint_spec i _ d).2, hx, Option.map_some]

theorem State.crossed_approach (hx : s.route.stops.get i = some x) (hb : ¬(s.route.cursor.distance < x.b ∧ x.b ≤ d))
    (ha : s.route.cursor.distance < x.a ∧ x.a ≤ d) : (s.crossed d).route.stops.get i = some x.approached := by
  have hpt : (x.a, Point.approach i) ∈ s.route.gather s.route.cursor.distance d := Route.approach_mem_gather.2 ⟨x, hx, rfl, ha, hb⟩
  rw [State.crossed_stop hpt (fun q hq e => (Route.gather_approach hx hb hq e).1) fun u => (u.approachPoint_spec i d).2, hx, Option.map_some]

/-- A stop that the move does not cross, or that is not on the route. -/
theorem State.crossed_away (h : ∀ x, s.route.stops.get i = some x → ¬(s.route.cursor.distance < x.b ∧ x.b ≤ d) ∧
    ¬(s.route.cursor.distance < x.a ∧ x.a ≤ d)) : (s.crossed d).route.stops.get i = s.route.stops.get i := by
  refine foldl_evalPoint_stop d (fun pt hpt hs => ?_) s
  obtain ⟨k, q⟩ := pt
  cases q with
  | approach i' =>
    cases hs
    obtain ⟨x, hx, -, ha, -⟩ := Route.approach_mem_gather.1 hpt
    exact (h x hx).2 ha
  | arrival i' both =>
    cases hs
    obtain ⟨x, hx, -, hb, -⟩ := Route.arrival_mem_gather.1 hpt
    exact (h x hx).1 hb
  | trigger j => cases hs

theorem State.crossed_trigger (hy : s.route.segments.get j = some y) (harmed : y.state = .armed)
    (hc : s.route.cursor.distance < y.t ∧ y.t ≤ d) : ∃ z, (s.crossed d).route.segments.get j = some z ∧ y.Settled d z := by
  have hpt : (y.t, Point.trigger j) ∈ s.route.gather s.route.cursor.distance d := Route.trigger_mem_gather.2 ⟨y, hy, rfl, hc⟩
  obtain ⟨a, b, hab, ha, hb⟩ := Route.gather_split hpt
  have hother {l : List (Nat × Point)} (hl : (y.t, Point.trigger j) ∉ l)
      (hsub : ∀ q ∈ l, q ∈ s.route.gather s.route.cursor.distance d) : ∀ q ∈ l, q.2 ≠ .trigger j :=
    fun q hq e => hl ((Route.gather_trigger hy (hsub q hq) e).1 ▸ hq)
  have hbefore := foldl_evalPoint_segment d (hother ha fun q hq => by rw [hab]; simp [hq]) s
  have harm : ∀ x, s.route.segments.get j = some x → x.state ≠ .triggered := fun x hx e => by
    obtain rfl := Option.some.inj (hy.symm.trans hx)
    rw [harmed] at e
    cases e
  have hat := (hbefore.of_not_triggered harm).trans hy
  obtain ⟨z, hz, hrec, hmiss, htrig⟩ := (State.triggerPoint_spec (a.foldl (State.evalPoint d) s) j d).2 y hat harmed
  have hafter := foldl_evalPoint_segment d (hother hb fun q hq => by rw [hab]; simp [hq]) ((a.foldl (State.evalPoint d) s).triggerPoint j d)
  rw [hz] at hafter
  have hfold : (s.crossed d).route.segments.get j =
      ((b.foldl (State.evalPoint d) ((a.foldl (State.evalPoint d) s).triggerPoint j d)).route.segments.get j) := by
    unfold State.crossed
    rw [hab, List.foldl_append, List.foldl_cons]
    rfl
  rw [hfold]
  by_cases hzt : z.state = .triggered
  · obtain ⟨w, hw, hws, hwr⟩ := hafter.of_triggered hzt
    refine ⟨w, hw, ?_, fun h => ?_, fun _ => hws⟩
    · calc { w with state := y.state, outstanding := y.outstanding, played := y.played }
        _ = { { w with state := z.state, outstanding := z.outstanding, played := z.played } with
              state := y.state, outstanding := y.outstanding, played := y.played } := rfl
        _ = y := by rw [hwr, hrec]
    · rw [hmiss h] at hzt
      cases hzt
  · refine ⟨z, hafter.of_not_triggered fun x hx => ?_, hrec, hmiss, htrig⟩
    rw [← Option.some.inj hx]
    exact hzt

/-- A segment whose trigger point the move does not cross, and that is not TRIGGERED, keeps its record. -/
theorem State.crossed_quiet (hy : s.route.segments.get j = some y) (ht : y.state ≠ .triggered)
    (hc : ¬(s.route.cursor.distance < y.t ∧ y.t ≤ d)) : (s.crossed d).route.segments.get j = some y := by
  have hruns := foldl_evalPoint_segment d (fun q hq e => hc (Route.gather_trigger (j := j) hy hq e).2) s
  exact (hruns.of_not_triggered fun x hx => by rw [← Option.some.inj (hy.symm.trans hx)]; exact ht).trans hy

/-! ## The whole move (R35) -/

/-- R35: the cursor once it has taken the distance, and the next stop worked out afresh. -/
theorem State.forward_inner (d : Nat) (s : State) :
    Inner (((s.crossed d).setCursor { (s.crossed d).route.cursor with distance := d }).recomputeNext) (s.forward d) :=
  .of (.staleTest _ _) (.lateTest _ _)

theorem State.forward_route (d : Nat) (s : State) :
    (s.forward d).route.stops = (s.crossed d).route.stops ∧
    (s.forward d).route.cursor = { s.route.cursor with distance := d, nextStop := (s.forward d).route.firstOpenStop } ∧
    ∀ j, SegmentRuns ((s.crossed d).route.segments.get j) ((s.forward d).route.segments.get j) := by
  have hin := s.forward_inner d
  have hroute := State.recomputeNext_route ((s.crossed d).setCursor { (s.crossed d).route.cursor with distance := d })
  rw [State.setCursor_route] at hroute
  have hstops : (s.forward d).route.stops = (s.crossed d).route.stops := by rw [hin.stops, hroute]
  have hplace := foldl_evalPoint_cursor d (s.route.gather s.route.cursor.distance d) s
  refine ⟨hstops, ?_, fun j => ?_⟩
  · rw [hin.cursor, hroute, Route.firstOpenStop_congr hstops]
    show ({ (s.crossed d).route.cursor.place with distance := d, nextStop := _ } : Cursor) = _
    rw [show (s.crossed d).route.cursor.place = _ from hplace]
    rfl
  · have h := hin.segments j
    rw [hroute] at h
    exact h

theorem State.forward_good (h : s.store.Good) : (s.forward d).store.Good := by
  refine (s.forward_inner d).good ?_
  rw [State.recomputeNext, State.setCursor_store, State.setCursor_store]
  exact foldl_evalPoint_good d _ s h

/-- Settles O26. -/
theorem forwardMovesSettleThePoints : Obligations.ForwardMovesSettleThePoints := by
  unfold Obligations.ForwardMovesSettleThePoints
  intro p s h d0 d1 d2 d3 v hh hg hp d old hd hset hle
  let m := (s.dropResv p).moverTaken p v.toNat
  have hmroute : m.route = { s.route with cursor := { s.route.cursor with speed := min v.toNat 120, lastMover := some p } } :=
    State.moverTaken_route p v.toNat (s.dropResv p)
  have hmgood : m.store.Good := by
    rw [show m.store = s.store from State.moverTaken_store p v.toNat (s.dropResv p)]
    exact hg
  have hpos : (s.dropResv p).position p d v.toNat = m.forward d :=
    (State.position_eq p d v.toNat (s.dropResv p)).trans ((if_pos (by exact hset)).trans (if_neg (by exact Nat.not_lt.2 hle)))
  have hexec := exec_position_accepted hh hp hd hpos (State.forward_good hmgood).2.2
  obtain ⟨hstops, hcursor, hsegs⟩ := m.forward_route d
  generalize m.forward d = t at hexec hstops hcursor hsegs
  have hold : m.route.cursor.distance = old := by rw [hmroute]
  have hstopOf (i : StopNo) : m.route.stops.get i = s.route.stops.get i := by rw [hmroute]
  have hsegOf (j : SegNo) : m.route.segments.get j = s.route.segments.get j := by rw [hmroute]
  have get (i : StopNo) : t.route.stops.get i = (m.crossed d).route.stops.get i := by rw [hstops]
  refine ⟨t.withReply p h .ok (fixBytes t.route.cursor), hexec, ?_, State.withReply_slot _ _ _ _ _, fun i hi => (get i).trans ?_, fun i x hx => ?_, fun j y hy harmed => ?_⟩
  · refine hcursor.trans ?_
    have hc : m.route.cursor = { s.route.cursor with speed := min v.toNat 120, lastMover := some p } := by rw [hmroute]
    rw [hc]
    exact congrArg (fun b => (⟨b, d, min v.toNat 120, t.route.firstOpenStop, some p⟩ : Cursor)) hset
  · rw [State.crossed_away fun x hx => ?_, hstopOf, hi]
    rw [hstopOf, hi] at hx
    cases hx
  · have hx' := (hstopOf i).trans hx
    have settled (hs : ¬(x.state = .ahead ∨ x.state = .approaching)) : (m.crossed d).route.stops.get i = some x := by
      by_cases hb : old < x.b ∧ x.b ≤ d
      · rw [State.crossed_arrival hx' (by rw [hold]; exact hb)]
        unfold Stop.arrived
        rw [if_neg hs]
      · by_cases ha : old < x.a ∧ x.a ≤ d
        · rw [State.crossed_approach hx' (by rw [hold]; exact hb) (by rw [hold]; exact ha)]
          unfold Stop.approached
          rw [if_neg fun k => hs (.inl k.1)]
        · rw [State.crossed_away fun z hz => ?_, hx']
          rw [← Option.some.inj (hx'.symm.trans hz), hold]
          exact ⟨hb, ha⟩
    refine ⟨fun hb hs => (get i).trans ?_, fun ha hb hs => (get i).trans ?_, fun ha hb => (get i).trans ?_, fun hs => (get i).trans ?_⟩
    · rw [State.crossed_arrival hx' (by rw [hold]; exact hb), hold]
      unfold Stop.arrived
      rw [if_pos hs]
      have hcalled : (x.state == .approaching || (crosses old d x.a && !x.requestOnly) || x.request) = true ↔
          x.state = .approaching ∨ x.request = true ∨ (old < x.a ∧ x.a ≤ d ∧ x.requestOnly = false) := by
        simp only [Bool.or_eq_true, Bool.and_eq_true, beq_iff_eq, crosses_iff, Bool.not_eq_true', and_assoc]
        exact or_assoc.trans (or_congr_right or_comm)
      rw [if_congr hcalled rfl rfl]
    · rw [State.crossed_approach hx' (by rw [hold]; exact hb) (by rw [hold]; exact ha)]
      unfold Stop.approached
      cases hq : x.requestOnly <;> cases hr : x.request <;> simp [hs]
    · rw [State.crossed_away fun z hz => ?_, hx']
      rw [← Option.some.inj (hx'.symm.trans hz), hold]
      exact ⟨hb, ha⟩
    · refine settled fun k => ?_
      rcases hs with hs | hs | hs <;> rcases k with k | k <;> rw [hs] at k <;> cases k
  · have hy' := (hsegOf j).trans hy
    have ht : y.state ≠ .triggered := by rw [harmed]; nofun
    by_cases hc : old < y.t ∧ y.t ≤ d
    · obtain ⟨z, hz, hrec, hmiss, htrig⟩ := State.crossed_trigger hy' harmed (by rw [hold]; exact hc)
      have hrun := hsegs j
      rw [hz] at hrun
      by_cases hzt : z.state = .triggered
      · obtain ⟨w, hw, hws, hwr⟩ := hrun.of_triggered hzt
        refine ⟨w, hw, ?_, fun hno => absurd hc hno, fun _ _ hl => ?_, fun _ _ _ => hws⟩
        · calc { w with state := y.state, outstanding := y.outstanding, played := y.played }
            _ = { { w with state := z.state, outstanding := z.outstanding, played := z.played } with
                  state := y.state, outstanding := y.outstanding, played := y.played } := rfl
            _ = y := by rw [hwr, hrec]
        · rw [hmiss hl] at hzt
          cases hzt
      · have hw := hrun.of_not_triggered fun x hx => by rw [← Option.some.inj hx]; exact hzt
        exact ⟨z, hw, hrec, fun hno => absurd hc hno, fun _ _ => hmiss, fun _ _ => htrig⟩
    · have hq := State.crossed_quiet hy' ht (by rw [hold]; exact hc)
      have hrun := hsegs j
      rw [hq] at hrun
      have hw := hrun.of_not_triggered fun x hx => by rw [← Option.some.inj hx]; exact ht
      exact ⟨y, hw, rfl, fun _ => rfl, fun h1 h2 => absurd ⟨h1, h2⟩ hc, fun h1 h2 => absurd ⟨h1, h2⟩ hc⟩

end Sys2Proof.Machine
end

section
/-! SUPPORT. What the entry to STANDBY changes (R187), block by block: items leave their queues, beds and players give up their uses, and
the seats are unknown. -/

namespace Sys2Proof.Machine

variable {s t u : State} {p q : Prog}

/-! ## Items that leave their queues (R74) -/

/-- A change of the queues, the voices, the Clip Store, the segments and the ports alone. -/
def ItemsMove (s t : State) : Prop := ∃ q v st g p, t =
  { s with com := { s.com with queues := q }, mix := { s.mix with voices := v }, store := st, route := { s.route with segments := g }, ports := p }

namespace ItemsMove

theorem refl (s : State) : ItemsMove s s := ⟨_, _, _, _, _, rfl⟩

theorem trans (h : ItemsMove s t) (k : ItemsMove t u) : ItemsMove s u := by
  obtain ⟨q, v, st, g, p, rfl⟩ := h
  obtain ⟨q', v', st', g', p', rfl⟩ := k
  exact ⟨_, _, _, _, _, rfl⟩

theorem of (k : ItemsMove t u) (h : ItemsMove s t) : ItemsMove s u := h.trans k

theorem foldl {γ : Type} {f : State → γ → State} (h : ∀ s x, ItemsMove s (f s x)) (l : List γ) (s : State) : ItemsMove s (l.foldl f s) := by
  induction l generalizing s with
  | nil => exact refl s
  | cons x l ih => exact (h s x).trans (ih _)

theorem setSegment (s : State) (i : SegNo) (x : Option Segment) : ItemsMove s (s.setSegment i x) := by
  unfold State.setSegment
  split
  · exact refl s
  · exact ⟨_, _, _, _, _, rfl⟩

theorem settleSegment (s : State) (i : SegNo) : ItemsMove s (s.settleSegment i) := by
  unfold State.settleSegment
  split
  · split
    · exact .of ⟨_, _, _, _, _, rfl⟩ (setSegment s _ _)
    · exact refl s
  · exact refl s

theorem reportItem (s : State) (i : SegNo) (o : ItemOutcome) : ItemsMove s (s.reportItem i o) := by
  unfold State.reportItem
  split
  · split
    · exact .of (settleSegment _ _) (setSegment s _ _)
    · exact refl s
  · exact refl s

theorem itemLeft (s : State) (p : Prog) (o : ItemOutcome) (x : Item) : ItemsMove s (s.itemLeft p o x) := by
  unfold State.itemLeft
  have h : ItemsMove s ((if x.playing then s.onVoice p .commentary VoiceState.unbind else s).onStore fun st => st.release x.bind.entry) := by
    split <;> exact ⟨_, _, _, _, _, rfl⟩
  dsimp only
  split
  · exact h
  · exact .of (reportItem _ _ _) h

theorem removeItems (s : State) (p : Prog) (f : Item → Bool) (o : ItemOutcome) : ItemsMove s (s.removeItems p f o) :=
  .of (foldl (fun s x => itemLeft s p o x) _ _) ⟨_, _, _, _, _, rfl⟩

theorem emptyQueue (s : State) (p : Prog) : ItemsMove s (s.emptyQueue p) := removeItems s p _ _

theorem emptyQueues (s : State) : ItemsMove s s.emptyQueues := foldl emptyQueue _ s

end ItemsMove

theorem State.foldl_itemLeft_com (p : Prog) (o : ItemOutcome) (l : List Item) (s : State) : (l.foldl (State.itemLeft p o) s).com = s.com := by
  induction l generalizing s with
  | nil => rfl
  | cons x l ih => exact (ih _).trans (State.itemLeft_com _ _ _ _)

/-- R74: the items that pass a test leave their queue, and no other. -/
theorem State.removeItems_queueOf (s : State) (p : Prog) (f : Item → Bool) (o : ItemOutcome) (q : Prog) :
    (s.removeItems p f o).queueOf q = if q = p then (s.queueOf q).filter fun x => !f x else s.queueOf q := by
  have hcom : (s.removeItems p f o).com = (s.setQueue p ((s.queueOf p).filter fun x => !f x)).com := State.foldl_itemLeft_com _ _ _ _
  unfold State.queueOf at hcom ⊢
  rw [hcom]
  show (s.com.queues.set p _).get q = _
  rw [Tab.get_set]
  by_cases h : p = q
  · rw [if_pos h, if_pos h.symm, h]
  · rw [if_neg h, if_neg (Ne.symm h)]

/-- The items that pass a test leave the queues of some programmes. -/
theorem State.foldl_removeItems_queueOf (f : Item → Bool) (o : ItemOutcome) (q : Prog) (l : List Prog) (s : State) :
    (l.foldl (fun s p => s.removeItems p f o) s).queueOf q = if q ∈ l then (s.queueOf q).filter fun x => !f x else s.queueOf q := by
  induction l generalizing s with
  | nil => rfl
  | cons p l ih =>
    rw [List.foldl_cons, ih, State.removeItems_queueOf]
    by_cases hl : q ∈ l <;> by_cases hp : q = p <;> simp [hl, hp]

/-- R73: no item is left in any queue. -/
theorem State.emptyQueues_queueOf (hq : q ≠ 0) (s : State) : s.emptyQueues.queueOf q = [] := by
  refine (State.foldl_removeItems_queueOf (fun _ => true) .cancelled q langProgs s).trans ?_
  rw [if_pos (mem_langProgs hq)]
  exact List.filter_eq_nil_iff.2 fun _ _ => by nofun

/-! ## Beds (R113) -/

/-- A change of the voices and the Clip Store alone. -/
def VoicesMove (s t : State) : Prop := ∃ v st, t = { s with mix := { s.mix with voices := v }, store := st }

namespace VoicesMove

theorem refl (s : State) : VoicesMove s s := ⟨_, _, rfl⟩

theorem trans (h : VoicesMove s t) (k : VoicesMove t u) : VoicesMove s u := by
  obtain ⟨v, st, rfl⟩ := h
  obtain ⟨v', st', rfl⟩ := k
  exact ⟨_, _, rfl⟩

theorem bedRelease (s : State) (p : Prog) : VoicesMove s (s.bedRelease p) := by
  unfold State.bedRelease
  split
  · exact refl s
  · exact ⟨_, _, rfl⟩

theorem foldl_bedRelease (l : List Prog) (s : State) : VoicesMove s (l.foldl State.bedRelease s) := by
  induction l generalizing s with
  | nil => exact refl s
  | cons p l ih => exact (bedRelease s p).trans (ih _)

end VoicesMove

theorem State.onVoice_voice (s : State) (p : Prog) (v : Voice) (f : VoiceState → VoiceState) (q : Prog) (w : Voice) :
    (s.onVoice p v f).voice q w = if q = p ∧ w = v then f (s.voice q w) else s.voice q w := by
  unfold State.onVoice State.voice
  rw [State.onMix_mix]
  dsimp only
  rw [Tab.get_modify]
  by_cases hp : p = q
  · subst hp
    rw [if_pos rfl, Quad.get_set]
    by_cases hv : v = w
    · subst hv
      rw [if_pos rfl, if_pos ⟨rfl, rfl⟩]
    · rw [if_neg hv, if_neg fun h => hv h.2.symm]
  · rw [if_neg hp, if_neg fun h => hp h.1.symm]

/-- R113: a programme's bed is released, and no other voice is unbound. -/
theorem State.bedRelease_bed (s : State) (p q : Prog) :
    ((s.bedRelease p).voice q .bed).bind = if q = p then none else (s.voice q .bed).bind := by
  unfold State.bedRelease
  cases hb : (s.voice p .bed).bind with
  | none =>
    dsimp only
    by_cases h : q = p
    · rw [if_pos h, h, hb]
    · rw [if_neg h]
  | some b =>
    show ((s.onVoice p .bed VoiceState.unbind).voice q .bed).bind = _
    rw [State.onVoice_voice]
    by_cases h : q = p
    · rw [if_pos ⟨h, rfl⟩, if_pos h]
      rfl
    · rw [if_neg fun k => h k.1, if_neg h]

theorem State.foldl_bedRelease_bed (l : List Prog) (s : State) (q : Prog) :
    ((l.foldl State.bedRelease s).voice q .bed).bind = if q ∈ l then none else (s.voice q .bed).bind := by
  induction l generalizing s with
  | nil => rfl
  | cons p l ih =>
    rw [List.foldl_cons, ih, State.bedRelease_bed]
    by_cases hl : q ∈ l <;> by_cases hp : q = p <;> simp [hl, hp]

/-- R113: no bed is bound. -/
theorem State.releaseBeds_bed (s : State) (q : Prog) : (s.releaseBeds.voice q .bed).bind = none := by
  refine (State.foldl_bedRelease_bed allProgs s q).trans (if_pos ?_)
  exact mem_indices q

/-! ## Cue players (R148) -/

/-- A change of the cue players and the Clip Store alone. -/
def PlayersMove (s t : State) : Prop := ∃ x st, t = { s with light := { s.light with players := x }, store := st }

theorem PlayersMove.trans (h : PlayersMove s t) (k : PlayersMove t u) : PlayersMove s u := by
  obtain ⟨x, st, rfl⟩ := h
  obtain ⟨x', st', rfl⟩ := k
  exact ⟨_, _, rfl⟩

theorem PlayersMove.playerStop (s : State) (k : PlayerNo) : PlayersMove s (s.playerStop k) := by
  unfold State.playerStop
  split
  · exact ⟨_, _, rfl⟩
  · exact ⟨_, _, rfl⟩

theorem PlayersMove.stopPlayers (s : State) : PlayersMove s s.stopPlayers :=
  ((playerStop s 0).trans (playerStop _ 1)).trans (playerStop _ 2)

/-- R148: the player is STOPPED, and every other stays. -/
theorem State.playerStop_players (s : State) (k : PlayerNo) : (s.playerStop k).light.players = s.light.players.set k none := by
  unfold State.playerStop
  split
  · next h => rw [← h, Tab.set_get]
  · rfl

theorem State.stopPlayers_players (s : State) (k : PlayerNo) : s.stopPlayers.light.players.get k = none := by
  unfold State.stopPlayers
  rw [State.playerStop_players, State.playerStop_players, State.playerStop_players, Tab.get_set, Tab.get_set, Tab.get_set]
  split
  · rfl
  · split
    · rfl
    · rw [if_pos (by omega)]

/-! ## STANDBY (R187) -/

/-- What the entry to STANDBY brings about. -/
structure Rested (s t : State) : Prop where
  ann : t.ann = s.ann
  faults : t.faults = s.faults
  ctl : t.ctl = { s.ctl with op := .standby }
  queues : ∀ q, q ≠ 0 → t.queueOf q = []
  beds : ∀ q, (t.voice q .bed).bind = none
  players : ∀ k, t.light.players.get k = none
  occ : ∀ q, q ≠ 0 → t.seat.occ.get q = 0
  seats : ∀ i, (t.seat.seats.get i).state = .unknown ∨ (t.seat.seats.get i).state = .disabled

/-- R132: every configured seat is unknown. -/
theorem State.seatStandby_seat (s : State) (i : SeatNo) :
    (s.seatStandby.seat.seats.get i).state = .unknown ∨ (s.seatStandby.seat.seats.get i).state = .disabled := by
  unfold State.seatStandby
  rw [(SeatMove.recount _).seats, State.onSeat_seat]
  dsimp only
  rw [Tab.get_map]
  split
  · next h => exact .inr h
  · exact .inl rfl

theorem State.seatStandby_occ (hq : q ≠ 0) (s : State) : s.seatStandby.seat.occ.get q = 0 := by
  have hcount : s.seatStandby.seat.occ.get q = s.seatStandby.seat.count127 q := by
    unfold State.seatStandby
    exact State.recount_counted _ hq
  rw [hcount]
  unfold SeatLink.count127
  rw [List.length_eq_zero_iff, List.filter_eq_nil_iff]
  refine Tab.forall_mem.2 fun i h => ?_
  rw [Bool.and_eq_true, beq_iff_eq] at h
  rcases s.seatStandby_seat i with k | k <;> rw [h.1] at k <;> cases k

theorem State.enterStandby_rested (s : State) : Rested s s.enterStandby := by
  have hqueues (q : Prog) (hq : q ≠ 0) : ((s.changeOp .standby .quiet).emptyQueues).queueOf q = [] := State.emptyQueues_queueOf hq _
  have hq := ItemsMove.emptyQueues (s.changeOp .standby .quiet)
  unfold State.enterStandby
  generalize (s.changeOp .standby .quiet).emptyQueues = a at hq hqueues
  have hbeds := a.releaseBeds_bed
  have hb : VoicesMove a a.releaseBeds := .foldl_bedRelease _ _
  generalize a.releaseBeds = b at hbeds hb
  have hocc := fun (q : Prog) (h : q ≠ 0) => State.seatStandby_occ h b
  have hseats := b.seatStandby_seat
  have hc := b.seatStandby_rest
  generalize b.seatStandby = c at hocc hseats hc
  have hplayers := c.stopPlayers_players
  have hd := PlayersMove.stopPlayers c
  generalize c.stopPlayers = d at hplayers hd
  obtain ⟨x1, x2, x3, x4, x5, rfl⟩ := hq
  obtain ⟨y1, y2, rfl⟩ := hb
  rw [hc] at hd
  obtain ⟨z1, z2, rfl⟩ := hd
  exact ⟨rfl, rfl, rfl, hqueues, hbeds, hplayers, hocc, hseats⟩

/-- R187: the controller's report that it is quiet changes nothing of the controller. -/
theorem State.quietCheck_ann (s : State) : s.quietCheck.ann = s.ann := by
  unfold State.quietCheck
  split
  · exact s.enterStandby_rested.ann
  · rfl

theorem State.quietCheck_queueOf (s : State) (hq : q ≠ 0) : s.quietCheck.queueOf q = s.queueOf q ∨ s.quietCheck.queueOf q = [] := by
  unfold State.quietCheck
  split
  · exact .inr (s.enterStandby_rested.queues q hq)
  · exact .inl rfl

end Sys2Proof.Machine
end

section
/-! SUPPORT. JUMP and ROUTE-CLEAR (R36, R37), STOP-REMOVE, STOP-SKIP and STOP-REQUEST (R41, R46, R47). -/

namespace Sys2Proof.Machine

variable {s t : State} {p : Port} {q : Prog} {h : InHand} {x : Stop} {d : Nat} {i : StopNo}

/-! ## Items dropped (R67, R82) -/

/-- R82: dropped announcements leave their queue, and nothing else but the event queues changes. -/
theorem State.dropItems_eq (s : State) (f : AnnItem → Bool) (r : DropReason) : ∃ ports, s.dropItems f r =
    { s with ann := { s.ann with queue := s.ann.queue.filter fun x => !f x }, ports := ports } := by
  have key : ∀ (l : List AnnItem) (u : State), ∃ ports, l.foldl (State.postDropped r) u = { u with ports := ports } := by
    intro l
    induction l with
    | nil => exact fun u => ⟨u.ports, rfl⟩
    | cons x l ih =>
      intro u
      obtain ⟨ports, h⟩ := ih (u.postDropped r x)
      exact ⟨ports, h⟩
  obtain ⟨ports, h⟩ := key (s.ann.queue.filter f) (s.setAnnQueue (s.ann.queue.filter fun x => !f x))
  exact ⟨ports, h⟩

theorem State.dropItems_ann (s : State) (f : AnnItem → Bool) (r : DropReason) :
    (s.dropItems f r).ann.queue = s.ann.queue.filter fun x => !f x := by
  obtain ⟨ports, h⟩ := s.dropItems_eq f r
  rw [h]

theorem State.dropItems_queueOf (s : State) (f : AnnItem → Bool) (r : DropReason) (q : Prog) : (s.dropItems f r).queueOf q = s.queueOf q := by
  obtain ⟨ports, h⟩ := s.dropItems_eq f r
  rw [h]
  rfl

/-- R67: what becomes of a PLAYING item. -/
def Item.kept (d : Nat) (orphan : Bool) (x : Item) : Item :=
  let x := x.lower d
  if orphan ∧ x.playing then { x with orphaned := true } else x

theorem State.cancelWaiting_queueOf (hq : q ≠ 0) (d : Nat) (orphan : Bool) (s : State) :
    (s.cancelWaiting d orphan).queueOf q = ((s.queueOf q).filter fun x => x.playing).map (Item.kept d orphan) := by
  have hqueue := State.foldl_removeItems_queueOf (fun x => !x.playing) .cancelled q langProgs s
  rw [if_pos (mem_langProgs hq)] at hqueue
  simp only [Bool.not_not] at hqueue
  rw [← hqueue]
  unfold State.cancelWaiting State.queueOf
  show Tab.get (Tab.map _ _) q = _
  rw [Tab.get_map]
  rfl

theorem Item.kept_playing {y : Item} (h : y.playing = true) (d : Nat) (orphan : Bool) : (y.kept d orphan).playing = true ∧
    (y.kept d orphan).trig ≤ d ∧ (orphan = true → (y.kept d orphan).orphaned = true) := by
  unfold Item.kept Item.lower
  rw [if_pos h]
  dsimp only
  cases orphan with
  | false => exact ⟨h, Nat.min_le_right _ _, nofun⟩
  | true =>
    rw [if_pos ⟨rfl, h⟩]
    exact ⟨h, Nat.min_le_right _ _, fun _ => rfl⟩

/-- R36, R37: the hub once the cursor's reservations, the waiting commentary and the waiting stop items are gone. -/
@[irreducible] def State.cleared (d : Nat) (orphan : Bool) (s : State) : State := ((s.touch cursorRec).cancelWaiting d orphan).dropStops

theorem State.cleared_inner (d : Nat) (orphan : Bool) (s : State) : Inner s (s.cleared d orphan) := by
  unfold State.cleared
  exact .of (.dropStops _) (.of (.cancelWaiting _ _ _) (.touch s _))

theorem State.dropStops_ann (s : State) : ∀ y ∈ s.dropStops.ann.queue, y.kind = .cab ∨ y.kind = .safety := by
  intro y hy
  unfold State.dropStops at hy
  rw [State.quietCheck_ann, State.dropItems_ann] at hy
  have hstop := (List.mem_filter.1 hy).2
  unfold AnnItem.isStop at hstop
  cases hk : y.kind with
  | approach => rw [hk] at hstop; cases hstop
  | arrival => rw [hk] at hstop; cases hstop
  | cab => exact .inl rfl
  | safety => exact .inr rfl

theorem State.dropStops_queueOf (hq : q ≠ 0) (s : State) : s.dropStops.queueOf q = s.queueOf q ∨ s.dropStops.queueOf q = [] := by
  unfold State.dropStops
  rw [← State.dropItems_queueOf s AnnItem.isStop .route q]
  exact State.quietCheck_queueOf _ hq

/-- Only PLAYING items stay in the commentary queues. -/
theorem State.cleared_queueOf (hq : q ≠ 0) (d : Nat) (orphan : Bool) (s : State) : ∀ y ∈ (s.cleared d orphan).queueOf q,
    y.playing = true ∧ y.trig ≤ d ∧ (orphan = true → y.orphaned = true) := by
  intro y hy
  unfold State.cleared at hy
  rcases State.dropStops_queueOf hq ((s.touch cursorRec).cancelWaiting d orphan) with e | e
  · rw [e, State.cancelWaiting_queueOf hq] at hy
    obtain ⟨z, hz, rfl⟩ := List.mem_map.1 hy
    exact Item.kept_playing (List.mem_filter.1 hz).2 d orphan
  · rw [e] at hy
    cases hy

/-- Only CAB and SAFETY items stay in the announcement queue. -/
theorem State.cleared_ann (d : Nat) (orphan : Bool) (s : State) : ∀ y ∈ (s.cleared d orphan).ann.queue, y.kind = .cab ∨ y.kind = .safety := by
  unfold State.cleared
  exact State.dropStops_ann _

/-! ## JUMP (R36) -/

/-- R36 step 4: a stop record at a JUMP. -/
def Stop.jumped (d : Nat) (x : Stop) : Stop :=
  if d < x.b then { x with state := .ahead, request := false }
  else if x.state = .ahead ∨ x.state = .approaching then { x with state := .passed } else x

/-- R36 step 5: a segment record at a JUMP. -/
def Segment.jumped (d : Nat) (y : Segment) : Segment :=
  if y.state = .triggered then y
  else if d < y.t then { y with state := .armed, outstanding := 0, played := 0 }
  else if y.state = .armed then { y with state := .missed } else y

theorem State.jumpStop_route (d : Nat) (s : State) (i : StopNo) :
    (s.jumpStop d i).route = { s.route with stops := s.route.stops.modify i (Option.map (Stop.jumped d)) } := by
  unfold State.jumpStop Tab.modify
  cases e : s.route.stops.get i with
  | none => dsimp only [Option.map_none]; rw [← e, Tab.set_get]
  | some x =>
    dsimp only [Option.map_some, Stop.jumped]
    split
    · exact s.setStop_route _ _
    · split
      · exact s.setStop_route _ _
      · rw [← e, Tab.set_get]

theorem State.jumpSegment_route (d : Nat) (s : State) (j : SegNo) :
    (s.jumpSegment d j).route = { s.route with segments := s.route.segments.modify j (Option.map (Segment.jumped d)) } := by
  unfold State.jumpSegment Tab.modify
  cases e : s.route.segments.get j with
  | none => dsimp only [Option.map_none]; rw [← e, Tab.set_get]
  | some y =>
    dsimp only [Option.map_some, Segment.jumped]
    split
    · rw [← e, Tab.set_get]
    · split
      · exact s.setSegment_route _ _
      · split
        · exact s.setSegment_route _ _
        · rw [← e, Tab.set_get]

theorem State.foldl_jumpStop_route (d : Nat) (l : List StopNo) (s : State) : (l.foldl (State.jumpStop d) s).route =
    { s.route with stops := l.foldl (fun t i => t.modify i (Option.map (Stop.jumped d))) s.route.stops } := by
  induction l generalizing s with
  | nil => rfl
  | cons i l ih => rw [List.foldl_cons, ih, State.jumpStop_route]; rfl

theorem State.foldl_jumpSegment_route (d : Nat) (l : List SegNo) (s : State) : (l.foldl (State.jumpSegment d) s).route =
    { s.route with segments := l.foldl (fun t i => t.modify i (Option.map (Segment.jumped d))) s.route.segments } := by
  induction l generalizing s with
  | nil => rfl
  | cons i l ih => rw [List.foldl_cons, ih, State.jumpSegment_route]; rfl

theorem QuietMove.jumpStop (d : Nat) (s : State) (i : StopNo) : QuietMove s (s.jumpStop d i) := by
  unfold State.jumpStop
  split
  · exact .refl s
  · split
    · exact .setStop _ _ _
    · split
      · exact .setStop _ _ _
      · exact .refl s

theorem QuietMove.jumpSegment (d : Nat) (s : State) (i : SegNo) : QuietMove s (s.jumpSegment d i) := by
  unfold State.jumpSegment
  split
  · exact .refl s
  · split
    · exact .refl s
    · split
      · exact .setSegment _ _ _
      · split
        · exact .setSegment _ _ _
        · exact .refl s

/-- R36: a JUMP, once the waiting items are gone. -/
@[irreducible] def State.rearmed (p : Port) (d : Nat) (s : State) : State :=
  ((indices 256).foldl (State.jumpSegment d) ((indices 64).foldl (State.jumpStop d)
    (s.setCursor { s.route.cursor with set := true, distance := d, lastMover := some p }))).recomputeNext

theorem State.jump_eq (p : Port) (d : Nat) (s : State) : s.jump p d = (s.cleared d false).rearmed p d := by
  unfold State.jump State.rearmed State.cleared
  rfl

theorem QuietMove.rearmed (p : Port) (d : Nat) (s : State) : QuietMove s (s.rearmed p d) := by
  unfold State.rearmed
  refine .trans ?_ (.setCursor _ _)
  refine .trans ?_ (.foldl (.jumpSegment d) _ _)
  refine .trans ?_ (.foldl (.jumpStop d) _ _)
  exact .setCursor s _

theorem State.rearmed_route (p : Port) (d : Nat) (s : State) :
    (s.rearmed p d).route.stops = s.route.stops.map (Option.map (Stop.jumped d)) ∧
    (s.rearmed p d).route.segments = s.route.segments.map (Option.map (Segment.jumped d)) ∧
    (s.rearmed p d).route.cursor = { s.route.cursor with
      set := true, distance := d, lastMover := some p, nextStop := (s.rearmed p d).route.firstOpenStop } := by
  have hroute : ((indices 256).foldl (State.jumpSegment d) ((indices 64).foldl (State.jumpStop d)
      (s.setCursor { s.route.cursor with set := true, distance := d, lastMover := some p }))).route =
      ⟨{ s.route.cursor with set := true, distance := d, lastMover := some p }, s.route.stops.map (Option.map (Stop.jumped d)),
        s.route.segments.map (Option.map (Segment.jumped d))⟩ := by
    rw [State.foldl_jumpSegment_route, Tab.foldl_modify_indices, State.foldl_jumpStop_route, Tab.foldl_modify_indices,
      State.setCursor_route]
  unfold State.rearmed
  rw [State.recomputeNext_route, hroute]
  exact ⟨rfl, rfl, rfl⟩

theorem QuietMove.com (h : QuietMove s t) : t.com = s.com := (congrArg State.com h.frame :)

theorem QuietMove.ann (h : QuietMove s t) : t.ann = s.ann := (congrArg State.ann h.frame :)

theorem QuietMove.queueOf (h : QuietMove s t) (q : Prog) : t.queueOf q = s.queueOf q := by
  unfold State.queueOf
  rw [h.com]

/-! ## ROUTE-CLEAR (R37) -/

/-- R37: both tables emptied and the cursor UNSET. -/
@[irreducible] def State.offRoute (s : State) : State :=
  ((indices 256).foldl (fun s i => s.setSegment i none) ((indices 64).foldl (fun s i => s.setStop i none) s)).setCursor Cursor.unset

theorem State.routeClear_eq (s : State) : s.routeClear = (s.cleared 0 true).offRoute := by
  unfold State.routeClear State.offRoute State.cleared
  rfl

theorem QuietMove.offRoute (s : State) : QuietMove s s.offRoute := by
  unfold State.offRoute
  refine .trans ?_ (.setCursor _ _)
  refine .trans ?_ (.foldl (fun s i => .setSegment s i none) _ _)
  exact .foldl (fun s i => .setStop s i none) _ _

theorem State.foldl_setStop_none (l : List StopNo) (s : State) : (l.foldl (fun s i => s.setStop i none) s).route =
    { s.route with stops := l.foldl (fun t i => t.modify i fun _ => none) s.route.stops } := by
  induction l generalizing s with
  | nil => rfl
  | cons i l ih => rw [List.foldl_cons, ih, State.setStop_route]; rfl

theorem State.foldl_setSegment_none (l : List SegNo) (s : State) : (l.foldl (fun s i => s.setSegment i none) s).route =
    { s.route with segments := l.foldl (fun t i => t.modify i fun _ => none) s.route.segments } := by
  induction l generalizing s with
  | nil => rfl
  | cons i l ih => rw [List.foldl_cons, ih, State.setSegment_route]; rfl

theorem State.offRoute_route (s : State) : s.offRoute.route =
    ⟨Cursor.unset, s.route.stops.map fun _ => none, s.route.segments.map fun _ => none⟩ := by
  unfold State.offRoute
  rw [State.setCursor_route, State.foldl_setSegment_none, Tab.foldl_modify_indices, State.foldl_setStop_none, Tab.foldl_modify_indices]

theorem jumpBody_bad {bs : List Byte} (h : bs.length ≠ 4 ∨ 262143 < natLE bs) : jumpBody p bs s = s.answer .badArgument := by
  unfold jumpBody oneNumber
  rcases h with hl | hd
  · rw [if_neg hl]
  · split
    · next d e =>
      split at e
      · rw [← Option.some.inj e]
        exact if_pos hd
      · cases e
    · rfl

theorem jumpBody_good {bs : List Byte} (hl : bs.length = 4) (hd : natLE bs ≤ 262143) :
    jumpBody p bs s = ((s.cleared (natLE bs) false).rearmed p (natLE bs)).fixAnswer := by
  unfold jumpBody oneNumber
  rw [if_pos hl, ← State.jump_eq]
  exact if_neg (Nat.not_lt.2 hd)

/-- Settles O28. -/
theorem jumpAndRouteClearMoveTheCursor : Obligations.JumpAndRouteClearMoveTheCursor := by
  unfold Obligations.JumpAndRouteClearMoveTheCursor
  refine ⟨fun p s h hh hg => ⟨fun hp => ?_, fun hp hd => ?_⟩, fun p s h hh hg => ⟨fun hp => ?_, fun hp => ?_⟩⟩
  · exact State.done_refusal hh rfl (jumpBody_bad hp) hg.2.2
  · let c := (s.dropResv p).cleared (natLE h.payload) false
    have hin : Inner (s.dropResv p) c := State.cleared_inner _ _ _
    have hq := QuietMove.rearmed p (natLE h.payload) c
    obtain ⟨hstops, hsegs, hcursor⟩ := c.rearmed_route p (natLE h.payload)
    have hc := fun (q : Prog) (hq : q ≠ 0) => State.cleared_queueOf hq (natLE h.payload) false (s.dropResv p)
    have ha := State.cleared_ann (natLE h.payload) false (s.dropResv p)
    have hbody : jumpBody p h.payload (s.dropResv p) = (c.rearmed p (natLE h.payload)).ok (fixBytes (c.rearmed p (natLE h.payload)).route.cursor) := by
      exact jumpBody_good hp hd
    generalize c.rearmed p (natLE h.payload) = t at hq hstops hsegs hcursor hbody
    refine ⟨_, State.done_ok hh rfl hbody ?_, ?_, State.withReply_slot _ _ _ _ _, fun i => ?_, fun i hi => ?_, fun i x hx hns => ?_,
      fun q hq0 x hx => ?_, fun x hx => ?_⟩
    · rw [hq.store]
      exact (hin.good hg).2.2
    · refine hcursor.trans ?_
      rw [hin.cursor]
      rfl
    · show t.route.stops.get i = _
      rw [hstops, Tab.get_map, hin.stops]
      rfl
    · show t.route.segments.get i = none
      rw [hsegs, Tab.get_map, (hin.segments i).of_not_triggered (fun x hx => absurd (hi.symm.trans hx) (by nofun))]
      rw [show (s.dropResv p).route.segments.get i = none from hi]
      rfl
    · show t.route.segments.get i = _
      have hx' : (s.dropResv p).route.segments.get i = some x := hx
      rw [hsegs, Tab.get_map, (hin.segments i).of_not_triggered fun y hy => by rw [← Option.some.inj (hx'.symm.trans hy)]; exact hns]
      rw [hx', Option.map_some]
      unfold Segment.jumped
      rw [if_neg hns]
    · obtain ⟨hpl, htr, -⟩ := hc q hq0 x (by rw [← hq.queueOf]; exact hx)
      exact ⟨hpl, htr⟩
    · exact ha x (by rw [← hq.ann]; exact hx)
  · exact State.done_refusal hh rfl (noArgs_args hp _ _) hg.2.2
  · let c := (s.dropResv p).cleared 0 true
    have hin : Inner (s.dropResv p) c := State.cleared_inner _ _ _
    have hq := QuietMove.offRoute c
    have hroute := c.offRoute_route
    have hc := fun (q : Prog) (hq : q ≠ 0) => State.cleared_queueOf hq 0 true (s.dropResv p)
    have ha := State.cleared_ann 0 true (s.dropResv p)
    have hbody : noArgs h.payload (s.dropResv p) (fun s => s.routeClear.answer .ok) = c.offRoute.answer .ok := by
      rw [hp, noArgs_nil, State.routeClear_eq]
    generalize c.offRoute = t at hq hroute hbody
    refine ⟨_, State.done_answer hh rfl hbody ?_, ?_, fun i => ?_, fun i => ?_, State.withReply_slot _ _ _ _ _, fun q hq0 x hx => ?_,
      fun x hx => ?_⟩
    · rw [hq.store]
      exact (hin.good hg).2.2
    · exact (congrArg Route.cursor hroute :)
    · show t.route.stops.get i = none
      rw [hroute, Tab.get_map]
    · show t.route.segments.get i = none
      rw [hroute, Tab.get_map]
    · obtain ⟨hpl, -, horph⟩ := hc q hq0 x (by rw [← hq.queueOf]; exact hx)
      exact ⟨hpl, horph rfl⟩
    · exact ha x (by rw [← hq.ann]; exact hx)

/-! ## STOP-REMOVE and STOP-SKIP (R41, R47) -/

/-- R82: the stop's items dropped. -/
theorem State.dropStop_ann (s : State) (i : StopNo) : (s.dropStop i).ann.queue = s.ann.queue.filter fun y => y.stop != some i := by
  have hq : (s.dropStop i).ann = (s.dropItems (fun x => x.stop == some i) .route).ann := State.quietCheck_ann _
  rw [hq, State.dropItems_ann]
  rfl

/-- Outside PARK-PENDING no report that the controller is quiet is taken. -/
theorem State.quietCheck_elsewhere (hop : s.ctl.op ≠ .parkPending) : s.quietCheck = s := if_neg fun h => hop h.1

theorem State.dropStop_route (hop : s.ctl.op ≠ .parkPending) (i : StopNo) : (s.dropStop i).route = s.route := by
  obtain ⟨ports, h⟩ := s.dropItems_eq (fun x => x.stop == some i) .route
  unfold State.dropStop
  rw [h, State.quietCheck_elsewhere (by exact hop)]

theorem State.setStop_ctl (s : State) (i : StopNo) (x : Option Stop) : (s.setStop i x).ctl = s.ctl :=
  (congrArg State.ctl (QuietMove.setStop s i x).frame :)

/-- R41, R47: a stop given up: its record set, its items dropped, and the next stop worked out afresh. -/
theorem State.stopGivenUp {v : State} (i : StopNo) (x : Option Stop) (hin : Inner (s.setStop i x) v)
    (hann : v.ann.queue = s.ann.queue.filter fun y => y.stop != some i)
    (hroute : s.ctl.op ≠ .parkPending → v.route = (s.setStop i x).route) :
    v.recomputeNext.route.stops = s.route.stops.set i x ∧
    v.recomputeNext.route.cursor = { s.route.cursor with nextStop := v.recomputeNext.route.firstOpenStop } ∧
    v.recomputeNext.ann.queue = s.ann.queue.filter (fun y => y.stop != some i) ∧
    (s.ctl.op ≠ .parkPending → v.recomputeNext.route.segments = s.route.segments) ∧
    (s.store.Good → v.recomputeNext.store.noted = []) := by
  have hset := State.setStop_route s i x
  refine ⟨?_, ?_, ?_, fun hop => ?_, fun hg => ?_⟩
  · rw [State.recomputeNext_route]
    show v.route.stops = _
    rw [hin.stops, hset]
  · rw [State.recomputeNext_route]
    dsimp only
    rw [hin.cursor, hset]
    exact congrArg (fun n => ({ s.route.cursor with nextStop := n } : Cursor)) (Route.firstOpenStop_congr rfl)
  · rw [State.recomputeNext, (QuietMove.setCursor v _).ann]
    exact hann
  · rw [State.recomputeNext_route]
    show v.route.segments = _
    rw [hroute hop, hset]
  · rw [State.recomputeNext, State.setCursor_store]
    exact (hin.good (by rw [State.setStop_store]; exact hg)).2.2

theorem stopRemoveBody_some (hx : s.route.stops.get i = some x) (ha : x.state ≠ .approaching) :
    stopRemoveBody i s = ((s.setStop i none).dropStop i).recomputeNext.answer .ok := by
  unfold stopRemoveBody
  rw [hx]
  exact if_neg ha

/-- R47: the distance that STOP-STATE carries. -/
def State.skipDistance (s : State) : Nat := if s.route.cursor.set then s.route.cursor.distance else 0

theorem stopSkipBody_some (hx : s.route.stops.get i = some x) (ha : x.state = .ahead ∨ x.state = .approaching) :
    stopSkipBody i s = (((s.setStop i (some { x with state := .skipped, request := false })).dropStop i).postStop i .skipped
      s.skipDistance).recomputeNext.answer .ok := by
  unfold stopSkipBody
  rw [hx]
  exact if_pos ha

/-! ## STOP-REQUEST (R46) -/

theorem State.requestStop_flagged (source who : Nat) (hn : s.route.cursor.nextStop = some i) (hx : s.route.stops.get i = some x)
    (hr : x.request = true) : s.requestStop source who = (s, some i) := by
  unfold State.requestStop
  rw [hn]
  dsimp only
  rw [hx]
  exact if_pos hr

/-- R46: the next stop's request flag set, and STOP-REQUESTED posted. -/
def State.requested (i : StopNo) (x : Stop) (source who : Nat) (s : State) : State :=
  (s.setStop i (some { x with request := true })).post .stopRequested i.val source who

/-- R46: whether the coach is in a stop's approach. -/
def State.near (s : State) (x : Stop) : Prop :=
  x.state = .ahead ∧ s.route.cursor.set = true ∧ x.a ≤ s.route.cursor.distance ∧ s.route.cursor.distance < x.b

theorem State.requested_cursor (s : State) (i : StopNo) (x : Stop) (source who : Nat) :
    (s.requested i x source who).route.cursor = s.route.cursor := by
  show (s.setStop i (some { x with request := true })).route.cursor = _
  rw [State.setStop_route]

theorem State.requestStop_far (source who : Nat) (hn : s.route.cursor.nextStop = some i) (hx : s.route.stops.get i = some x)
    (hr : x.request = false) (hf : ¬s.near x) : s.requestStop source who = (s.requested i x source who, some i) := by
  unfold State.requestStop
  rw [hn]
  dsimp only
  rw [hx]
  dsimp only
  rw [if_neg (Bool.eq_false_iff.1 hr)]
  refine if_neg ?_
  show ¬(x.state = .ahead ∧ (s.requested i x source who).route.cursor.set = true ∧ x.a ≤ (s.requested i x source who).route.cursor.distance ∧
    (s.requested i x source who).route.cursor.distance < x.b)
  rw [State.requested_cursor]
  exact hf

theorem State.requestStop_near (source who : Nat) (hn : s.route.cursor.nextStop = some i) (hx : s.route.stops.get i = some x)
    (hr : x.request = false) (hf : s.near x) : s.requestStop source who =
      ((s.requested i x source who).approach i { x with request := true } s.route.cursor.distance, some i) := by
  unfold State.requestStop
  rw [hn]
  dsimp only
  rw [hx]
  dsimp only
  rw [if_neg (Bool.eq_false_iff.1 hr)]
  show (if x.state = .ahead ∧ (s.requested i x source who).route.cursor.set = true ∧
    x.a ≤ (s.requested i x source who).route.cursor.distance ∧ (s.requested i x source who).route.cursor.distance < x.b then
    ((s.requested i x source who).approach i { x with request := true } (s.requested i x source who).route.cursor.distance, some i)
    else (s.requested i x source who, some i)) = _
  rw [State.requested_cursor]
  exact if_pos hf

/-- A request flag newly set changes the stop's record. -/
theorem State.requested_eq (hx : s.route.stops.get i = some x) (hr : x.request = false) (source who : Nat) :
    s.requested i x source who = ((s.touch (stopRec i)).onRoute fun r =>
      { r with stops := r.stops.set i (some { x with request := true }) }).post .stopRequested i.val source who := by
  refine congrArg (State.post .stopRequested i.val source who) (if_neg ?_)
  rw [hx]
  intro e
  have := congrArg Stop.request (Option.some.inj e)
  rw [hr] at this
  cases this

/-- R46: a stop requested in its approach becomes APPROACHING at once. -/
theorem State.requestStop_near_stops (s : State) (i : StopNo) (x : Stop) (source who d : Nat) :
    ((s.requested i x source who).approach i { x with request := true } d).route.stops =
      s.route.stops.set i (some { x with request := true, state := .approaching }) ∧
    (s.store.Good → ((s.requested i x source who).approach i { x with request := true } d).store.Good) := by
  have hin := (s.requested i x source who).approach_spec i { x with request := true } d
  refine ⟨?_, fun hg => hin.good ?_⟩
  · rw [hin.stops, State.recomputeNext_route, State.setStop_route]
    show (s.setStop i (some { x with request := true })).route.stops.set i _ = _
    rw [State.setStop_route]
    exact Tab.set_set _ _ _ _
  · rw [State.recomputeNext, State.setCursor_store, State.setStop_store]
    show (s.setStop i (some { x with request := true })).store.Good
    rw [State.setStop_store]
    exact hg

/-- Settles O30. -/
theorem stopsAreRemovedSkippedAndRequested : Obligations.StopsAreRemovedSkippedAndRequested := by
  unfold Obligations.StopsAreRemovedSkippedAndRequested
  refine ⟨fun p s h hg => ?_, fun p s h hh hg => ⟨fun hp => ?_, fun hp => ⟨fun hn => ?_, fun i x hn hx => ⟨fun hr => ?_, fun hr => ?_⟩⟩⟩⟩
  · intro after
    have hn64 : 64 ≤ 256 := by omega
    refine ⟨fun hh => ⟨fun hp => ?_, fun i hp => ⟨fun hx => ?_, fun x hx => ⟨fun ha => ?_, fun ha => ?_⟩⟩⟩,
      fun hh => ⟨fun hp => ?_, fun i hp => ⟨fun hx => ?_, fun x hx => ⟨fun h1 h2 => ?_, fun ha => ?_⟩⟩⟩⟩
    · exact State.done_refusal hh rfl (withIndex_bad hn64 hp _ _) hg.2.2
    · refine State.done_refusal hh rfl ?_ hg.2.2
      rw [hp, withIndex_index hn64]
      unfold stopRemoveBody
      rw [show (s.dropResv p).route.stops.get i = none from hx]
    · refine State.done_refusal hh rfl ?_ hg.2.2
      rw [hp, withIndex_index hn64]
      unfold stopRemoveBody
      rw [show (s.dropResv p).route.stops.get i = some x from hx]
      exact if_pos ha
    · have hann := State.dropStop_ann ((s.dropResv p).setStop i none) i
      rw [(QuietMove.setStop (s.dropResv p) i none).ann] at hann
      obtain ⟨hstops, hcursor, hann, hsegs, hnoted⟩ := State.stopGivenUp (s := s.dropResv p) i none (.dropStop _ i) hann fun hop =>
        State.dropStop_route (by rw [State.setStop_ctl]; exact hop) i
      have hbody : withIndex 64 h.payload (s.dropResv p) stopRemoveBody =
          (((s.dropResv p).setStop i none).dropStop i).recomputeNext.answer .ok := by
        rw [hp, withIndex_index hn64, stopRemoveBody_some (by exact hx) ha]
      exact ⟨_, State.done_answer hh rfl hbody (hnoted hg), ⟨hstops, hcursor, State.withReply_slot _ _ _ _ _, hann⟩, hsegs⟩
    · exact State.done_refusal hh rfl (withIndex_bad hn64 hp _ _) hg.2.2
    · refine State.done_refusal hh rfl ?_ hg.2.2
      rw [hp, withIndex_index hn64]
      unfold stopSkipBody
      rw [show (s.dropResv p).route.stops.get i = none from hx]
    · refine State.done_refusal hh rfl ?_ hg.2.2
      rw [hp, withIndex_index hn64]
      unfold stopSkipBody
      rw [show (s.dropResv p).route.stops.get i = some x from hx]
      exact if_neg fun k => k.elim h1 h2
    · let y : Stop := { x with state := .skipped, request := false }
      have hann := State.dropStop_ann ((s.dropResv p).setStop i (some y)) i
      rw [(QuietMove.setStop (s.dropResv p) i (some y)).ann] at hann
      obtain ⟨hstops, hcursor, hann, hsegs, hnoted⟩ := State.stopGivenUp (s := s.dropResv p) (v := ((((s.dropResv p).setStop i (some y)).dropStop i).postStop
        i .skipped (s.dropResv p).skipDistance)) i (some y) (.of (.post _ _ _ _ _) (.dropStop _ i)) hann fun hop =>
        State.dropStop_route (by rw [State.setStop_ctl]; exact hop) i
      have hbody : withIndex 64 h.payload (s.dropResv p) stopSkipBody =
          ((((s.dropResv p).setStop i (some y)).dropStop i).postStop i .skipped (s.dropResv p).skipDistance).recomputeNext.answer .ok := by
        rw [hp, withIndex_index hn64, stopSkipBody_some (by exact hx) ha]
      exact ⟨_, State.done_answer hh rfl hbody (hnoted hg), ⟨hstops, hcursor, State.withReply_slot _ _ _ _ _, hann⟩, hsegs⟩
  · exact State.done_refusal hh rfl (noArgs_args hp _ _) hg.2.2
  · refine State.done_refusal hh rfl ?_ hg.2.2
    rw [hp, noArgs_nil]
    unfold stopRequestBody State.requestStop
    rw [show (s.dropResv p).route.cursor.nextStop = none from hn]
  · refine State.done_ok hh rfl (t := s.dropResv p) ?_ hg.2.2
    rw [hp, noArgs_nil]
    unfold stopRequestBody
    rw [State.requestStop_flagged 0 p.val (by exact hn) (by exact hx) hr]
  · intro near
    refine ⟨fun hf => ?_, fun hf => ?_⟩
    · refine State.done_ok hh rfl (t := ((((s.dropResv p).touch (stopRec i)).onRoute fun r =>
        { r with stops := r.stops.set i (some { x with request := true }) }).post .stopRequested i.val 0 p.val)) ?_ hg.2.2
      rw [hp, noArgs_nil, ← State.requested_eq (s := s.dropResv p) hx hr]
      unfold stopRequestBody
      rw [State.requestStop_far 0 p.val (by exact hn) (by exact hx) hr (by exact hf)]
    · obtain ⟨hstops, hgood⟩ := State.requestStop_near_stops (s.dropResv p) i x 0 p.val s.route.cursor.distance
      have hbody : noArgs h.payload (s.dropResv p) (stopRequestBody p) =
          (((s.dropResv p).requested i x 0 p.val).approach i { x with request := true } s.route.cursor.distance).ok [byteOf i.val] := by
        rw [hp, noArgs_nil]
        unfold stopRequestBody
        rw [State.requestStop_near 0 p.val (by exact hn) (by exact hx) hr (by exact hf)]
        rfl
      exact ⟨_, State.done_ok hh rfl hbody (hgood hg).2.2, hstops, State.withReply_slot _ _ _ _ _⟩

end Sys2Proof.Machine
end

section
/-! SUPPORT. Where a commentary item joins its programme's queue, and what a full queue gives up (R60). -/

namespace Sys2Proof.Machine

variable {s : State} {p q : Prog} {x y : Item}

/-- R60: an item joins behind every item whose trigger distance is at or below its own. -/
theorem insertItem_eq (x : Item) (l : List Item) : ∃ a b, l = a ++ b ∧ insertItem x l = a ++ x :: b ∧ (∀ y ∈ a, y.trig ≤ x.trig) ∧
    ∀ y ∈ b.head?, x.trig < y.trig := by
  induction l with
  | nil => exact ⟨[], [], rfl, rfl, nofun, nofun⟩
  | cons y ys ih =>
    unfold insertItem
    split
    · next hy =>
      obtain ⟨a, b, hl, hi, ha, hb⟩ := ih
      refine ⟨y :: a, b, congrArg (y :: ·) hl, congrArg (y :: ·) hi, fun z hz => ?_, hb⟩
      rcases List.mem_cons.1 hz with rfl | hz
      · exact hy
      · exact ha z hz
    · next hy =>
      refine ⟨[], y :: ys, rfl, rfl, nofun, fun z hz => ?_⟩
      obtain rfl := Option.some.inj hz
      exact Nat.lt_of_not_le hy

theorem displaced_eq_none : displaced x l = none ↔ ∀ y ∈ l, y.playing = true ∨ x.priority < y.priority := by
  unfold displaced
  rw [List.find?_eq_none]
  refine forall₂_congr fun y _ => ?_
  cases y.playing <;> simp

/-- R60: the item given up is the oldest of the WAITING ones of a priority at or below the new one's. -/
theorem displaced_eq_some {u v : List Item} (hu : ∀ z ∈ u, z.playing = true ∨ x.priority < z.priority) (hp : y.playing = false)
    (hy : y.priority ≤ x.priority) : displaced x (u ++ y :: v) = some y := by
  unfold displaced
  rw [List.find?_append, show u.find? _ = none from displaced_eq_none.2 hu, Option.none_or]
  exact List.find?_cons_of_pos (by rw [hp]; exact decide_eq_true hy)

theorem erase_displaced {u v : List Item} (hu : ∀ z ∈ u, z.playing = true ∨ x.priority < z.priority) (hp : y.playing = false)
    (hy : y.priority ≤ x.priority) : (u ++ y :: v).erase y = u ++ v := by
  have hnot : y ∉ u := fun hmem => by
    rcases hu y hmem with h | h
    · exact absurd (hp.symm.trans h) nofun
    · exact absurd hy (Nat.not_le.2 h)
  rw [List.erase_append_right _ hnot, List.erase_cons_head]

theorem State.queueOf_setQueue (s : State) (p : Prog) (l : List Item) : (s.setQueue p l).queueOf p = l :=
  Tab.get_set_self _ _ _

theorem State.queueOf_setQueue_other (s : State) (l : List Item) (h : q ≠ p) : (s.setQueue p l).queueOf q = s.queueOf q :=
  Tab.get_set_other (Ne.symm h) _

theorem State.itemLeft_queueOf (s : State) (p : Prog) (o : ItemOutcome) (x : Item) (q : Prog) : (s.itemLeft p o x).queueOf q = s.queueOf q := by
  unfold State.queueOf
  rw [State.itemLeft_com]

theorem State.placeItem_room (x : Item) (h : (s.queueOf p).length < 4) :
    s.placeItem p x = (s.setQueue p (insertItem x (s.queueOf p)), true) := if_pos h

theorem State.placeItem_dropped (h : 4 ≤ (s.queueOf p).length) (hd : displaced x (s.queueOf p) = none) :
    s.placeItem p x = (s.onStore fun st => st.release x.bind.entry, false) := by
  unfold State.placeItem
  refine (if_neg (Nat.not_lt.2 h)).trans ?_
  rw [hd]

theorem State.placeItem_displaced (h : 4 ≤ (s.queueOf p).length) (hd : displaced x (s.queueOf p) = some y) :
    s.placeItem p x = (((s.setQueue p ((s.queueOf p).erase y)).itemLeft p .droppedFull y).onCom fun c =>
      { c with queues := c.queues.modify p fun q => insertItem x q }, true) := by
  unfold State.placeItem
  refine (if_neg (Nat.not_lt.2 h)).trans ?_
  rw [hd]

/-- Settles O32. -/
theorem commentaryItemsJoinTheirQueue : Obligations.CommentaryItemsJoinTheirQueue := by
  unfold Obligations.CommentaryItemsJoinTheirQueue
  have other {u : State} (p q : Prog) (x : Item) (hq : q ≠ p) :
      (u.onCom fun c => { c with queues := c.queues.modify p fun l => insertItem x l }).queueOf q = u.queueOf q :=
    Tab.get_modify_other (Ne.symm hq) _
  refine fun p x s => ⟨fun q hq => ?_, fun hroom => ?_, fun hfull => ⟨fun hall => ?_, fun u y v hl hu hp hy => ?_⟩⟩
  · rcases Nat.lt_or_ge (s.queueOf p).length 4 with hroom | hfull
    · rw [State.placeItem_room x hroom]
      exact s.queueOf_setQueue_other _ hq
    · cases hd : displaced x (s.queueOf p) with
      | none => rw [State.placeItem_dropped hfull hd]; rfl
      | some y => rw [State.placeItem_displaced hfull hd, other p q x hq, State.itemLeft_queueOf, State.queueOf_setQueue_other _ _ hq]
  · obtain ⟨a, b, hl, hi, ha, hb⟩ := insertItem_eq x (s.queueOf p)
    rw [State.placeItem_room x hroom]
    exact ⟨rfl, a, b, hl, (s.queueOf_setQueue p _).trans hi, ha, hb⟩
  · exact State.placeItem_dropped hfull (displaced_eq_none.2 hall)
  · obtain ⟨a, b, huv, hi, ha, hb⟩ := insertItem_eq x (u ++ v)
    rw [State.placeItem_displaced hfull (by rw [hl]; exact displaced_eq_some hu hp hy)]
    refine ⟨rfl, a, b, huv, ?_, ha, hb⟩
    refine (Tab.get_modify_self _ _ _).trans ((congrArg (insertItem x) ?_).trans hi)
    refine (State.itemLeft_queueOf _ _ _ _ _).trans ((State.queueOf_setQueue _ _ _).trans ?_)
    rw [hl, erase_displaced hu hp hy]

end Sys2Proof.Machine
end

section
/-! SUPPORT. Announcement numbers (R77), and what the start of an announcement leaves (R83 to R85). -/

namespace Sys2Proof.Machine

variable {s t u : State} {p q : Prog} {item : AnnItem}

/-! ## Numbers (R77) -/

/-- The number `k` places behind `n`, as the counter runs from 1 to 65535. -/
def numberAfter (n k : Nat) : Nat := if n + k ≤ 65535 then n + k else n + k - 65535

theorem numberAfter_one {n : Nat} (hn : n ≤ 65535) : numberAfter n 1 = if n = 65535 then 1 else n + 1 := by
  unfold numberAfter
  split <;> split <;> omega

theorem numberAfter_numberAfter {n j k : Nat} (hn : n ≤ 65535) (h : j + k ≤ 65535) :
    numberAfter (numberAfter n j) k = numberAfter n (j + k) := by
  unfold numberAfter
  split <;> split <;> split <;> omega

theorem numberAfter_range {n k : Nat} (hn : n ≤ 65535) (hk : 1 ≤ k) (h : k ≤ 65535) : 1 ≤ numberAfter n k ∧ numberAfter n k ≤ 65535 := by
  unfold numberAfter
  split <;> omega

theorem nextFree_zero (used : List Nat) {n : Nat} (hn : n ≤ 65535) : nextFree used 0 n = numberAfter n 1 := (numberAfter_one hn).symm

theorem nextFree_succ (used : List Nat) (fuel : Nat) {n : Nat} (hn : n ≤ 65535) : nextFree used (fuel + 1) n =
    if numberAfter n 1 ∈ used then nextFree used fuel (numberAfter n 1) else numberAfter n 1 := by
  rw [numberAfter_one hn]
  rfl

theorem nextFree_range (used : List Nat) (fuel : Nat) : ∀ n ≤ 65535, 1 ≤ nextFree used fuel n ∧ nextFree used fuel n ≤ 65535 := by
  induction fuel with
  | zero =>
    intro n hn
    rw [nextFree_zero used hn]
    exact numberAfter_range hn (by omega) (by omega)
  | succ fuel ih =>
    intro n hn
    have h := numberAfter_range hn (Nat.le_refl 1) (by omega)
    rw [nextFree_succ used fuel hn]
    split
    · exact ih _ h.2
    · exact h

/-- A search that fails has met a used number at each of its places. -/
theorem nextFree_fresh_or (used : List Nat) (fuel : Nat) (hf : fuel ≤ 65535) : ∀ n ≤ 65535,
    nextFree used fuel n ∉ used ∨ ∀ k, 1 ≤ k → k ≤ fuel → numberAfter n k ∈ used := by
  induction fuel with
  | zero => exact fun n _ => .inr fun k h1 h0 => by omega
  | succ fuel ih =>
    intro n hn
    rw [nextFree_succ used fuel hn]
    split
    · next hmem =>
      refine (ih (by omega) _ (numberAfter_range hn (Nat.le_refl 1) (by omega)).2).imp_right fun h k h1 hk => ?_
      rcases Nat.lt_or_ge 1 k with h2 | h2
      · have := h (k - 1) (by omega) (by omega)
        rwa [numberAfter_numberAfter hn (by omega), show 1 + (k - 1) = k by omega] at this
      · rwa [show k = 1 by omega]
    · next h => exact .inl h

/-- R77: with fewer numbers in use than the search has places, the number found is fresh. -/
theorem nextFree_fresh {used : List Nat} {fuel n : Nat} (hu : used.length < fuel) (hf : fuel ≤ 65535) (hn : n ≤ 65535) :
    nextFree used fuel n ∉ used := by
  refine (nextFree_fresh_or used fuel hf n hn).elim id fun h => ?_
  have hnodup : ((List.range fuel).map fun k => numberAfter n (k + 1)).Nodup := by
    refine List.nodup_range.map_on fun j hj k hk e => ?_
    have hj := List.mem_range.1 hj
    have hk := List.mem_range.1 hk
    unfold numberAfter at e
    split at e <;> split at e <;> omega
  have hsub : ((List.range fuel).map fun k => numberAfter n (k + 1)) ⊆ used := by
    intro m hm
    obtain ⟨k, hk, rfl⟩ := List.mem_map.1 hm
    exact h (k + 1) (by omega) (List.mem_range.1 hk)
  have hlen := (List.subperm_of_subset hnodup hsub).length_le
  rw [List.length_map, List.length_range] at hlen
  omega

theorem Announcer.used_length (a : Announcer) (h : a.queue.length ≤ 8) : a.used.length ≤ 9 := by
  unfold Announcer.used
  rw [List.length_append, List.length_map]
  cases a.current <;> simp only [List.length_nil, List.length_cons] <;> omega

theorem Announcer.mem_used_of_queue (a : Announcer) {x : AnnItem} (h : x ∈ a.queue) : x.number ∈ a.used :=
  List.mem_append_left _ (List.mem_map_of_mem h)

theorem Announcer.mem_used_of_current (a : Announcer) {c : Current} (h : a.current = some c) : c.item.number ∈ a.used := by
  unfold Announcer.used
  rw [h]
  exact List.mem_append_right _ (List.mem_singleton.2 rfl)

/-! ## The start of an announcement (R83 to R85) -/

/-- A change of the Clip Store alone. -/
def StoreMove (s t : State) : Prop := ∃ st, t = s.onStore fun _ => st

theorem StoreMove.refl (s : State) : StoreMove s s := ⟨s.store, rfl⟩

theorem StoreMove.trans (h : StoreMove s t) (k : StoreMove t u) : StoreMove s u := by
  obtain ⟨st, rfl⟩ := h
  obtain ⟨st', rfl⟩ := k
  exact ⟨st', rfl⟩

theorem StoreMove.findClip (s : State) (clip : Nat) : StoreMove s (s.findClip clip).1 := ⟨_, rfl⟩

theorem StoreMove.findSpeech (s : State) (item : AnnItem) (lang : Nat) : StoreMove s (s.findSpeech item lang).1 := by
  have hfirst : StoreMove s (match item.langs.find? fun x => x.1 == lang with
      | some x => s.findClip x.2
      | none => (s, none) : State × Option Binding).1 := by
    split
    · exact .findClip s _
    · exact .refl s
  unfold State.findSpeech
  dsimp only
  split
  · exact hfirst.trans (.findClip _ _)
  · exact hfirst

theorem StoreMove.foldl {γ β : Type} {f : State × β → γ → State × β} (h : ∀ x y, StoreMove x.1 (f x y).1) (l : List γ) (x : State × β) :
    StoreMove x.1 (l.foldl f x).1 := by
  induction l generalizing x with
  | nil => exact .refl _
  | cons y l ih => exact (h x y).trans (ih _)

/-- R84: the choice of the clips takes uses, and changes nothing but the Clip Store. -/
theorem StoreMove.chooseClips (s : State) (item : AnnItem) : StoreMove s (s.chooseClips item).1 := by
  have h1 (x : State × Tab AnnVoice 13) (p : Prog) : StoreMove x.1 (findChime item.chime x p).1 := by
    unfold Machine.findChime
    split
    · exact .refl _
    · split
      · exact .findClip _ _
      · exact .refl _
  have h2 (x : State × Tab AnnVoice 13) (p : Prog) : StoreMove x.1 (findSpeechFor item x p).1 := by
    unfold Machine.findSpeechFor
    split
    · exact .findSpeech _ _ _
    · exact .refl _
  have h3 (x : State × Tab AnnVoice 13) (clip : Nat) : StoreMove x.1 (findPa x clip).1 := .findClip _ _
  exact (StoreMove.foldl h1 allProgs (s, _)).trans ((StoreMove.foldl h2 langProgs _).trans (.foldl h3 _ _))

theorem State.playerStart_ann (s : State) (k : PlayerNo) (clip : Nat) : (s.playerStart k clip).1.ann = s.ann := by
  unfold State.playerStart
  dsimp only
  split
  · exact s.playerStop_ann k
  · exact s.playerStop_ann k

theorem State.cueRequest_ann (s : State) (k : PlayerNo) (clip : Option Nat) : (s.cueRequest k clip).ann = s.ann := by
  unfold State.cueRequest
  split
  · rfl
  · split
    · exact s.playerStart_ann _ _
    · rfl

theorem State.bindAnns_ann (f : Prog → Option Binding) (l : List Prog) (s : State) :
    (l.foldl (fun u q => u.bindAnn q (f q)) s).ann = s.ann := by
  induction l generalizing s with
  | nil => rfl
  | cons q l ih => exact (ih _).trans (Idle.bindAnn_ann s q _)

/-- R85: the ducker is active in LEAD-IN, and no other datum of the controller but the settled marks changes. -/
theorem State.leadIn_ann (s : State) (item : AnnItem) (voices : Tab AnnVoice 13) : (s.leadIn item voices).ann = (s.setDucker true).ann := by
  unfold State.leadIn
  refine (State.cueRequest_ann _ 2 _).trans ?_
  exact State.bindAnns_ann (fun q => (voices.get q).chime) allProgs _

theorem State.setDucker_eq (s : State) (b : Bool) : ∃ x y, s.setDucker b = s.onAnn fun a => { a with ducker := b, settled := x, fresh := y } := by
  unfold State.setDucker
  split
  · next h => exact ⟨s.ann.settled, s.ann.fresh, by rw [← h]; rfl⟩
  · exact ⟨_, _, rfl⟩

/-- What the start of an announcement leaves in the controller and the window (R83, R85, R69). -/
structure Started (item : AnnItem) (s t : State) : Prop where
  current : ∃ c, t.ann.current = some c ∧ c.item = item ∧ c.phase = .leadIn
  rest : ∃ c x y j, t.ann = { s.ann with current := c, ducker := true, settled := x, fresh := y, joined := j }
  window : t.com.window = true

theorem State.startCurrent_started (s : State) (item : AnnItem) : Started item s (s.startCurrent item) := by
  unfold State.startCurrent
  dsimp only
  obtain ⟨st, h⟩ := StoreMove.chooseClips (s.post .announceStarted item.number (annKindCode item.kind) item.stopIndex) item
  generalize (s.post .announceStarted item.number (annKindCode item.kind) item.stopIndex).chooseClips item = x at h
  obtain ⟨v, voices⟩ := x
  dsimp only at h ⊢
  have hann : v.ann = s.ann := by rw [h]; rfl
  obtain ⟨a, b, hd⟩ := State.setDucker_eq (v.onAnn fun z => { z with
    current := some ⟨item, .leadIn, voices, 0, .complete, Tab.fill 13 false⟩, joined := Tab.fill 13 true }) true
  have hlead := State.leadIn_ann (v.onAnn fun z => { z with
    current := some ⟨item, .leadIn, voices, 0, .complete, Tab.fill 13 false⟩, joined := Tab.fill 13 true }) item voices
  rw [hd, State.onAnn_ann, State.onAnn_ann, hann] at hlead
  exact ⟨⟨_, by rw [hlead], rfl, rfl⟩, ⟨_, _, _, _, hlead⟩, rfl⟩

/-- R83: a head that stands alone, with nothing in its way, starts. -/
theorem State.tryStart_started {rest : List AnnItem} (hc : s.ann.current = none) (hq : s.ann.queue = item :: rest)
    (hm : s.headMayStart item = true) : Started item (s.setAnnQueue rest) s.tryStart := by
  unfold State.tryStart
  rw [hc, hq]
  dsimp only
  rw [if_pos hm]
  exact State.startCurrent_started _ _

/-- R83: nothing starts while an announcement is current or the DRIVER channel is ON. -/
theorem State.tryStart_waits (h : s.ann.current ≠ none ∨ s.ann.live.driver ≠ none) : s.tryStart = s := by
  unfold State.tryStart
  split
  · next hc hq =>
    have hd : s.ann.live.driver.isNone = false := by
      rcases h with h | h
      · exact absurd hc h
      · cases hd : s.ann.live.driver with
        | none => exact absurd hd h
        | some l => rfl
    refine if_neg ?_
    unfold State.headMayStart
    rw [hd]
    exact Bool.false_ne_true
  · rfl

theorem State.tryStart_nil (h : s.ann.queue = []) : s.tryStart = s := by
  unfold State.tryStart
  rw [h]
  split
  · next h => cases h
  · rfl

theorem State.headMayStart_run (h : s.ctl.op = .run ∨ s.ctl.op = .parkPending) (hd : s.ann.live.driver = none) (x : AnnItem) :
    s.headMayStart x = true := by
  unfold State.headMayStart
  rw [hd]
  rcases h with h | h <;> rw [h] <;> rfl

theorem State.headMayStart_safety (h : s.ctl.op = .fallback) (hd : s.ann.live.driver = none) {x : AnnItem} (hx : x.kind = .safety) :
    s.headMayStart x = true := by
  unfold State.headMayStart
  rw [hd, h, hx]
  rfl

/-- Settles O33. -/
theorem stopItemsAreNumberedAndArrive : Obligations.StopItemsAreNumberedAndArrive := by
  unfold Obligations.StopItemsAreNumberedAndArrive
  refine ⟨fun s hq hn => ?_, fun s mk => ⟨fun hop => if_pos hop, fun hop => ?_⟩⟩
  · have hfresh : s.takeNumber.1.ann.nextNumber ∉ s.ann.used := nextFree_fresh (Nat.lt_of_le_of_lt (s.ann.used_length hq) (by omega : 9 < 10)) (by omega) hn
    have hrange := nextFree_range s.ann.used 10 _ hn
    exact ⟨rfl, fun x hx e => hfresh (e ▸ s.ann.mem_used_of_queue hx), fun c hc e => hfresh (e ▸ s.ann.mem_used_of_current hc),
      hrange.1, hrange.2, rfl, rfl⟩
  · have hout : ¬(s.ctl.op = .standby ∨ s.ctl.op = .fallback) := by
      rcases hop with h | h <;> rw [h] <;> decide
    have joins (hroom : s.ann.queue.length < 8) : s.stopItemArrives mk =
        (s.takeNumber.1.setAnnQueue (s.ann.queue ++ [mk s.ann.nextNumber])).tryStart :=
      (if_neg hout).trans (if_neg (Nat.not_le.2 hroom))
    refine ⟨fun hfull => (if_neg hout).trans (if_pos hfull), fun hroom hw => ?_, fun hq hc hd => ?_⟩
    · rw [joins hroom]
      exact State.tryStart_waits hw
    · rw [joins (by rw [hq]; exact Nat.zero_lt_succ _)]
      obtain ⟨⟨c, hcur, hitem, hphase⟩, ⟨_, _, _, _, hann⟩, hwin⟩ := State.tryStart_started
        (s := s.takeNumber.1.setAnnQueue (s.ann.queue ++ [mk s.ann.nextNumber])) (rest := []) (item := mk s.ann.nextNumber) hc
        (by rw [hq]; rfl) (State.headMayStart_run hop hd _)
      exact ⟨c, hcur, hitem, hphase, by rw [hann], hwin⟩

end Sys2Proof.Machine
end

section
/-! SUPPORT. ANNOUNCE and ANNOUNCE-CANCEL (R78 to R80, R90), and the live channels (R92 to R94). -/

namespace Sys2Proof.Machine

variable {s t u : State} {p q : Prog} {item x y : AnnItem} {e : AnnEnd} {c : Current} {k : Channel}

/-! ## ANNOUNCE (R78 to R80) -/

theorem paLegal_iff {l : List Nat} : paLegal l = true ↔ 1 ≤ l.length ∧ l.length ≤ 3 ∧ ∀ c ∈ l, c ≠ 0 := by
  simp only [paLegal, Bool.and_eq_true, decide_eq_true_eq, List.all_eq_true, bne_iff_ne, and_assoc]

theorem announceLegal_iff {x : AnnounceArgs} : announceLegal x = true ↔ (x.kind = .cab ∨ x.kind = .safety) ∧
    (∀ y ∈ x.langs, 1 ≤ y.1 ∧ y.1 ≤ 63 ∧ y.2 ≠ 0) ∧ (x.langs.map Prod.fst).Nodup ∧ 1 ≤ x.pa.length ∧ x.pa.length ≤ 3 ∧ ∀ c ∈ x.pa, c ≠ 0 := by
  unfold announceLegal
  rw [Bool.and_eq_true, Bool.and_eq_true, Bool.or_eq_true, beq_iff_eq, beq_iff_eq, langsLegal_iff, paLegal_iff, and_assoc, and_assoc]

/-- R78: a SAFETY item joins behind the SAFETY items at the head. -/
theorem joinQueue_safety {a b : List AnnItem} (hx : x.kind = .safety) (ha : ∀ y ∈ a, y.kind = .safety) (hb : ∀ y ∈ b.head?, y.kind ≠ .safety) :
    joinQueue x (a ++ b) = a ++ x :: b := by
  have hpos : ∀ y ∈ a, (y.kind == AnnKind.safety) = true := fun y hy => beq_iff_eq.2 (ha y hy)
  unfold joinQueue
  rw [if_pos hx, List.takeWhile_append_of_pos hpos, List.dropWhile_append_of_pos hpos]
  cases b with
  | nil => rw [List.takeWhile_nil, List.append_nil, List.dropWhile_nil]
  | cons z b =>
    have hneg : ¬(z.kind == AnnKind.safety) = true := fun h => hb z rfl (beq_iff_eq.1 h)
    rw [List.takeWhile_cons_of_neg (p := fun y : AnnItem => y.kind == AnnKind.safety) hneg, List.append_nil,
      List.dropWhile_cons_of_neg (p := fun y : AnnItem => y.kind == AnnKind.safety) hneg]

theorem joinQueue_cab {q : List AnnItem} (hx : x.kind ≠ .safety) : joinQueue x q = q ++ [x] := if_neg hx

theorem newestOther_append {l : List AnnItem} (hy : y.kind ≠ .safety) : newestOther (l ++ [y]) = some y := by
  unfold newestOther
  rw [List.getLast?_concat]
  exact Option.filter_some_pos (bne_iff_ne.2 hy)

theorem newestOther_none {l : List AnnItem} (h : ∀ y ∈ l, y.kind = .safety) : newestOther l = none := by
  unfold newestOther
  cases e : l.getLast? with
  | none => rfl
  | some z => exact Option.filter_some_neg (by rw [h z (List.mem_of_getLast? e)]; decide)

theorem State.annFull_room (h : s.ann.queue.length < 8) (k : AnnKind) : s.annFull k = false := by
  unfold State.annFull
  rw [show decide (Config.announceDepth ≤ s.ann.queue.length) = false from decide_eq_false (Nat.not_le.2 h)]
  rfl

theorem State.annFull_full {k : AnnKind} (h : 8 ≤ s.ann.queue.length) (hk : k = .cab ∨ ∀ y ∈ s.ann.queue, y.kind = .safety) :
    s.annFull k = true := by
  unfold State.annFull
  rw [show decide (Config.announceDepth ≤ s.ann.queue.length) = true from decide_eq_true h]
  rcases hk with rfl | hall
  · rfl
  · rw [newestOther_none hall, Option.isSome_none, Bool.and_false]
    rfl

theorem State.annFull_displaces (h : newestOther s.ann.queue = some y) : s.annFull .safety = false := by
  unfold State.annFull
  rw [h]
  exact Bool.and_false _

theorem State.enterAnnounce_room (x : AnnItem) (h : s.ann.queue.length < 8) :
    s.enterAnnounce x = (s.setAnnQueue (joinQueue x s.ann.queue)).tryStart := by
  unfold State.enterAnnounce
  rw [if_pos (show s.ann.queue.length < Config.announceDepth from h)]

theorem State.enterAnnounce_displaces (x : AnnItem) (h : 8 ≤ s.ann.queue.length) (hy : newestOther s.ann.queue = some y) :
    s.enterAnnounce x =
      (((s.setAnnQueue s.ann.queue.dropLast).postDropped .displaced y).setAnnQueue (joinQueue x s.ann.queue.dropLast)).tryStart := by
  unfold State.enterAnnounce
  rw [if_neg (show ¬s.ann.queue.length < Config.announceDepth from Nat.not_lt.2 h), hy]
  rfl

section
variable {p : Port} {bs : List Byte} {a : AnnounceArgs}

theorem announceBody_bad (h : ∀ a, announceOf bs = some a → ¬announceLegal a = true) : announceBody p bs s = s.answer .badArgument := by
  unfold announceBody
  rw [show (announceOf bs).filter announceLegal = none from Option.filter_eq_none_iff.2 h]

theorem announceBody_state (ha : announceOf bs = some a) (hl : announceLegal a = true)
    (hop : s.ctl.op = .standby ∨ a.kind = .cab ∧ s.ctl.op = .fallback) : announceBody p bs s = s.answer .refusedState := by
  unfold announceBody
  rw [ha, Option.filter_some_pos hl]
  exact if_pos hop

theorem announceBody_full (ha : announceOf bs = some a) (hl : announceLegal a = true)
    (hop : ¬(s.ctl.op = .standby ∨ a.kind = .cab ∧ s.ctl.op = .fallback)) (hf : s.annFull a.kind = true) :
    announceBody p bs s = s.answer .full := by
  unfold announceBody
  rw [ha, Option.filter_some_pos hl]
  exact (if_neg hop).trans (if_pos hf)

theorem announceBody_enters (ha : announceOf bs = some a) (hl : announceLegal a = true)
    (hop : ¬(s.ctl.op = .standby ∨ a.kind = .cab ∧ s.ctl.op = .fallback)) (hf : s.annFull a.kind = false) :
    announceBody p bs s = (s.takeNumber.1.enterAnnounce (a.item p s.ann.nextNumber)).ok (bytesLE 2 s.ann.nextNumber) := by
  unfold announceBody
  rw [ha, Option.filter_some_pos hl]
  exact (if_neg hop).trans (if_neg (Bool.eq_false_iff.1 hf))

end

/-! ## Announcements cancelled and cut short (R90, R91) -/

/-- R90, R91: the current announcement cut short goes to TAIL with its voices stopping, and the ducker is inactive. -/
theorem State.cutShort_eq (hc : s.ann.current = some c) (hp : c.phase ≠ .tail) (e : AnnEnd) : ∃ x y, s.cutShort e = s.onAnn fun a => { a with
    current := some { c with ending := e, phase := .tail, voices := Tab.map (fun (v : AnnVoice) => { v with stopping := true }) c.voices }
    ducker := false, settled := x, fresh := y } := by
  unfold State.cutShort
  rw [hc]
  dsimp only
  rw [if_neg hp]
  unfold State.tailStart
  obtain ⟨x, y, h⟩ := State.setDucker_eq (((s.onCurrent fun c => { c with
    ending := e, voices := Tab.map (fun (v : AnnVoice) => { v with stopping := true }) c.voices })).onCurrent fun c => { c with phase := .tail }) false
  refine ⟨x, y, h.trans ?_⟩
  unfold State.onCurrent State.onAnn
  dsimp only
  rw [hc]
  rfl

theorem State.cutShort_tail (hc : s.ann.current = some c) (hp : c.phase = .tail) (e : AnnEnd) : s.cutShort e = s := by
  unfold State.cutShort
  rw [hc]
  exact if_pos hp

/-- R82, R90: one item alone dropped. -/
theorem State.dropItems_one {f : AnnItem → Bool} {a b : List AnnItem} (hq : s.ann.queue = a ++ x :: b) (hx : f x = true)
    (hother : ∀ y ∈ a ++ b, f y = false) (r : DropReason) : s.dropItems f r = (s.setAnnQueue (a ++ b)).postDropped r x := by
  have hno (l : List AnnItem) (h : ∀ y ∈ l, f y = false) : l.filter f = [] := List.filter_eq_nil_iff.2 fun y hy => Bool.eq_false_iff.1 (h y hy)
  have hyes (l : List AnnItem) (h : ∀ y ∈ l, f y = false) : l.filter (fun y => !f y) = l :=
    List.filter_eq_self.2 fun y hy => by rw [h y hy]; rfl
  have ha : ∀ y ∈ a, f y = false := fun y hy => hother y (List.mem_append_left _ hy)
  have hb : ∀ y ∈ b, f y = false := fun y hy => hother y (List.mem_append_right _ hy)
  have hrest : (a ++ x :: b).filter (fun y => !f y) = a ++ b := by
    rw [List.filter_append, List.filter_cons_of_neg (by rw [hx]; exact Bool.false_ne_true), hyes a ha, hyes b hb]
  have hdropped : (a ++ x :: b).filter f = [x] := by
    rw [List.filter_append, List.filter_cons_of_pos hx, hno a ha, hno b hb, List.nil_append]
  unfold State.dropItems
  rw [hq, hrest, hdropped]
  rfl

theorem announceCancelBody_waiting {n : Nat} {a b : List AnnItem} (hq : s.ann.queue = a ++ x :: b) (hx : x.number = n)
    (hother : ∀ y ∈ a ++ b, y.number ≠ n) (hop : s.ctl.op ≠ .parkPending) :
    announceCancelBody n s = ((s.setAnnQueue (a ++ b)).postDropped .cancelled x).answer .ok := by
  unfold announceCancelBody
  have hmem : x ∈ s.ann.queue := by
    rw [hq]
    exact List.mem_append_right _ (List.mem_cons_self ..)
  have hany : (s.ann.queue.any fun y => y.number == n) = true := List.any_eq_true.2 ⟨x, hmem, beq_iff_eq.2 hx⟩
  refine (if_pos hany).trans ?_
  rw [State.dropItems_one (f := fun y => y.number == n) hq (beq_iff_eq.2 hx) fun y hy => beq_eq_false_iff_ne.2 (hother y hy),
    State.quietCheck_elsewhere (by exact hop)]

theorem announceCancelBody_current {n : Nat} (hq : ∀ x ∈ s.ann.queue, x.number ≠ n) (hc : s.ann.current = some c) (hn : c.item.number = n) :
    announceCancelBody n s = (s.cutShort .cancelled).answer .ok := by
  unfold announceCancelBody
  rw [if_neg fun h => by
    obtain ⟨x, hx, e⟩ := List.any_eq_true.1 h
    exact hq x hx (beq_iff_eq.1 e)]
  refine if_pos ?_
  rw [hc, ← hn]
  rfl

theorem announceCancelBody_none {n : Nat} (hq : ∀ x ∈ s.ann.queue, x.number ≠ n) (hc : ∀ c, s.ann.current = some c → c.item.number ≠ n) :
    announceCancelBody n s = s.answer .notFound := by
  unfold announceCancelBody
  rw [if_neg fun h => by
    obtain ⟨x, hx, e⟩ := List.any_eq_true.1 h
    exact hq x hx (beq_iff_eq.1 e)]
  refine if_neg fun h => ?_
  obtain ⟨c, e, hn⟩ := Option.map_eq_some_iff.1 h
  exact hc c e hn

/-- Settles O34. -/
theorem announcementsEnterAndAreCancelled : Obligations.AnnouncementsEnterAndAreCancelled := by
  unfold Obligations.AnnouncementsEnterAndAreCancelled
  refine ⟨fun p s h hh hg => ⟨fun hbad => ?_, fun x hx hl => ⟨fun hop => ?_, fun hop => ?_⟩⟩,
    fun p s h hh hg => ⟨fun hlen => ?_, fun hlen => ⟨fun a x b hq hx hother hop => ?_, fun hq => ⟨fun c hc hn => ⟨fun hp => ?_, fun hp => ?_⟩,
      fun hnone => ?_⟩⟩⟩⟩
  · exact State.done_refusal hh rfl (announceBody_bad fun x hx hl => hbad x hx (announceLegal_iff.1 hl)) hg.2.2
  · exact State.done_refusal hh rfl (announceBody_state hx (announceLegal_iff.2 hl) hop) hg.2.2
  · have hl' := announceLegal_iff.2 hl
    have hopen : ¬((s.dropResv p).ctl.op = .standby ∨ x.kind = .cab ∧ (s.dropResv p).ctl.op = .fallback) := by
      show ¬(s.ctl.op = .standby ∨ x.kind = .cab ∧ s.ctl.op = .fallback)
      rcases hop with h | h | ⟨h, hk⟩ <;> rw [h]
      · simp
      · simp
      · rw [hk]; simp
    refine ⟨fun hfull hk => ?_, fun hroom hw a b hq hcab hsafe => ?_, fun hfull hk hw a b y hq ha hb => ?_, fun hq hc hd => ?_⟩
    · exact State.done_refusal hh rfl (announceBody_full hx hl' hopen (State.annFull_full hfull hk)) hg.2.2
    · have hjoin : joinQueue (x.item p s.ann.nextNumber) s.ann.queue = a ++ x.item p s.ann.nextNumber :: b := by
        rcases hl.1 with hk | hk
        · rw [hq, hcab hk, List.append_nil]
          exact joinQueue_cab (show x.kind ≠ .safety by rw [hk]; decide)
        · rw [hq]
          exact joinQueue_safety hk (hsafe hk).1 (hsafe hk).2
      refine State.done_ok hh rfl (t := (s.dropResv p).takeNumber.1.setAnnQueue (a ++ x.item p s.ann.nextNumber :: b)) ?_ hg.2.2
      rw [announceBody_enters hx hl' hopen (State.annFull_room (by exact hroom) _), State.enterAnnounce_room _ (by exact hroom)]
      show (((s.dropResv p).takeNumber.1.setAnnQueue (joinQueue (x.item p s.ann.nextNumber) s.ann.queue)).tryStart).ok _ = _
      rw [hjoin, State.tryStart_waits (by exact hw)]
      rfl
    · have hy : newestOther s.ann.queue = some y := by
        rw [hq]
        exact newestOther_append (hb y (List.mem_append_right _ (List.mem_singleton.2 rfl)))
      have hjoin : joinQueue (x.item p s.ann.nextNumber) s.ann.queue.dropLast = a ++ x.item p s.ann.nextNumber :: b := by
        rw [hq, List.dropLast_concat]
        refine joinQueue_safety hk ha fun z hz => hb z (List.mem_append_left _ (List.mem_of_mem_head? hz))
      refine State.done_ok hh rfl (t := ((((s.dropResv p).takeNumber.1.setAnnQueue s.ann.queue.dropLast).postDropped .displaced y).setAnnQueue
        (a ++ x.item p s.ann.nextNumber :: b))) ?_ hg.2.2
      rw [announceBody_enters hx hl' hopen (by rw [hk]; exact State.annFull_displaces hy), State.enterAnnounce_displaces (s := (s.dropResv p).takeNumber.1) _ hfull hy]
      show ((((s.dropResv p).takeNumber.1.setAnnQueue s.ann.queue.dropLast).postDropped .displaced y).setAnnQueue
        (joinQueue (x.item p s.ann.nextNumber) s.ann.queue.dropLast)).tryStart.ok _ = _
      rw [hjoin, State.tryStart_waits (by exact hw)]
      rfl
    · have hmay : ((s.dropResv p).takeNumber.1.setAnnQueue [x.item p s.ann.nextNumber]).headMayStart (x.item p s.ann.nextNumber) = true := by
        rcases hop with h | h | ⟨h, hk⟩
        · exact State.headMayStart_run (.inl h) hd _
        · exact State.headMayStart_run (.inr h) hd _
        · exact State.headMayStart_safety h hd hk
      have hjoin : joinQueue (x.item p s.ann.nextNumber) [] = [x.item p s.ann.nextNumber] := by
        unfold joinQueue
        split <;> rfl
      have hin := Inner.tryStart ((s.dropResv p).takeNumber.1.setAnnQueue [x.item p s.ann.nextNumber])
      obtain ⟨⟨c, hcur, hitem, hphase⟩, ⟨_, _, _, _, hann⟩, hwin⟩ := State.tryStart_started
        (s := (s.dropResv p).takeNumber.1.setAnnQueue [x.item p s.ann.nextNumber]) (rest := []) hc rfl hmay
      have hbody : announceBody p h.payload (s.dropResv p) =
          ((s.dropResv p).takeNumber.1.setAnnQueue [x.item p s.ann.nextNumber]).tryStart.ok (bytesLE 2 s.ann.nextNumber) := by
        rw [announceBody_enters hx hl' hopen (State.annFull_room (show s.ann.queue.length < 8 by rw [hq]; exact Nat.zero_lt_succ _) _),
          State.enterAnnounce_room (s := (s.dropResv p).takeNumber.1) _ (show s.ann.queue.length < 8 by rw [hq]; exact Nat.zero_lt_succ _)]
        show (((s.dropResv p).takeNumber.1.setAnnQueue (joinQueue (x.item p s.ann.nextNumber) s.ann.queue)).tryStart).ok _ = _
        rw [hq, hjoin]
        rfl
      generalize ((s.dropResv p).takeNumber.1.setAnnQueue [x.item p s.ann.nextNumber]).tryStart = t at hin hcur hann hwin hbody
      exact ⟨_, c, State.done_ok hh rfl hbody (hin.good hg).2.2, (congrArg Announcer.queue hann :), hcur, hitem, hphase,
        (congrArg Announcer.ducker hann :), hwin, State.withReply_slot _ _ _ _ _⟩
  · exact State.done_refusal hh rfl (withWord_bad hlen _ _) hg.2.2
  · refine State.done_answer hh rfl (t := ((s.dropResv p).setAnnQueue (a ++ b)).postDropped .cancelled x) ?_ hg.2.2
    rw [withWord_word hlen]
    exact announceCancelBody_waiting hq hx hother hop
  · refine State.done_answer hh rfl (t := s.dropResv p) ?_ hg.2.2
    rw [withWord_word hlen, announceCancelBody_current (s := s.dropResv p) hq hc hn, State.cutShort_tail (s := s.dropResv p) hc hp]
  · obtain ⟨x, y, hcut⟩ := State.cutShort_eq (s := s.dropResv p) hc hp .cancelled
    have hbody : withWord h.payload (s.dropResv p) announceCancelBody = ((s.dropResv p).cutShort .cancelled).answer .ok := by
      rw [withWord_word hlen]
      exact announceCancelBody_current (s := s.dropResv p) hq hc hn
    rw [hcut] at hbody
    exact ⟨_, State.done_answer hh rfl hbody hg.2.2, rfl, rfl, rfl, State.withReply_slot _ _ _ _ _, rfl⟩
  · refine State.done_refusal hh rfl ?_ hg.2.2
    rw [withWord_word hlen]
    exact announceCancelBody_none hq hnone

end Sys2Proof.Machine
end

section
/-! SUPPORT. The live channels (R92 to R94). -/

namespace Sys2Proof.Machine

variable {s t : State} {p : Port} {c : Channel} {l : LiveOn} {bs : List Byte}

theorem withChannel_code (c : Channel) (s : State) (k : Channel → State → Answer) : withChannel [byteOf (channelCode c)] s k = k c s := by
  cases c <;> rfl

theorem withChannel_bad (h : ∀ c, bs ≠ [byteOf (channelCode c)]) (s : State) (k : Channel → State → Answer) :
    withChannel bs s k = s.answer .badArgument := by
  have hnone : (oneNumber 1 bs).bind channelOf = none := by
    unfold oneNumber
    split
    · next hl =>
      obtain ⟨b, rfl⟩ := List.length_eq_one_iff.1 hl
      have hne (c : Channel) : natLE [b] ≠ channelCode c := fun e => h c (by rw [← e]; exact congrArg (fun x => [x]) (byteOf_add_mul b 0).symm)
      rw [Option.bind_some]
      unfold channelOf
      split
      · next e => exact absurd e (hne .driver)
      · next e => exact absurd e (hne .guide)
      · rfl
    · rfl
  unfold withChannel
  rw [hnone]

/-! ## LIVE-ON and LIVE-OFF (R92, R93) -/

theorem liveOnBody_inUse (hop : s.ctl.op ≠ .standby) (hl : s.ann.live.get c = some l) (ho : l.owner ≠ p) :
    liveOnBody p c s = s.answer .inUse := by
  unfold liveOnBody
  refine (if_neg hop).trans ?_
  dsimp only
  rw [hl]
  exact if_neg ho

theorem liveOnBody_on (hop : s.ctl.op ≠ .standby) (hl : ∀ l, s.ann.live.get c = some l → l.owner = p) :
    liveOnBody p c s = (s.setLive c (some ⟨p, s.ctl.time⟩)).ok (bytesLE 4 s.ctl.time.toNat) := by
  unfold liveOnBody
  refine (if_neg hop).trans ?_
  dsimp only
  cases e : s.ann.live.get c with
  | none => rfl
  | some l => exact if_pos (hl l e)

theorem State.tryStart_live (s : State) : s.tryStart.ann.live = s.ann.live ∧ s.tryStart.ann.lost = s.ann.lost := by
  unfold State.tryStart
  split
  · split
    · next x rest _ _ _ =>
      obtain ⟨_, _, _, _, hann⟩ := (State.startCurrent_started (s.setAnnQueue rest) x).rest
      rw [hann]
      exact ⟨rfl, rfl⟩
    · exact ⟨rfl, rfl⟩
  · exact ⟨rfl, rfl⟩

/-- R93, R94: the test of R83 and the quiet report leave the live channels. -/
theorem State.afterLive_live (c : Channel) (s : State) : (s.afterLive c).ann.live = s.ann.live ∧ (s.afterLive c).ann.lost = s.ann.lost := by
  unfold State.afterLive
  rw [State.quietCheck_ann]
  split
  · exact s.tryStart_live
  · exact ⟨rfl, rfl⟩

theorem State.afterLive_inner (c : Channel) (s : State) : Inner s (s.afterLive c) := .of (.quietCheck _) (.ite (.tryStart s) (.refl s))

/-- With nothing waiting, and outside PARK-PENDING, nothing follows a channel's turning OFF. -/
theorem State.afterLive_idle (hq : s.ann.queue = []) (hop : s.ctl.op ≠ .parkPending) (c : Channel) : s.afterLive c = s := by
  unfold State.afterLive
  rw [State.tryStart_nil hq, ite_self, State.quietCheck_elsewhere hop]

theorem liveOffBody_own (hl : s.ann.live.get c = some l) (ho : l.owner = p) :
    liveOffBody p c s = ((s.liveTurnsOff c).afterLive c).answer .ok := by
  unfold liveOffBody
  rw [hl]
  exact if_pos ho

theorem liveOffBody_other (hl : s.ann.live.get c = some l) (ho : l.owner ≠ p) : liveOffBody p c s = s.answer .notOwner := by
  unfold liveOffBody
  rw [hl]
  exact if_neg ho

theorem liveOffBody_off (hl : s.ann.live.get c = none) : liveOffBody p c s = s.answer .notActive := by
  unfold liveOffBody
  rw [hl]

/-! ## Time-out (R94) -/

theorem State.liveTimeout_due (hl : s.ann.live.get c = some l) (hd : 90000 ≤ (s.ctl.time - l.start).toNat) :
    s.liveTimeout c = ((s.liveTurnsOff c).post .liveTimeout (channelCode c) l.owner.val 0).afterLive c := by
  unfold State.liveTimeout
  rw [hl]
  exact if_pos hd

theorem State.liveTimeout_early (hl : s.ann.live.get c = some l) (hd : (s.ctl.time - l.start).toNat < 90000) : s.liveTimeout c = s := by
  unfold State.liveTimeout
  rw [hl]
  exact if_neg (Nat.not_le.2 hd)

theorem State.liveTimeout_off (hl : s.ann.live.get c = none) : s.liveTimeout c = s := by
  unfold State.liveTimeout
  rw [hl]

theorem Pair.get_set_self {α : Type} (x : Pair α) (c : Channel) (v : α) : (x.set c v).get c = v := by cases c <;> rfl

/-- Settles O36. -/
theorem liveChannelsTurnOnAndOff : Obligations.LiveChannelsTurnOnAndOff := by
  unfold Obligations.LiveChannelsTurnOnAndOff
  refine ⟨fun p s h => ?_, fun c s hg => ⟨fun hl => ?_, fun l hl => ⟨fun hd => ?_, fun hd => ?_⟩⟩⟩
  · intro off
    refine ⟨fun hh => ⟨fun hbad => ?_, fun c hp => ⟨fun hop => ?_, fun hop => ⟨fun hl => ?_, fun hl => ?_⟩⟩⟩,
      fun hh hg => ⟨fun hbad => ?_, fun c hp => ⟨fun hl => ?_, fun l hl => ⟨fun ho => ?_, fun ho => ?_⟩⟩⟩⟩
    · exact State.next_refused hh rfl (withChannel_bad hbad _ _)
    · refine State.next_refused hh rfl ?_
      rw [hp, withChannel_code]
      exact if_pos hop
    · obtain ⟨l, hl, ho⟩ := hl
      refine State.next_refused hh rfl ?_
      rw [hp, withChannel_code]
      exact liveOnBody_inUse (s := s.dropResv p) hop hl ho
    · refine State.next_ok hh rfl (t := (s.dropResv p).setLive c (some ⟨p, s.ctl.time⟩)) ?_
      rw [hp, withChannel_code]
      exact liveOnBody_on (s := s.dropResv p) hop hl
    · exact State.done_refusal hh rfl (withChannel_bad hbad _ _) hg.2.2
    · refine State.done_refusal hh rfl ?_ hg.2.2
      rw [hp, withChannel_code]
      exact liveOffBody_off (s := s.dropResv p) hl
    · refine State.done_refusal hh rfl ?_ hg.2.2
      rw [hp, withChannel_code]
      exact liveOffBody_other (s := s.dropResv p) hl ho
    · have hbody : withChannel h.payload (s.dropResv p) (liveOffBody p) = (((s.dropResv p).liveTurnsOff c).afterLive c).answer .ok := by
        rw [hp, withChannel_code]
        exact liveOffBody_own (s := s.dropResv p) hl ho
      have hlive := ((s.dropResv p).liveTurnsOff c).afterLive_live c
      have hin := ((s.dropResv p).liveTurnsOff c).afterLive_inner c
      have hidle (hq : s.ann.queue = []) (hop : s.ctl.op ≠ .parkPending) :=
        State.afterLive_idle (s := (s.dropResv p).liveTurnsOff c) hq hop c
      generalize ((s.dropResv p).liveTurnsOff c).afterLive c = t at hbody hlive hin hidle
      refine ⟨_, State.done_answer hh rfl hbody (hin.good hg).2.2, hlive.1, ?_, State.withReply_slot _ _ _ _ _, fun hq hop => ?_⟩
      · refine (congrArg (fun x => Pair.get x c) hlive.2).trans ?_
        exact Pair.get_set_self _ _ _
      · rw [hidle hq hop]
        rfl
  · show (s.liveTimeout c).done = _
    rw [State.liveTimeout_off hl]
    exact State.done_of_noted hg.2.2
  · show (s.liveTimeout c).done = _
    rw [State.liveTimeout_early hl hd]
    exact State.done_of_noted hg.2.2
  · have hlive := ((s.liveTurnsOff c).post .liveTimeout (channelCode c) l.owner.val 0).afterLive_live c
    have hin := ((s.liveTurnsOff c).post .liveTimeout (channelCode c) l.owner.val 0).afterLive_inner c
    have hidle (hq : s.ann.queue = []) (hop : s.ctl.op ≠ .parkPending) :=
      State.afterLive_idle (s := (s.liveTurnsOff c).post .liveTimeout (channelCode c) l.owner.val 0) hq hop c
    have hdue := State.liveTimeout_due hl hd
    generalize ((s.liveTurnsOff c).post .liveTimeout (channelCode c) l.owner.val 0).afterLive c = t at hlive hin hidle hdue
    refine ⟨t, ?_, hlive.1, ?_, fun hq hop => hidle hq hop⟩
    · show (s.liveTimeout c).done = _
      rw [hdue]
      exact State.done_of_noted (hin.good hg).2.2
    · refine (congrArg (fun x => Pair.get x c) hlive.2).trans ?_
      exact Pair.get_set_self _ _ _

end Sys2Proof.Machine
end

section
/-! SUPPORT. PARK, UNPARK and the PARK line (R186). -/

namespace Sys2Proof.Machine

variable {s t : State} {p : Port} {h : InHand} {x : ParkHold} {cause : StateCause}

theorem Announcer.quiet_iff {a : Announcer} : a.quiet = true ↔
    a.current = none ∧ a.queue = [] ∧ a.live.driver = none ∧ a.live.guide = none := by
  unfold Announcer.quiet
  rw [Bool.and_eq_true, Bool.and_eq_true, Bool.and_eq_true, Option.isNone_iff_eq_none, List.isEmpty_iff, Option.isNone_iff_eq_none,
    Option.isNone_iff_eq_none, and_assoc, and_assoc]

/-- R187: with the controller at work a park waits in PARK-PENDING. -/
theorem State.enterPark_waits (hq : s.ann.quiet = false) (x : ParkHold) (cause : StateCause) :
    s.enterPark x cause = (s.changeOp .parkPending cause).setParkHold (some x) :=
  if_neg fun h => Bool.eq_false_iff.1 hq h.2

/-- R187: with the controller quiet a park enters STANDBY in the same event. -/
theorem State.enterPark_rests (hq : s.ann.quiet = true) (x : ParkHold) (cause : StateCause) :
    s.enterPark x cause = ((s.changeOp .parkPending cause).setParkHold (some x)).enterStandby :=
  if_pos ⟨rfl, hq⟩

/-- R186: what a park entered with the controller quiet leaves. -/
theorem State.enterPark_rested (hq : s.ann.quiet = true) (x : ParkHold) (cause : StateCause) :
    Rested ((s.changeOp .parkPending cause).setParkHold (some x)) (s.enterPark x cause) := by
  rw [State.enterPark_rests hq]
  exact State.enterStandby_rested _

/-- R186: a release returns the hub to RUN, and out of STANDBY the poll pointer starts afresh. -/
theorem State.leavePark_eq (s : State) (cause : StateCause) : s.leavePark cause =
    (((s.onCtl fun c => { c with op := .run, hold := none }).post .stateChanged 0 (opStateCode s.ctl.op) (causeCode cause)).onSeat fun k =>
      { k with pointer := if s.ctl.op = .standby then 0 else k.pointer }) := by
  unfold State.leavePark
  by_cases hop : s.ctl.op = .standby
  · simp only [if_pos hop]
    rfl
  · simp only [if_neg hop]
    rfl

/-- Settles O54. -/
theorem parkingFollowsItsTable : Obligations.ParkingFollowsItsTable := by
  unfold Obligations.ParkingFollowsItsTable
  intro p s h hg quiet parked pending running resting
  have hquiet : quiet ↔ s.ann.quiet = true := Announcer.quiet_iff.symm
  have hloud (hq : ¬quiet) : s.ann.quiet = false := Bool.eq_false_iff.2 fun e => hq (hquiet.2 e)
  have rested {u t : State} {x : ParkHold} (k : Rested u t) (hu : u.ctl.hold = some x) (htime : u.ctl.time = s.ctl.time)
      (hann : u.ann = s.ann) : resting x t :=
    ⟨congrArg Control.op k.ctl, (congrArg Control.hold k.ctl).trans hu, (congrArg Control.time k.ctl).trans htime,
      fun q hq => ⟨k.queues q hq, k.occ q hq⟩, k.beds, k.players, k.seats, k.ann.trans hann⟩
  refine ⟨fun hh => ⟨fun hp => ?_, fun hp => ?_⟩, fun hh => ⟨fun hp => ?_, fun hp => ?_⟩, ?_, ?_, fun hs hc ht hk => ?_⟩
  · exact State.done_refusal hh rfl (noArgs_args hp _ _) hg.2.2
  · have hbody : noArgs h.payload (s.dropResv p) parkBody = parkBody (s.dropResv p) := by rw [hp, noArgs_nil]
    refine ⟨fun hop hq => ?_, fun hop hq => ?_, fun hop => ?_, fun hop => ?_⟩
    · refine State.done_answer hh rfl (t := pending .command 0 (s.dropResv p)) (hbody.trans ?_) hg.2.2
      unfold parkBody
      rw [show (s.dropResv p).ctl.op = .run from hop]
      dsimp only
      rw [State.enterPark_waits (s := s.dropResv p) (hloud hq)]
      unfold State.changeOp
      rw [show (s.dropResv p).ctl.op = .run from hop]
      rfl
    · have hrest := State.enterPark_rested (s := s.dropResv p) (hquiet.1 hq) .command .parkCommand
      have hin := Inner.enterPark (s.dropResv p) .command .parkCommand
      have hpark : parkBody (s.dropResv p) = ((s.dropResv p).enterPark .command .parkCommand).answer .ok := by
        unfold parkBody
        rw [show (s.dropResv p).ctl.op = .run from hop]
      generalize (s.dropResv p).enterPark .command .parkCommand = t at hrest hin hpark
      have hr := rested hrest rfl rfl rfl
      exact ⟨_, State.done_answer hh rfl (hbody.trans hpark) (hin.good hg).2.2, hr, State.withReply_slot _ _ _ _ _⟩
    · refine State.done_answer hh rfl (t := (s.dropResv p).setParkHold (some .command)) (hbody.trans ?_) hg.2.2
      unfold parkBody
      rcases hop with hop | hop <;> rw [show (s.dropResv p).ctl.op = _ from hop]
    · refine State.done_refusal hh rfl (hbody.trans ?_) hg.2.2
      unfold parkBody
      rw [show (s.dropResv p).ctl.op = _ from hop]
  · exact State.next_refused hh rfl (noArgs_args hp _ _)
  · have hbody : noArgs h.payload (s.dropResv p) unparkBody = unparkBody (s.dropResv p) := by rw [hp, noArgs_nil]
    refine ⟨fun hop => ?_, fun hop => ?_⟩
    · refine State.next_answer hh rfl (t := running 2 (s.dropResv p)) (hbody.trans ?_)
      rw [show running 2 (s.dropResv p) = (s.dropResv p).leavePark .unpark from ((s.dropResv p).leavePark_eq .unpark).symm]
      unfold unparkBody
      rcases hop with hop | hop <;> rw [show (s.dropResv p).ctl.op = _ from hop]
    · refine State.next_refused hh rfl (hbody.trans ?_)
      unfold unparkBody
      cases e : (s.dropResv p).ctl.op with
      | run => rfl
      | fallback => rfl
      | parkPending => exact absurd (.inl e) hop
      | standby => exact absurd (.inr e) hop
  · intro high
    have exec_high (hl : s.ctl.parkLine = false) : exec .parkLineActive s = high.lineActive.done := if_neg (Bool.eq_false_iff.1 hl)
    refine ⟨fun hl => if_pos hl, fun hl hop => ?_, fun hl hop hq => ?_, fun hl hop hq => ?_⟩
    · rw [exec_high hl, show high.lineActive = high from if_neg hop]
      exact State.done_of_noted hg.2.2
    · have hline : high.lineActive = pending .line 1 high := by
        refine (if_pos hop).trans ((State.enterPark_waits (s := high) (hloud hq) .line .parkLine).trans ?_)
        unfold State.changeOp
        rw [show high.ctl.op = .run from hop]
        rfl
      rw [exec_high hl, hline]
      exact State.done_of_noted hg.2.2
    · have hrest := State.enterPark_rested (s := high) (hquiet.1 hq) .line .parkLine
      have hin := Inner.enterPark high .line .parkLine
      have hline : high.lineActive = high.enterPark .line .parkLine := if_pos hop
      generalize high.enterPark .line .parkLine = t at hrest hin hline
      have hr := rested hrest rfl rfl rfl
      refine ⟨t, ?_, hr, congrArg Control.parkLine hrest.ctl⟩
      rw [exec_high hl, hline]
      exact State.done_of_noted (hin.good hg).2.2
  · intro low
    refine ⟨fun hl => ?_, fun hl hop hx => ?_, fun hl hop => ?_⟩
    · exact congrArg Host.Outcome.next (if_neg (Bool.eq_false_iff.1 hl))
    · refine congrArg Host.Outcome.next ((if_pos hl).trans ((if_pos ⟨hop, hx⟩).trans ?_))
      exact low.leavePark_eq .lineRelease
    · exact congrArg Host.Outcome.next ((if_pos hl).trans (if_neg fun k => hop.elim (fun n => n k.1) fun n => n k.2))
  · refine congrArg Host.Outcome.next (State.conditionalTest_fails hs hc ht (State.testPasses_false fun r hr => ?_))
    unfold State.targetOf at hr
    rcases hk with hk | hk <;> rw [hk] at hr <;> cases hr

end Sys2Proof.Machine
end

section
/-! SUPPORT. What a filing records and posts (R168 to R171), and what the entry to FALLBACK brings about (R172). -/

namespace Sys2Proof.Machine

variable {s t : State} {p q : Prog} {c : Current}

/-- R184: an event joins the tail of each queue that selects it and has room. -/
theorem State.post_queue {p : Port} {k : EventKind} (hm : maskSelects (s.ports.get p).mask k = true) (hl : (s.ports.get p).queue.length < 16)
    (a b c : Nat) : ((s.post k a b c).ports.get p).queue = (s.ports.get p).queue ++ [s.event k a b c] := by
  rw [State.post_get, if_pos hm]
  unfold PortState.receive
  rw [if_pos (show (s.ports.get p).queue.length < Config.eventDepth from hl)]

/-! ## Filings (R168, R169) -/

/-- R169: the capture table, over a record that stands. -/
theorem captures_table (o u e en : Bool) :
    (!o && (u || (!e && en))) = if o then false else if u then true else if e then false else en := by
  revert o u e en
  decide

/-- R169: the capture table, read by the record that stands. -/
theorem captures_eq (old : Option FaultRecord) (u en : Bool) : captures old u en = (match old with
    | none => true
    | some o => if o.uncorrected then false else if u then true else if o.enabled then false else en) := by
  cases old with
  | none => rfl
  | some o => exact captures_table _ _ _ _

/-- R169: the record after a filing. -/
theorem FaultBank.file_eq (b : FaultBank) (k : FaultKind) (en : Bool) (d1 d2 : Nat) (stamp : Count32) : b.file k en d1 d2 stamp =
    { b with record := (if captures b.record (faultUncorrected k) en
        then some ⟨b.record.isSome, faultUncorrected k, en, faultCritical k, k, d1, d2, stamp⟩
        else b.record.map fun o => { o with overrun := true }) } := by
  unfold FaultBank.file
  split <;> rfl

theorem flagCode_eq (b : Bool) : flagCode b = if b then 1 else 0 := by cases b <;> rfl

/-! ## The Announcement Controller at the entry to FALLBACK (R91) -/

/-- What the controller makes of the entry to FALLBACK. -/
structure AnnFallen (a b : Announcer) : Prop where
  queue : b.queue = a.queue.filter fun x => x.kind == .safety
  cut : ∀ c, a.current = some c → c.item.kind ≠ .safety → c.phase ≠ .tail →
    b.ducker = false ∧ ∃ d, b.current = some d ∧ d.item = c.item ∧ d.phase = .tail ∧ d.ending = .cut
  kept : ∀ c, a.current = some c → c.item.kind = .safety ∨ c.phase = .tail → b.current = some c

theorem State.annFallback_fallen (s : State) :
    ∃ a ports, s.annFallback = { s with ann := a, ports := ports } ∧ AnnFallen s.ann a := by
  obtain ⟨ports, hd⟩ := s.dropItems_eq (fun x => x.kind != .safety) .state
  have hf : (s.ann.queue.filter fun x => !(x.kind != AnnKind.safety)) = s.ann.queue.filter fun x => x.kind == .safety := by
    simp only [bne, Bool.not_not]
  rw [hf] at hd
  unfold State.annFallback
  generalize s.dropItems (fun x => x.kind != .safety) .state = t at hd
  have hcur : t.ann.current = s.ann.current := by rw [hd]
  have hqueue : t.ann.queue = s.ann.queue.filter fun x => x.kind == .safety := by rw [hd]
  have key (a : Announcer) : t.onAnn (fun _ => a) = { s with ann := a, ports := ports } := by rw [hd]; rfl
  dsimp only
  cases hc : t.ann.current with
  | none => exact ⟨t.ann, ports, key t.ann, hqueue,
      fun c e => absurd (hc.symm.trans (hcur.trans e)) nofun, fun c e => absurd (hc.symm.trans (hcur.trans e)) nofun⟩
  | some c =>
    have only {d : Current} (e : s.ann.current = some d) : d = c := by
      rw [← hcur, hc] at e
      exact (Option.some.inj e).symm
    dsimp only
    by_cases hs : c.item.kind = .safety
    · rw [if_pos hs]
      exact ⟨t.ann, ports, key t.ann, hqueue, fun d e hn => absurd (only e ▸ hs) hn, fun d e _ => hcur.trans e⟩
    · rw [if_neg hs]
      by_cases hp : c.phase = .tail
      · rw [State.cutShort_tail hc hp]
        exact ⟨t.ann, ports, key t.ann, hqueue, fun d e _ hn => absurd (only e ▸ hp) hn, fun d e _ => hcur.trans e⟩
      · obtain ⟨x, y, hcut⟩ := State.cutShort_eq hc hp .cut
        rw [hcut]
        exact ⟨_, ports, key _, hqueue, fun d e _ _ => ⟨rfl, _, rfl, only e ▸ rfl, rfl, rfl⟩,
          fun d e hk => absurd (only e ▸ hk) fun k => k.elim hs hp⟩

/-! ## The entry to FALLBACK (R172) -/

/-- What the entry to FALLBACK brings about. -/
structure Fallen (s t : State) : Prop where
  ctl : t.ctl = { s.ctl with op := .fallback, hold := none }
  queues : ∀ p, p ≠ 0 → t.queueOf p = []
  ann : AnnFallen s.ann t.ann
  beds : ∀ p, (t.voice p .bed).bind = none
  players : ∀ k, t.light.players.get k = none
  pointer : s.ctl.op = .standby → t.seat.pointer = 0
  faults : t.faults = s.faults
  progs : t.mix.progs = s.mix.progs
  inner : Inner ((s.changeOp .fallback .fault).setParkHold none) t

theorem State.enterFallback_fallen (hop : s.ctl.op ≠ .fallback) : Fallen s s.enterFallback := by
  unfold State.enterFallback
  rw [if_neg hop]
  dsimp only
  have hqueues (q : Prog) (hq : q ≠ 0) : ((s.changeOp .fallback .fault).setParkHold none).emptyQueues.queueOf q = [] :=
    State.emptyQueues_queueOf hq _
  have hq := ItemsMove.emptyQueues ((s.changeOp .fallback .fault).setParkHold none)
  have ha := Inner.emptyQueues ((s.changeOp .fallback .fault).setParkHold none)
  generalize ((s.changeOp .fallback .fault).setParkHold none).emptyQueues = a at hq ha hqueues
  obtain ⟨z, ports, hb, hann⟩ := a.annFallback_fallen
  have hb' := Inner.annFallback a
  generalize a.annFallback = b at hb hb'
  have hbeds := b.releaseBeds_bed
  have hc : VoicesMove b b.releaseBeds := .foldl_bedRelease _ _
  have hc' := Inner.releaseBeds b
  generalize b.releaseBeds = c at hbeds hc hc'
  have hd : ∃ k, (if s.ctl.op = .standby then c.seatRestartPolling else c) = c.onSeat k ∧ (s.ctl.op = .standby → (k c.seat).pointer = 0) := by
    split
    · exact ⟨_, rfl, fun _ => rfl⟩
    · next h => exact ⟨id, rfl, fun k => absurd k h⟩
  obtain ⟨k, hd, hpointer⟩ := hd
  rw [hd]
  have hplayers := (c.onSeat k).stopPlayers_players
  have he := PlayersMove.stopPlayers (c.onSeat k)
  have he' := Inner.stopPlayers (c.onSeat k)
  generalize (c.onSeat k).stopPlayers = d at hplayers he he'
  have hin : Inner ((s.changeOp .fallback .fault).setParkHold none) d :=
    .of he' (.of (.onSeat c k) (.of hc' (.of hb' ha)))
  clear he' hc' hb' ha
  obtain ⟨x1, x2, x3, x4, x5, rfl⟩ := hq
  subst hb
  obtain ⟨y1, y2, rfl⟩ := hc
  obtain ⟨z1, z2, rfl⟩ := he
  exact ⟨rfl, hqueues, hann, hbeds, hplayers, hpointer, rfl, rfl, hin⟩

/-- Settles O51. -/
theorem filingsAndFallbackFollowTheirRules : Obligations.FilingsAndFallbackFollowTheirRules := by
  unfold Obligations.FilingsAndFallbackFollowTheirRules
  refine ⟨fun k d1 d2 s => ?_, fun s => ⟨fun hop => if_pos hop, fun hop => ?_⟩⟩
  · intro i old en u got record filed posted
    have hgot : captures (s.faults.banks.get i).record (faultUncorrected k) en = got := captures_eq _ _ _
    have hfile : s.onFaults (fun f => { f with banks := f.banks.set i ((s.faults.banks.get i).file k en d1 d2 s.ctl.time) }) = filed := by
      rw [FaultBank.file_eq, hgot]
      rfl
    have hposted : en = true → s.filed k d1 d2 = posted := fun he => by
      unfold State.filed
      refine (if_pos (show s.faultEnabled k = true from he)).trans ?_
      rw [flagCode_eq]
      exact congrArg₂ (fun (u : State) (g : Bool) => u.post .fault i.val (faultNumber k) (if g then 1 else 0)) hfile hgot
    refine ⟨fun he => ?_, fun he hk => ?_, fun he hk hp => ?_, fun he hk hp => ?_⟩
    · have hen : s.faultEnabled k = false := he
      rw [State.fileFault_eq, hen, Bool.false_and]
      refine (if_neg Bool.false_ne_true).trans ?_
      exact (if_neg (Bool.eq_false_iff.1 hen)).trans hfile
    · rw [State.fileFault_eq, hk, Bool.and_false]
      exact (if_neg Bool.false_ne_true).trans (hposted he)
    · rw [State.fileFault_pending hp hk he, hposted he]
    · rw [State.fileFault_fallback hp hk he, hposted he]
  · intro t
    have hf : Fallen s t := State.enterFallback_fallen hop
    refine ⟨hf.ctl, hf.queues, fun x hx => ?_, hf.ann.queue, hf.beds, hf.players, hf.ann.cut, hf.ann.kept, hf.pointer, hf.inner.cursor,
      hf.inner.stops, hf.faults, hf.progs, fun p hm hlen => ?_⟩
    · rw [hf.ann.queue] at hx
      exact beq_iff_eq.1 (List.mem_filter.1 hx).2
    · have hq : (((s.changeOp .fallback .fault).setParkHold none).ports.get p).queue =
          (s.ports.get p).queue ++ [⟨.stateChanged, 3, opStateCode s.ctl.op, 5, s.ctl.time⟩] :=
        State.post_queue (s := s.onCtl fun c => { c with op := .fallback }) (p := p) (k := .stateChanged) hm hlen _ _ _
      obtain ⟨l, hl⟩ := hf.inner.queues p
      rw [← hl, hq, List.append_assoc, List.getElem?_append_right (Nat.le_refl _), Nat.sub_self]
      rfl

end Sys2Proof.Machine
end

section
/-! SUPPORT. CUE-START and CUE-STOP (R146 to R149), the light frame and the lamp link (R135, R144). -/

namespace Sys2Proof.Machine

variable {s t u : State} {k : PlayerNo} {st : Store} {n : EntryNo} {e : Entry}

/-! ## Cue players (R146, R148) -/

theorem State.playerStop_stopped (h : s.light.players.get k = none) : s.playerStop k = s := by
  unfold State.playerStop
  rw [h]

/-- R146: with no entry that answers to the clip ID, the start fails. -/
theorem State.playerStart_absent {clip : Nat} (hb : s.store.badMap = []) (hk : s.light.players.get k = none)
    (hn : ∀ n e, s.store.map.get n = some e → ¬(e.standing = true ∧ e.clip = clip)) :
    s.playerStart k clip = (s.post .cueAbsent k.val clip 0, false) := by
  have hl : s.store.lookup clip cueKind = (s.store, .absent .none) := (lookupsAndFreedChains.1 s.store clip cueKind hb).1 hn
  unfold State.playerStart
  dsimp only
  rw [State.playerStop_stopped hk, hl]
  rfl

/-- R146: a READY cue is taken, and the player fetches it from its first keyframe. -/
theorem State.playerStart_ready {q : Page} (hb : s.store.badMap = []) (hk : s.light.players.get k = none)
    (he : s.store.map.get n = some e) (hr : e.state = .ready) (hc : e.kind = .cue) (hq : e.firstPage = some q)
    (hu : ∀ m f, m ≠ n → s.store.map.get m = some f → ¬(f.standing = true ∧ f.clip = e.clip)) :
    s.playerStart k e.clip =
      (State.cueFetch k (Player.begin ⟨n, e.clip, .cue, e.byteLen, q⟩) 0 392 (s.onStore fun st => { st with
        map := st.map.set n (some { e with useCount := e.useCount + 1, lastUse := some (st.seq + 1) }), seq := st.seq + 1 }), true) := by
  have hl : s.store.lookup e.clip cueKind = ({ s.store with
      map := s.store.map.set n (some { e with useCount := e.useCount + 1, lastUse := some (s.store.seq + 1) }), seq := s.store.seq + 1 },
      .found ⟨n, e.clip, .cue, e.byteLen, q⟩) := by
    have h := ((lookupsAndFreedChains.1 s.store e.clip cueKind hb).2 n e he rfl fun m hm f hf => hu m f (ne_of_lt hm) hf).2.2 hr (by rw [hc]; rfl)
    have hbind : (⟨n, e.clip, e.kind, e.byteLen, e.firstPage.getD 0⟩ : Binding) = ⟨n, e.clip, .cue, e.byteLen, q⟩ := by
      rw [hc, hq]
      rfl
    exact h.trans (congrArg (fun b => (_, LookupAnswer.found b)) hbind)
  unfold State.playerStart
  dsimp only
  rw [State.playerStop_stopped hk, hl]
  rfl

section
variable {bs : List Byte} {b c0 c1 : Byte}

theorem cueStartBody_bad_length (h : bs.length ≠ 3) : cueStartBody bs s = s.answer .badArgument := by
  unfold cueStartBody
  split
  · exact absurd rfl h
  · rfl

theorem cueStartBody_bad (h : 3 ≤ b.toNat ∨ natLE [c0, c1] = 0) : cueStartBody [b, c0, c1] s = s.answer .badArgument := by
  unfold cueStartBody
  dsimp only
  split
  · rfl
  · next j hj =>
    refine if_pos (h.resolve_left fun h3 => ?_)
    rw [toIndex_eq_none.2 h3] at hj
    cases hj

theorem cueStartBody_state (hj : k.val = b.toNat) (hc : natLE [c0, c1] ≠ 0) (hop : s.engineMode ≠ 0) :
    cueStartBody [b, c0, c1] s = s.answer .refusedState := by
  unfold cueStartBody
  dsimp only
  rw [← hj, toIndex_val]
  dsimp only
  rw [if_neg hc, if_pos hop]

theorem cueStartBody_taken (hj : k.val = b.toNat) (hc : natLE [c0, c1] ≠ 0) (hop : s.engineMode = 0) :
    cueStartBody [b, c0, c1] s = (s.playerStart k (natLE [c0, c1])).1.answer (if (s.playerStart k (natLE [c0, c1])).2 then .ok else .notFound) := by
  unfold cueStartBody
  dsimp only
  rw [← hj, toIndex_val]
  dsimp only
  rw [if_neg hc, if_neg (not_not.2 hop)]

end

/-- R9: the use that a player gives up. -/
theorem Store.dropCue_map (st : Store) (k : PlayerNo) : (st.dropCue k).map = st.map ∧ (st.dropCue k).badMap = st.badMap := by
  unfold Store.dropCue
  split <;> exact ⟨rfl, rfl⟩

theorem State.playerStop_playing {x : Player} (h : s.light.players.get k = some x) :
    s.playerStop k = (s.setPlayer k none).onStore fun st => (st.dropCue k).release x.bind.entry := by
  unfold State.playerStop
  rw [h]

/-- Settles O49. -/
theorem cuesAreStartedAndStopped : Obligations.CuesAreStartedAndStopped := by
  unfold Obligations.CuesAreStartedAndStopped
  intro p s h hg
  have hgood : s.store.Good := hg
  obtain ⟨hlinks, hmap, hnoted⟩ := hg
  have stands {f : Entry} : f.standing = true ↔ f.state = .ready ∨ f.state = .damaged := Entry.standing_iff
  refine ⟨fun hh => ⟨fun hlen => ?_, fun b c0 c1 hp => ⟨fun hbad => ?_, fun j hj hc => ⟨fun hop => ?_, fun hop hk => ?_⟩⟩⟩,
    fun hh => ⟨fun hbad => ?_, fun j hp => ⟨fun hk => ?_, fun x hk => ?_⟩⟩⟩
  · exact State.done_refusal hh rfl (cueStartBody_bad_length hlen) hnoted
  · refine State.done_refusal hh rfl ?_ hnoted
    rw [hp]
    exact cueStartBody_bad hbad
  · refine State.done_refusal hh rfl ?_ hnoted
    rw [hp]
    refine cueStartBody_state hj hc ?_
    unfold State.engineMode
    rcases hop with hop | hop <;> rw [show (s.dropResv p).ctl.op = _ from hop] <;> decide
  · have hmode : (s.dropResv p).engineMode = 0 := by
      unfold State.engineMode
      rcases hop with hop | hop <;> rw [show (s.dropResv p).ctl.op = _ from hop]
    have hbody : cueStartBody h.payload (s.dropResv p) = _ := hp ▸ cueStartBody_taken hj hc hmode
    refine ⟨fun hn => ?_, fun n e q he hr hcue hclip hq hu => ?_⟩
    · rw [State.playerStart_absent (s := s.dropResv p) hmap hk fun n e he hs => hn n e he (stands.1 hs.1) hs.2] at hbody
      exact State.done_answer hh rfl hbody hnoted
    · rw [← hclip, State.playerStart_ready (s := s.dropResv p) hmap hk he hr hcue hq fun m f hm hf hs =>
        hu m f hm hf (stands.1 hs.1) (hs.2.trans hclip)] at hbody
      have hstart := (Inner.cueFetch ((s.dropResv p).onStore fun st => { st with
        map := st.map.set n (some { e with useCount := e.useCount + 1, lastUse := some (st.seq + 1) }), seq := st.seq + 1 }) j
        (Player.begin ⟨n, e.clip, .cue, e.byteLen, q⟩) 0 392).good hgood
      refine ⟨_, _, State.done_answer hh rfl hbody hstart.2.2, Tab.get_set_self _ _ _, rfl, rfl, rfl, rfl, rfl, rfl, rfl, fun i hi => ?_, rfl,
        State.withReply_slot _ _ _ _ _⟩
      exact Tab.get_set_other (Ne.symm hi) _
  · exact State.done_refusal hh rfl (withIndex_bad (by omega) hbad _ _) hnoted
  · refine State.done_answer hh rfl (t := s.dropResv p) ?_ hnoted
    rw [hp, withIndex_index (by omega), State.playerStop_stopped (s := s.dropResv p) hk]
  · have hbody : withIndex 3 h.payload (s.dropResv p) (fun k s => (s.playerStop k).answer .ok) = ((s.dropResv p).playerStop j).answer .ok := by
      rw [hp, withIndex_index (by omega)]
    have hstop := (Inner.playerStop (s.dropResv p) j).good hgood
    have heq := State.playerStop_playing (s := s.dropResv p) hk
    rw [heq] at hbody hstop
    refine ⟨_, State.done_answer hh rfl hbody hstop.2.2, rfl, State.withReply_slot _ _ _ _ _, fun q => ?_, fun f hf huse => ?_⟩
    · rw [State.withReply_queue]
      exact (QuietMove.dropResv s p).queue q
    · have hd := s.store.dropCue_map j
      show ((s.store.dropCue j).release x.bind.entry).map = _
      rw [Store.release_of_good (hd.2.trans hmap) (by rw [hd.1]; exact hf), if_neg fun hret => huse.elim (fun k => k hret.1) fun k => by omega]
      show (s.store.dropCue j).map.set _ _ = _
      rw [hd.1]

/-! ## The light frame (R135) -/

/-- A change that the cue players make: their engine's layers and players, the Clip Store, the faults and the ports. -/
structure LightMove (s t : State) : Prop where
  rest : { t with light := s.light, store := s.store, faults := s.faults, ports := s.ports } = s
  settings : t.light.dim = s.light.dim ∧ t.light.floorC = s.light.floorC ∧ t.light.fallback = s.light.fallback
  good : s.store.Good → t.store.Good

namespace LightMove

theorem refl (s : State) : LightMove s s := ⟨rfl, ⟨rfl, rfl, rfl⟩, id⟩

theorem trans (h : LightMove s t) (j : LightMove t u) : LightMove s u where
  rest := by
    have hj := congrArg (fun v : State => { v with light := s.light, store := s.store, faults := s.faults, ports := s.ports }) j.rest
    exact hj.trans h.rest
  settings := ⟨j.settings.1.trans h.settings.1, j.settings.2.1.trans h.settings.2.1, j.settings.2.2.trans h.settings.2.2⟩
  good := j.good ∘ h.good

theorem of (j : LightMove t u) (h : LightMove s t) : LightMove s u := h.trans j

theorem ite {a : Prop} [Decidable a] (h : LightMove s t) (j : LightMove s u) : LightMove s (if a then t else u) := by
  split
  · exact h
  · exact j

theorem setPlayer (s : State) (k : PlayerNo) (x : Option Player) : LightMove s (s.setPlayer k x) := ⟨rfl, ⟨rfl, rfl, rfl⟩, id⟩

theorem post (s : State) (k : EventKind) (a b c : Nat) : LightMove s (s.post k a b c) := ⟨rfl, ⟨rfl, rfl, rfl⟩, id⟩

theorem setLayer (s : State) (l : LayerNo) (x : Layer) : LightMove s (s.setLayer l x) := by
  unfold State.setLayer
  exact ite (refl s) ⟨rfl, ⟨rfl, rfl, rfl⟩, id⟩

theorem cueFetch (s : State) (k : PlayerNo) (q : Player) (lo hi : Nat) : LightMove s (s.cueFetch k q lo hi) :=
  ⟨rfl, ⟨rfl, rfl, rfl⟩, (Inner.cueFetch s k q lo hi).good⟩

theorem playerStop (s : State) (k : PlayerNo) : LightMove s (s.playerStop k) := by
  have hg := (Inner.playerStop s k).good
  unfold State.playerStop at hg ⊢
  split at hg
  · exact refl s
  · exact ⟨rfl, ⟨rfl, rfl, rfl⟩, hg⟩

theorem fileFault (s : State) {k : FaultKind} (hk : faultCritical k = false) (d1 d2 : Nat) : LightMove s (s.fileFault k d1 d2) := by
  have h := State.fileFault_noncritical (s := s) hk d1 d2
  refine ⟨?_, ?_, ?_⟩
  · rw [h]
  · rw [h]
    exact ⟨rfl, rfl, rfl⟩
  · rw [State.fileFault_store hk]
    exact id

theorem applyKeyframe (s : State) (k : PlayerNo) (q : Player) (n : Nat) (x : Keyframe) : LightMove s (s.applyKeyframe k q n x) := by
  unfold State.applyKeyframe
  exact ite (.of (cueFetch _ _ _ _ _) (setLayer s _ _)) (.of (setPlayer _ _ _) (setLayer s _ _))

theorem fadeStep (s : State) (k : PlayerNo) : LightMove s (s.fadeStep k) := by
  unfold State.fadeStep
  split
  · exact refl s
  · split
    · exact refl s
    · exact ite (refl s) (.of (setPlayer _ _ _) (setLayer s _ _))

theorem endStep (s : State) (k : PlayerNo) (was : Bool) : LightMove s (s.endStep k was) := by
  unfold State.endStep
  split
  · exact refl s
  · exact ite (ite (cueFetch s _ _ _ _) (.of (post _ _ _ _ _) (playerStop s k))) (setPlayer s _ _)

theorem playerStep (s : State) (k : PlayerNo) : LightMove s (s.playerStep k) := by
  unfold State.playerStep
  split
  · exact refl s
  · refine .of (endStep _ _ _) (.of (fadeStep _ _) ?_)
    split
    · exact applyKeyframe s _ _ _ _
    · exact refl s

theorem cueFail (s : State) (k : PlayerNo) (clip number : Nat) : LightMove s (s.cueFail k clip number) :=
  .of (post _ _ _ _ _) (.of (playerStop _ _) (fileFault s rfl _ _))

theorem keepKeyframe (s : State) (k : PlayerNo) (q : Player) : LightMove s (s.keepKeyframe k q) := by
  unfold State.keepKeyframe
  split
  · exact cueFail s _ _ _
  · exact setPlayer s _ _

theorem cueCheck (s : State) (k : PlayerNo) : LightMove s (s.cueCheck k) := by
  unfold State.cueCheck
  split
  · exact refl s
  · refine ite ?_ (refl s)
    unfold State.cueComplete
    split
    · exact keepKeyframe s _ _
    · split
      · exact cueFail s _ _ _
      · exact keepKeyframe s _ _

theorem frameSteps (l : List PlayerNo) (s : State) : LightMove s (l.foldl State.frameStep s) := by
  induction l generalizing s with
  | nil => exact refl s
  | cons k l ih => exact .of (ih _) (.of (cueCheck _ k) (playerStep s k))

end LightMove

/-- R149: a player that is STOPPED takes no step. -/
theorem State.frameStep_stopped (h : s.light.players.get k = none) : s.frameStep k = s := by
  have hp : s.playerStep k = s := by
    unfold State.playerStep
    rw [h]
  unfold State.frameStep
  rw [hp]
  unfold State.cueCheck
  rw [h]

/-- What is sent does not bear on what is composed. -/
theorem State.sendFrame_output (s : State) (mode : Nat) (z : ZoneNo) : s.sendFrame.light.output mode z = s.light.output mode z := rfl

/-- Settles O50. -/
theorem lightFramesAreSent : Obligations.LightFramesAreSent := by
  unfold Obligations.LightFramesAreSent
  refine fun s hg => ⟨?_, fun hk => ?_, fun ack ha => ?_, fun ha => ⟨?_, ?_⟩⟩
  · have hm : LightMove s ((([0, 1, 2] : List PlayerNo).foldl State.frameStep s).missedAnswer) :=
      .of (.ite (.fileFault _ rfl 1 0) (.refl _)) (.frameSteps [0, 1, 2] s)
    have hexec : exec .lightFrame s = (((([0, 1, 2] : List PlayerNo).foldl State.frameStep s).missedAnswer).sendFrame).done := rfl
    generalize (([0, 1, 2] : List PlayerNo).foldl State.frameStep s).missedAnswer = t at hm hexec
    have hctl : t.ctl = s.ctl := (congrArg State.ctl hm.rest :)
    refine ⟨t.sendFrame, hexec.trans (State.done_of_noted (hm.good hg).2.2), rfl, rfl, hctl, hm.settings.1, hm.settings.2.1, hm.settings.2.2,
      (congrArg State.route hm.rest :), fun z => ?_⟩
    rw [State.sendFrame_output, ← hctl]
    exact Tab.get_ofFn _ z
  · have hsteps : ([0, 1, 2] : List PlayerNo).foldl State.frameStep s = s := by
      rw [List.foldl_cons, List.foldl_cons, List.foldl_cons, List.foldl_nil, State.frameStep_stopped (hk 0), State.frameStep_stopped (hk 1),
        State.frameStep_stopped (hk 2)]
    have hm : LightMove s s.missedAnswer := .ite (.fileFault s rfl 1 0) (.refl s)
    have hmode : s.missedAnswer.engineMode = s.engineMode := by
      unfold State.engineMode
      rw [show s.missedAnswer.ctl = s.ctl from (congrArg State.ctl hm.rest :)]
    show (((([0, 1, 2] : List PlayerNo).foldl State.frameStep s).missedAnswer).sendFrame).done = _
    rw [hsteps]
    refine (State.done_of_noted (s := s.missedAnswer.sendFrame) (hm.good hg).2.2).trans (congrArg Host.Outcome.next ?_)
    unfold State.sendFrame
    rw [hmode]
    rfl
  · exact congrArg Host.Outcome.next (if_neg (by rw [ha]; nofun))
  · exact congrArg Host.Outcome.next (if_pos ha)
  · exact congrArg Host.Outcome.next (if_pos ha)

end Sys2Proof.Machine
end

section
/-! SUPPORT. What the phases of an announcement change (R83 to R88), and what they leave. -/

namespace Sys2Proof.Machine

variable {s t u : State} {p q : Prog}

/-- A change that the Announcement Controller makes: its own data, the window, the ANNOUNCE voices, the cue players and their layers, the
Clip Store and the ports. -/
structure SpeechMove (s t : State) : Prop where
  rest : { t with com := { t.com with window := s.com.window }, ann := s.ann, store := s.store, light := s.light,
                  mix := { t.mix with voices := s.mix.voices }, ports := s.ports } = s
  voices : ∀ p v, v ≠ .announce → t.voice p v = s.voice p v

namespace SpeechMove

theorem refl (s : State) : SpeechMove s s := ⟨rfl, fun _ _ _ => rfl⟩

theorem trans (h : SpeechMove s t) (k : SpeechMove t u) : SpeechMove s u where
  rest := by
    have hk := congrArg (fun v : State => { v with
      com := { v.com with window := s.com.window }, ann := s.ann, store := s.store, light := s.light
      mix := { v.mix with voices := s.mix.voices }, ports := s.ports }) k.rest
    exact hk.trans h.rest
  voices p v hv := (k.voices p v hv).trans (h.voices p v hv)

theorem of (k : SpeechMove t u) (h : SpeechMove s t) : SpeechMove s u := h.trans k

theorem ite {a : Prop} [Decidable a] (h : SpeechMove s t) (k : SpeechMove s u) : SpeechMove s (if a then t else u) := by
  split
  · exact h
  · exact k

theorem foldl {γ : Type} {f : State → γ → State} (h : ∀ s x, SpeechMove s (f s x)) (l : List γ) (s : State) : SpeechMove s (l.foldl f s) := by
  induction l generalizing s with
  | nil => exact refl s
  | cons x l ih => exact (h s x).trans (ih _)

theorem post (s : State) (k : EventKind) (a b c : Nat) : SpeechMove s (s.post k a b c) := ⟨rfl, fun _ _ _ => rfl⟩

theorem onAnn (s : State) (f : Announcer → Announcer) : SpeechMove s (s.onAnn f) := ⟨rfl, fun _ _ _ => rfl⟩

theorem onStore (s : State) (f : Store → Store) : SpeechMove s (s.onStore f) := ⟨rfl, fun _ _ _ => rfl⟩

theorem setWindow (s : State) (b : Bool) : SpeechMove s (s.setWindow b) := ⟨rfl, fun _ _ _ => rfl⟩

theorem onAnnounce (s : State) (q : Prog) (f : VoiceState → VoiceState) : SpeechMove s (s.onVoice q .announce f) :=
  ⟨rfl, fun p v hv => (State.onVoice_voice s q .announce f p v).trans (if_neg fun k => hv k.2)⟩

theorem bindAnn (s : State) (q : Prog) (b : Option Binding) : SpeechMove s (s.bindAnn q b) := by
  unfold State.bindAnn
  split
  · exact onAnnounce s _ _
  · exact refl s

theorem setLayer (s : State) (l : LayerNo) (x : Layer) : SpeechMove s (s.setLayer l x) := by
  unfold State.setLayer
  exact ite (refl s) ⟨rfl, fun _ _ _ => rfl⟩

theorem playerStop (s : State) (k : PlayerNo) : SpeechMove s (s.playerStop k) := by
  unfold State.playerStop
  split
  · exact refl s
  · exact ⟨rfl, fun _ _ _ => rfl⟩

theorem cueFetch (s : State) (k : PlayerNo) (q : Player) (lo hi : Nat) : SpeechMove s (s.cueFetch k q lo hi) := ⟨rfl, fun _ _ _ => rfl⟩

theorem playerStart (s : State) (k : PlayerNo) (clip : Nat) : SpeechMove s (s.playerStart k clip).1 := by
  unfold State.playerStart
  dsimp only
  split
  · exact .of (post _ _ _ _ _) (.of (onStore _ _) (playerStop s k))
  · exact .of (cueFetch _ _ _ _ _) (.of (onStore _ _) (playerStop s k))

theorem cueRequest (s : State) (k : PlayerNo) (clip : Option Nat) : SpeechMove s (s.cueRequest k clip) := by
  unfold State.cueRequest
  split
  · exact refl s
  · exact ite (playerStart s _ _) (refl s)

theorem endStopCue (s : State) : SpeechMove s s.endStopCue := .of (setLayer _ _ _) (playerStop s 2)

theorem storeMove (h : StoreMove s t) : SpeechMove s t := by
  obtain ⟨st, rfl⟩ := h
  exact onStore s _

theorem setDucker (s : State) (b : Bool) : SpeechMove s (s.setDucker b) := ite (refl s) (onAnn s _)

theorem leadIn (s : State) (item : AnnItem) (voices : Tab AnnVoice 13) : SpeechMove s (s.leadIn item voices) :=
  .of (setWindow _ _) (.of (cueRequest _ _ _) (.of (foldl (fun s p => bindAnn s p _) _ _) (setDucker s true)))

theorem startCurrent (s : State) (item : AnnItem) : SpeechMove s (s.startCurrent item) :=
  .of (leadIn _ _ _) (.of (onAnn _ _) (.of (storeMove (.chooseClips _ _)) (post s _ _ _ _)))

theorem tryStart (s : State) : SpeechMove s s.tryStart := by
  unfold State.tryStart
  split
  · exact ite (.of (startCurrent _ _) (onAnn s _)) (refl s)
  · exact refl s

theorem takeNumber (s : State) : SpeechMove s s.takeNumber.1 := ⟨rfl, fun _ _ _ => rfl⟩

theorem onAnnVoice (s : State) (q : Prog) (f : AnnVoice → AnnVoice) : SpeechMove s (s.onAnnVoice q f) := ⟨rfl, fun _ _ _ => rfl⟩

theorem stopItemArrives (s : State) (mk : Nat → AnnItem) : SpeechMove s (s.stopItemArrives mk) := by
  have h : SpeechMove s s.takeNumber.1 := takeNumber s
  exact ite (.of (post _ _ _ _ _) h) (ite (.of (post _ _ _ _ _) h) (.of (tryStart _) (.of (onAnn _ _) h)))

theorem releaseAnn (s : State) (p : Prog) : SpeechMove s (s.releaseAnn p) := by
  unfold State.releaseAnn
  split
  · exact refl s
  · exact .of (onAnnVoice _ _ _) (.of (onAnnounce _ _ _) (foldl (fun s _ => onStore s _) _ s))

theorem closeCurrent (s : State) (tail : Bool) : SpeechMove s (s.closeCurrent tail) := by
  unfold State.closeCurrent
  split
  · exact refl s
  · have h := SpeechMove.of (endStopCue _) (foldl releaseAnn allProgs s)
    exact .of (onAnn _ _) (ite (.of (setWindow _ _) (.of (post _ _ _ _ _) h)) (.of (post _ _ _ _ _) h))

theorem tailStart (s : State) : SpeechMove s s.tailStart := .of (setDucker _ _) (onAnn s _)

theorem speakingEnd (s : State) : SpeechMove s s.speakingEnd := by
  unfold State.speakingEnd
  split
  · exact ite (.of (startCurrent _ _) (.of (onAnn _ _) (closeCurrent s _))) (tailStart s)
  · exact tailStart s

theorem speakingStart (s : State) : SpeechMove s s.speakingStart := by
  unfold State.speakingStart
  split
  · exact refl s
  · exact ite (.of (speakingEnd _) (.of (foldl (fun s p => bindAnn s p _) _ _) (onAnn s _)))
      (.of (foldl (fun s p => bindAnn s p _) _ _) (onAnn s _))

end SpeechMove

end Sys2Proof.Machine
end

section
/-! SUPPORT. Polls, replies and holdoffs of the Seat Link (R121 to R128). -/

namespace Sys2Proof.Machine

variable {s t u : State} {i : SeatNo} {p : Prog}

/-! ## What the Seat Link leaves -/

/-- A change of the Seat Link, the faults and the ports alone, the poll in progress kept. -/
structure LinkMove (s t : State) : Prop where
  rest : { t with seat := s.seat, ports := s.ports, faults := s.faults } = s
  poll : t.seat.poll = s.seat.poll

namespace LinkMove

theorem refl (s : State) : LinkMove s s := ⟨rfl, rfl⟩

theorem trans (h : LinkMove s t) (k : LinkMove t u) : LinkMove s u where
  rest := (congrArg (fun v : State => { v with seat := s.seat, ports := s.ports, faults := s.faults }) k.rest).trans h.rest
  poll := k.poll.trans h.poll

theorem of (k : LinkMove t u) (h : LinkMove s t) : LinkMove s u := h.trans k

theorem ite {a : Prop} [Decidable a] (h : LinkMove s t) (k : LinkMove s u) : LinkMove s (if a then t else u) := by
  split
  · exact h
  · exact k

theorem store (h : LinkMove s t) : t.store = s.store := (congrArg State.store h.rest :)

theorem post (s : State) (k : EventKind) (a b c : Nat) : LinkMove s (s.post k a b c) := ⟨rfl, rfl⟩

theorem setSeat (s : State) (i : SeatNo) (x : Seat) : LinkMove s (s.setSeat i x) := ⟨rfl, rfl⟩

theorem fileFault (s : State) {k : FaultKind} (hk : faultCritical k = false) (d1 d2 : Nat) : LinkMove s (s.fileFault k d1 d2) := by
  have h := State.fileFault_noncritical (s := s) hk d1 d2
  exact ⟨by rw [h], by rw [h]⟩

theorem linkBreakTest (s : State) (b : Bool) : LinkMove s (s.linkBreakTest b) := ite (fileFault s rfl _ _) (refl s)

theorem recountOne (s : State) (p : Prog) : LinkMove s (s.recountOne p) := by
  refine ⟨?_, ?_⟩
  · have h := (SeatMove.recountOne s p).rest
    rw [h]
  · rw [State.recountOne_seat]
    repeat' split
    all_goals rfl

theorem recount (s : State) : LinkMove s s.recount := by
  have key (l : List Prog) : ∀ s : State, LinkMove s (l.foldl State.recountOne s) := by
    induction l with
    | nil => exact refl
    | cons p l ih => exact fun s => (recountOne s p).trans (ih _)
  exact key langProgs s

end LinkMove

theorem State.linkBreakTest_seat (s : State) (b : Bool) : (s.linkBreakTest b).seat = s.seat := by
  rw [State.linkBreakTest_rest]

theorem State.fileFault_seat {k : FaultKind} (hk : faultCritical k = false) (s : State) (d1 d2 : Nat) : (s.fileFault k d1 d2).seat = s.seat :=
  (congrArg State.seat (State.fileFault_noncritical (s := s) hk d1 d2) :)

/-! ## Seat records (R119) -/

/-- R119: a record as it is set over another, its last-change field following a change of state or selection. -/
def Seat.stamped (old : Seat) (time : Count32) (x : Seat) : Seat :=
  { x with lastChange := if x.state = old.state ∧ x.selection = old.selection then old.lastChange else time }

theorem State.setSeat_eq (s : State) (i : SeatNo) (x : Seat) : s.setSeat i x = s.onSeat fun k =>
    { k with seats := k.seats.set i (Seat.stamped (s.seat.seats.get i) s.ctl.time x) } := by
  unfold State.setSeat Seat.stamped
  dsimp only
  split <;> rfl

theorem Seat.stamped_same {old x : Seat} (h : x.state = old.state ∧ x.selection = old.selection) (time : Count32) :
    Seat.stamped old time x = { x with lastChange := old.lastChange } := by
  unfold Seat.stamped
  rw [if_pos h]

/-! ## A poll with no reply (R125, R126) -/

/-- R125: a miss that does not take the seat OFFLINE is counted. -/
theorem State.noReply_counted (h : (s.seat.seats.get i).misses ≠ 2 ∨ (s.seat.seats.get i).state = .offline) : s.noReply i =
    s.onSeat fun k => { k with seats := k.seats.set i { s.seat.seats.get i with
      misses := if (s.seat.seats.get i).misses < 3 then (s.seat.seats.get i).misses + 1 else (s.seat.seats.get i).misses } } := by
  unfold State.noReply
  refine (if_neg fun k => ?_).trans ?_
  · rcases h with h | h
    · exact h k.1
    · rcases k.2 with e | e | e <;> rw [h] at e <;> cases e
  · rw [State.setSeat_eq]
    exact congrArg (fun y => s.onSeat fun k => { k with seats := k.seats.set i y }) (Seat.stamped_same ⟨rfl, rfl⟩ _)

/-- R125, R126: the third miss of a seat that answered takes it OFFLINE. -/
theorem State.noReply_silent (hm : (s.seat.seats.get i).misses = 2) (ho : (s.seat.seats.get i).state ≠ .offline)
    (hd : (s.seat.seats.get i).state ≠ .disabled) : s.noReply i =
    ((((s.setSeat i { s.seat.seats.get i with misses := 3, state := .offline }).postSeat i).fileFault .nodeSilent i.val 0).recount).linkBreakTest
      s.seat.broken := by
  have hanswers : (s.seat.seats.get i).state = .unknown ∨ (s.seat.seats.get i).state = .active ∨ (s.seat.seats.get i).state = .idle := by
    cases e : (s.seat.seats.get i).state with
    | unknown => exact .inl rfl
    | active => exact .inr (.inl rfl)
    | idle => exact .inr (.inr rfl)
    | offline => exact absurd e ho
    | disabled => exact absurd e hd
  unfold State.noReply
  refine (if_pos ⟨hm, hanswers⟩).trans ?_
  rw [hm]
  rfl

theorem LinkMove.noReply (s : State) (i : SeatNo) : LinkMove s (s.noReply i) := by
  unfold State.noReply
  exact .ite (.of (.linkBreakTest _ _) (.of (.recount _) (.of (.fileFault _ rfl _ _) (.of (.post _ _ _ _ _) (.setSeat s _ _))))) (.setSeat s _ _)

/-- A further filing in a bank leaves the record of the same kind there, or takes its place. -/
theorem FaultBank.file_record {b : FaultBank} {r : FaultRecord} (h : b.record = some r) (k : FaultKind) (en : Bool) (d1 d2 : Nat)
    (time : Count32) : ∃ x, (b.file k en d1 d2 time).record = some x ∧ (x.kind = r.kind ∧ x.detail1 = r.detail1 ∨ x.kind = k) := by
  unfold FaultBank.file
  split
  · exact ⟨_, rfl, .inr rfl⟩
  · rw [h]
    exact ⟨_, rfl, .inl ⟨rfl, rfl⟩⟩

/-- An empty record takes the fault filed. -/
theorem FaultBank.file_empty {b : FaultBank} (h : b.record = none) (k : FaultKind) (en : Bool) (d1 d2 : Nat) (time : Count32) :
    (b.file k en d1 d2 time).record = some ⟨false, faultUncorrected k, en, faultCritical k, k, d1, d2, time⟩ := by
  unfold FaultBank.file captures
  rw [h]
  rfl

theorem State.linkBreakTest_record {r : FaultRecord} (h : (s.faults.banks.get 3).record = some r) (hk : r.kind = .nodeSilent ∧ r.detail1 = i.val)
    (b : Bool) : ∃ x, ((s.linkBreakTest b).faults.banks.get 3).record = some x ∧ (x.kind = .nodeSilent ∧ x.detail1 = i.val ∨ x.kind = .linkBreak) := by
  unfold State.linkBreakTest
  split
  · have hbank := State.fileFault_bank (k := .linkBreak) rfl s s.seat.count 0
    rw [show bankIndex (faultBank .linkBreak) = 3 from rfl] at hbank
    rw [hbank]
    obtain ⟨x, hx, hkind⟩ := FaultBank.file_record h .linkBreak ((s.faults.banks.get 3).enabled .linkBreak) s.seat.count 0 s.ctl.time
    exact ⟨x, hx, hkind.imp_left fun e => ⟨e.1.trans hk.1, e.2.trans hk.2⟩⟩
  · exact ⟨r, h, .inl hk⟩

/-! ## Polls and holdoffs (R121, R128) -/

theorem State.pollEnds_idle (h : s.seat.poll = none) (f : SeatNo → State → State) : s.pollEnds f = s := by
  unfold State.pollEnds
  rw [h]

theorem State.pollEnds_discarded {x : Poll} (h : s.seat.poll = some x) (hd : x.dead = true ∨ (s.seat.seats.get x.seat).state = .disabled)
    (f : SeatNo → State → State) : s.pollEnds f = s.onSeat fun k => { k with poll := none } := by
  unfold State.pollEnds
  rw [h]
  refine if_pos (Bool.or_eq_true_iff.2 ?_)
  exact hd.imp_right beq_iff_eq.2

theorem State.pollEnds_applied {x : Poll} (h : s.seat.poll = some x) (hd : x.dead = false) (ho : (s.seat.seats.get x.seat).state ≠ .disabled)
    (f : SeatNo → State → State) : s.pollEnds f = f x.seat (s.onSeat fun k => { k with poll := none }) := by
  unfold State.pollEnds
  rw [h]
  refine if_neg ?_
  rw [Bool.or_eq_true_iff, hd, beq_iff_eq]
  exact fun k => k.elim nofun ho

/-- Settles O44. -/
theorem pollsAndHoldoffs : Obligations.PollsAndHoldoffs := by
  unfold Obligations.PollsAndHoldoffs
  refine fun s => ⟨fun i hp hop hi => ?_, fun h => ?_, fun hp => congrArg Host.Outcome.next (State.pollEnds_idle hp _), fun x hp => ?_,
    fun p => ⟨fun start hs hd => ?_, fun h => ?_⟩⟩
  · refine congrArg Host.Outcome.next ?_
    unfold State.pollBegin
    rw [hp, hi, toIndex_val]
    dsimp only
    rw [if_pos (show s.polling = true from bne_iff_ne.2 hop)]
    unfold State.onSeat
    dsimp only
    rw [hi]
    by_cases hlt : i.val + 1 < s.seat.count
    · rw [if_pos hlt, if_neg (Nat.not_le.2 hlt)]
    · rw [if_neg hlt, if_pos (Nat.not_lt.1 hlt)]
  · refine congrArg Host.Outcome.next ?_
    unfold State.pollBegin
    split
    · next hp _ =>
      refine if_neg fun k => ?_
      exact h.elim (fun n => n hp) fun n => bne_iff_ne.1 k n
    · rfl
  · intro idle y
    refine ⟨fun hd => congrArg Host.Outcome.next (State.pollEnds_discarded hp hd _), fun hd ho => ⟨fun hm => ?_, fun hm hoff => ?_⟩⟩
    · exact congrArg Host.Outcome.next ((State.pollEnds_applied hp hd ho _).trans (State.noReply_counted (s := idle) hm))
    · have hexec : exec .replyWindowClose s = .next (idle.noReply x.seat) := congrArg Host.Outcome.next (State.pollEnds_applied hp hd ho _)
      have hlink := LinkMove.noReply idle x.seat
      have hnr : idle.noReply x.seat = ((((idle.setSeat x.seat { y with misses := 3, state := .offline }).postSeat x.seat).fileFault .nodeSilent
          x.seat.val 0).recount).linkBreakTest idle.seat.broken := State.noReply_silent hm hoff ho
      have hset : (((idle.setSeat x.seat { y with misses := 3, state := .offline }).postSeat x.seat).fileFault .nodeSilent x.seat.val 0).seat.seats =
          s.seat.seats.set x.seat { y with misses := 3, state := .offline, lastChange := s.ctl.time } := by
        rw [State.fileFault_seat rfl]
        show (idle.setSeat x.seat _).seat.seats = _
        rw [State.setSeat_eq]
        unfold Seat.stamped
        rw [if_neg fun k => hoff k.1.symm]
        rfl
      have hrec (he : (s.faults.banks.get 3).record = none) :
          ∃ r, ((((idle.setSeat x.seat { y with misses := 3, state := .offline }).postSeat x.seat).fileFault .nodeSilent
            x.seat.val 0).faults.banks.get 3).record = some r ∧ r.kind = .nodeSilent ∧ r.detail1 = x.seat.val := by
        have hbank := State.fileFault_bank (k := .nodeSilent) rfl
          ((idle.setSeat x.seat { y with misses := 3, state := .offline }).postSeat x.seat) x.seat.val 0
        rw [show bankIndex (faultBank .nodeSilent) = 3 from rfl] at hbank
        rw [hbank]
        exact ⟨_, FaultBank.file_empty he _ _ _ _ _, rfl, rfl⟩
      generalize ((idle.setSeat x.seat { y with misses := 3, state := .offline }).postSeat x.seat).fileFault .nodeSilent x.seat.val 0 = v
        at hnr hset hrec
      refine ⟨_, hexec, hlink.poll, ?_, fun q hq => ?_, ?_, fun he => ?_⟩
      · rw [hnr, State.linkBreakTest_seat, (SeatMove.recount v).seats, hset]
      · rw [hnr, State.linkBreakTest_seat]
        exact State.recount_counted v hq
      · exact (congrArg (fun w : State => { w with seat := s.seat }) hlink.rest).trans rfl
      · obtain ⟨r, hr, hk⟩ := hrec he
        rw [hnr]
        refine State.linkBreakTest_record (r := r) ?_ hk _
        rw [(SeatMove.recount v).rest]
        exact hr
  · refine congrArg Host.Outcome.next (if_pos ?_)
    unfold State.holdDue
    rw [hs]
    exact decide_eq_true hd
  · refine congrArg Host.Outcome.next (if_neg ?_)
    unfold State.holdDue
    split
    · next start hs => exact fun k => absurd (h start hs) (Nat.not_lt.2 (of_decide_eq_true k))
    · nofun

end Sys2Proof.Machine
end

section
/-! SUPPORT. The replies of the seats' nodes (R122, R123, R192). -/

namespace Sys2Proof.Machine

variable {s t u : State} {i : SeatNo} {p : Prog} {r : Reply}

/-! ## Stop requests (R46) -/

theorem QuietMove.seat (h : QuietMove s t) : t.seat = s.seat := (congrArg State.seat h.frame :)

theorem SpeechMove.seat (h : SpeechMove s t) : t.seat = s.seat := (congrArg State.seat h.rest :)

theorem State.requested_seat (s : State) (j : StopNo) (x : Stop) (source who : Nat) : (s.requested j x source who).seat = s.seat :=
  (QuietMove.setStop s j _).seat

theorem State.approach_seat (s : State) (j : StopNo) (x : Stop) (d : Nat) : (s.approach j x d).seat = s.seat := by
  have hset : QuietMove s ((s.setStop j (some { x with state := .approaching })).recomputeNext) :=
    .trans (.setStop s j _) (.setCursor _ _)
  unfold State.approach
  exact ((SpeechMove.post _ _ _ _ _).of (.stopItemArrives _ _)).seat.trans hset.seat

/-- What a stop request leaves: the seats, and the parity of the tables. -/
structure RequestLeaves (s t : State) : Prop where
  seat : t.seat = s.seat
  good : s.store.Good → t.store.Good

theorem State.requestStop_leaves (s : State) (source who : Nat) : RequestLeaves s (s.requestStop source who).1 := by
  cases hn : s.route.cursor.nextStop with
  | none =>
    unfold State.requestStop
    rw [hn]
    exact ⟨rfl, id⟩
  | some j =>
    cases hx : s.route.stops.get j with
    | none =>
      unfold State.requestStop
      rw [hn]
      dsimp only
      rw [hx]
      exact ⟨rfl, id⟩
    | some x =>
      cases hr : x.request with
      | true =>
        rw [State.requestStop_flagged source who hn hx hr]
        exact ⟨rfl, id⟩
      | false =>
        by_cases hnear : s.near x
        · rw [State.requestStop_near source who hn hx hr hnear]
          exact ⟨(State.approach_seat _ _ _ _).trans (s.requested_seat j x source who), (State.requestStop_near_stops s j x source who _).2⟩
        · rw [State.requestStop_far source who hn hx hr hnear]
          exact ⟨s.requested_seat j x source who, fun hg => by
            show (s.setStop j (some { x with request := true })).store.Good
            rwa [State.setStop_store]⟩

/-- R46: a stop request on the next stop leaves its flag set. -/
theorem State.requestStop_flag (source who : Nat) {j : StopNo} {x : Stop} (hn : s.route.cursor.nextStop = some j)
    (hx : s.route.stops.get j = some x) : ∃ w, (s.requestStop source who).1.route.stops.get j = some w ∧ w.request = true := by
  cases hr : x.request with
  | true =>
    rw [State.requestStop_flagged source who hn hx hr]
    exact ⟨x, hx, hr⟩
  | false =>
    by_cases hnear : s.near x
    · rw [State.requestStop_near source who hn hx hr hnear]
      refine ⟨{ x with request := true, state := .approaching }, ?_, rfl⟩
      rw [(State.requestStop_near_stops s j x source who _).1, Tab.get_set_self]
    · rw [State.requestStop_far source who hn hx hr hnear]
      refine ⟨{ x with request := true }, ?_, rfl⟩
      show (s.setStop j (some { x with request := true })).route.stops.get j = _
      rw [State.setStop_route, Tab.get_set_self]

/-! ## Replies (R122, R123, R192) -/

/-- R192: bytes that are no reply of the seat polled. -/
theorem replyOf_none {bytes : List Byte} (h : ∀ a b, bytes ≠ [byteOf i.val, a, b] ++ crcField [byteOf i.val, a, b]) : replyOf i bytes = none := by
  unfold replyOf
  split
  · next n st sel c0 c1 =>
    refine if_neg fun k => h st sel ?_
    have hn : byteOf i.val = n := by rw [← k.1, byteOf_of_toNat]
    rw [hn, ← k.2]
    rfl
  · rfl

/-- R192: a reply of the seat polled, its CRC behind its three bytes. -/
theorem replyOf_valid (i : SeatNo) (st sel : Byte) : replyOf i ([byteOf i.val, st, sel] ++ crcField [byteOf i.val, st, sel]) =
    some ⟨st.getLsbD 0, st.getLsbD 1, st.getLsbD 2, if sel.toNat ≤ 12 then sel.toNat else 0⟩ := by
  have hi : (byteOf i.val).toNat = i.val := byteOf_toNat_of_lt (by omega)
  have hcrc : crcField [byteOf i.val, st, sel] =
      [byteOf (crc16 [byteOf i.val, st, sel]).toNat, byteOf ((crc16 [byteOf i.val, st, sel]).toNat / 256)] := rfl
  have hsel : (if 12 < sel.toNat then 0 else sel.toNat) = if sel.toNat ≤ 12 then sel.toNat else 0 := by split <;> split <;> omega
  rw [hcrc]
  refine (if_pos ⟨hi, hcrc.symm⟩).trans ?_
  rw [hsel]

/-- R123: the node-fault flag follows the reply. -/
theorem State.nodeFaultStep_link (i : SeatNo) (fault : Bool) (s : State) : (s.nodeFaultStep i fault).seat =
    { s.seat with seats := s.seat.seats.set i { s.seat.seats.get i with nodeFault := fault } } := by
  have hset : (s.setSeat i { s.seat.seats.get i with nodeFault := fault }).seat =
      { s.seat with seats := s.seat.seats.set i { s.seat.seats.get i with nodeFault := fault } } := by
    rw [State.setSeat_eq]
    exact congrArg (fun y => { s.seat with seats := s.seat.seats.set i y }) (Seat.stamped_same ⟨rfl, rfl⟩ _)
  unfold State.nodeFaultStep
  dsimp only
  split
  · exact (State.fileFault_seat rfl _ _ _).trans hset
  · exact hset

theorem LinkMove.nodeFaultStep (s : State) (i : SeatNo) (fault : Bool) : LinkMove s (s.nodeFaultStep i fault) := by
  unfold State.nodeFaultStep
  exact .ite (.of (.fileFault _ rfl _ _) (.setSeat s _ _)) (.setSeat s _ _)

/-- R122: the record that a valid reply leaves. -/
def Reply.seat (r : Reply) (old : Seat) (time : Count32) : Seat :=
  old.stamped time ⟨if r.plugIn && decide (1 ≤ r.sel) then .active else .idle, r.sel, 0, r.fault, old.lastChange⟩

/-- R122: a valid reply's record set, and its SEAT-CHANGED posted. -/
def State.answered (i : SeatNo) (r : Reply) (s : State) : State :=
  let s := s.nodeFaultStep i r.fault
  let x := s.seat.seats.get i
  let y := { x with
    misses := 0, selection := r.sel, state := if r.plugIn && decide (1 ≤ r.sel) then SeatState.active else .idle }
  let t := s.setSeat i y
  if y.state = x.state ∧ y.selection = x.selection then t else t.postSeat i

/-- R122: a valid reply, before its stop press. -/
def State.replied (i : SeatNo) (r : Reply) (s : State) : State := (s.answered i r).recount

theorem State.validReply_eq (s : State) (i : SeatNo) (r : Reply) :
    s.validReply i r = if r.press then ((s.replied i r).requestStop 1 i.val).1 else s.replied i r := rfl

theorem LinkMove.replied (s : State) (i : SeatNo) (r : Reply) : LinkMove s (s.replied i r) := by
  have h := LinkMove.nodeFaultStep s i r.fault
  unfold State.replied State.answered
  exact .of (.recount _) (.ite (.of (.setSeat _ _ _) h) (.of (.post _ _ _ _ _) (.of (.setSeat _ _ _) h)))

theorem State.answered_seats (s : State) (i : SeatNo) (r : Reply) :
    (s.answered i r).seat.seats = s.seat.seats.set i (r.seat (s.seat.seats.get i) s.ctl.time) := by
  have htime : (s.nodeFaultStep i r.fault).ctl = s.ctl := (congrArg State.ctl (LinkMove.nodeFaultStep s i r.fault).rest :)
  have hseat := s.nodeFaultStep_link i r.fault
  unfold State.answered
  generalize s.nodeFaultStep i r.fault = a at htime hseat
  have hget : a.seat.seats.get i = { s.seat.seats.get i with nodeFault := r.fault } := by
    rw [hseat]
    exact Tab.get_set_self _ _ _
  have hset : (a.setSeat i { a.seat.seats.get i with
      misses := 0, selection := r.sel, state := (if r.plugIn && decide (1 ≤ r.sel) then SeatState.active else .idle) }).seat.seats =
      s.seat.seats.set i (r.seat (s.seat.seats.get i) s.ctl.time) := by
    rw [State.setSeat_eq, State.onSeat_seat, htime, hget, hseat]
    exact Tab.set_set _ _ _ _
  refine (apply_ite (fun u : State => u.seat.seats) _ _ _).trans (Eq.trans ?_ hset)
  exact ite_self _

theorem State.replied_seats (s : State) (i : SeatNo) (r : Reply) :
    (s.replied i r).seat.seats = s.seat.seats.set i (r.seat (s.seat.seats.get i) s.ctl.time) := by
  unfold State.replied
  rw [(SeatMove.recount _).seats]
  exact s.answered_seats i r

theorem State.replied_counted (s : State) (i : SeatNo) (r : Reply) (hp : p ≠ 0) :
    (s.replied i r).seat.occ.get p = (s.replied i r).seat.count127 p := by
  unfold State.replied
  exact State.recount_counted _ hp

/-- Settles O45. -/
theorem seatRepliesAreTaken : Obligations.SeatRepliesAreTaken := by
  unfold Obligations.SeatRepliesAreTaken
  refine fun s hg => ⟨fun bytes hp => ?_, fun x hp => ⟨fun bytes hd => ?_, fun bytes hb => ?_, fun st sel hd ho => ?_⟩⟩
  · show (s.seatReply bytes).done = _
    rw [show s.seatReply bytes = s from State.pollEnds_idle hp _]
    exact State.done_of_noted hg.2.2
  · show (s.seatReply bytes).done = _
    rw [show s.seatReply bytes = _ from State.pollEnds_discarded hp hd _]
    exact State.done_of_noted hg.2.2
  · show (s.seatReply bytes).done = .next (s.pollEnds State.noReply)
    by_cases hdead : x.dead = true ∨ (s.seat.seats.get x.seat).state = .disabled
    · rw [show s.seatReply bytes = _ from State.pollEnds_discarded hp hdead _, State.pollEnds_discarded hp hdead]
      exact State.done_of_noted hg.2.2
    · have hd : x.dead = false := Bool.eq_false_iff.2 fun k => hdead (.inl k)
      have ho : (s.seat.seats.get x.seat).state ≠ .disabled := fun k => hdead (.inr k)
      have hreply : s.seatReply bytes = (s.onSeat fun k => { k with poll := none }).noReply x.seat := by
        refine (State.pollEnds_applied hp hd ho _).trans ?_
        rw [replyOf_none hb]
      rw [hreply, State.pollEnds_applied hp hd ho]
      refine State.done_of_noted ?_
      rw [(LinkMove.noReply _ _).store]
      exact hg.2.2
  · have hexec : exec (.seatReply ([byteOf x.seat.val, st, sel] ++ crcField [byteOf x.seat.val, st, sel])) s =
        ((s.onSeat fun k => { k with poll := none }).validReply x.seat
          ⟨st.getLsbD 0, st.getLsbD 1, st.getLsbD 2, if sel.toNat ≤ 12 then sel.toNat else 0⟩).done := by
      show (s.pollEnds _).done = _
      rw [State.pollEnds_applied hp hd ho, replyOf_valid]
    rw [hexec, State.validReply_eq]
    have hlink := LinkMove.replied (s.onSeat fun k => { k with poll := none }) x.seat
      ⟨st.getLsbD 0, st.getLsbD 1, st.getLsbD 2, if sel.toNat ≤ 12 then sel.toNat else 0⟩
    have hseats := State.replied_seats (s.onSeat fun k => { k with poll := none }) x.seat
      ⟨st.getLsbD 0, st.getLsbD 1, st.getLsbD 2, if sel.toNat ≤ 12 then sel.toNat else 0⟩
    have hocc (q : Prog) (hq : q ≠ 0) := State.replied_counted (s.onSeat fun k => { k with poll := none }) x.seat
      ⟨st.getLsbD 0, st.getLsbD 1, st.getLsbD 2, if sel.toNat ≤ 12 then sel.toNat else 0⟩ hq
    generalize (s.onSeat fun k => { k with poll := none }).replied x.seat
      ⟨st.getLsbD 0, st.getLsbD 1, st.getLsbD 2, if sel.toNat ≤ 12 then sel.toNat else 0⟩ = v at hlink hseats hocc
    have hnoted : v.store.noted = [] := by
      rw [hlink.store]
      exact hg.2.2
    have hrecord : v.seat.seats.get x.seat = (let y := s.seat.seats.get x.seat
        let n := if sel.toNat ≤ 12 then sel.toNat else 0
        let k : SeatState := if st.getLsbD 0 = true ∧ n ≠ 0 then .active else .idle
        ⟨k, n, 0, st.getLsbD 2, if y.state = k ∧ y.selection = n then y.lastChange else s.ctl.time⟩) := by
      rw [hseats, Tab.get_set_self]
      unfold Reply.seat Seat.stamped
      dsimp only
      have hk : (st.getLsbD 0 && decide (1 ≤ if sel.toNat ≤ 12 then sel.toNat else 0)) = true ↔
          st.getLsbD 0 = true ∧ (if sel.toNat ≤ 12 then sel.toNat else 0) ≠ 0 := by
        rw [Bool.and_eq_true, decide_eq_true_iff, Nat.one_le_iff_ne_zero]
      simp only [hk, eq_comm]
      rfl
    have hleaves := v.requestStop_leaves 1 x.seat.val
    cases hpress : st.getLsbD 1 with
    | false =>
      refine ⟨v, State.done_of_noted hnoted, hlink.poll, fun j hj => ?_, hocc, hrecord, fun _ => ?_, nofun⟩
      · rw [hseats]
        exact Tab.get_set_other (Ne.symm hj) _
      · exact congrArg (fun w : State => { w with seat := s.seat }) hlink.rest
    | true =>
      have hflag {j : StopNo} {z : Stop} := State.requestStop_flag (s := v) 1 x.seat.val (j := j) (x := z)
      have hroute : v.route = s.route := (congrArg State.route hlink.rest :)
      rw [hroute] at hflag
      obtain ⟨hseat, hgood⟩ := hleaves
      dsimp only [if_true]
      generalize (v.requestStop 1 x.seat.val).1 = w at hflag hseat hgood
      refine ⟨w, State.done_of_noted ?_, ?_, fun j hj => ?_, fun q hq => ?_, ?_, nofun, fun _ j z hn hz => hflag hn hz⟩
      · exact (hgood (by rw [hlink.store]; exact hg)).2.2
      · rw [hseat]
        exact hlink.poll
      · rw [hseat, hseats]
        exact Tab.get_set_other (Ne.symm hj) _
      · rw [hseat]
        exact hocc q hq
      · rw [hseat]
        exact hrecord

end Sys2Proof.Machine
end

section
/-! SUPPORT. What RESTART leaves of each block (R30, R55, R76, R98, R118, R134, R156, R165, R177, R188). -/

namespace Sys2Proof.Machine

variable {s t : State} {st st' : Store} {n : EntryNo} {p q : Port}

/-! ## The Clip Store (R30) -/

/-- A change of the two tables, the free page list and the load slots alone. -/
def Frees (st t : Store) : Prop := { t with
  map := st.map, links := st.links, freeList := st.freeList, badLinks := st.badLinks, badMap := st.badMap, noted := st.noted
  slots := st.slots } = st

theorem Frees.refl (st : Store) : Frees st st := rfl

theorem Frees.trans {a b c : Store} (h : Frees a b) (k : Frees b c) : Frees a c := by
  unfold Frees at *
  have hk := congrArg (fun t : Store => { t with
    map := a.map, links := a.links, freeList := a.freeList, badLinks := a.badLinks, badMap := a.badMap, noted := a.noted
    slots := a.slots }) k
  exact hk.trans h

theorem Frees.foldl {γ : Type} {f : Store → γ → Store} (h : ∀ st x, Frees st (f st x)) (l : List γ) (st : Store) : Frees st (l.foldl f st) := by
  induction l generalizing st with
  | nil => exact refl st
  | cons x l ih => exact (h st x).trans (ih _)

theorem Frees.freeChain (st : Store) (o : Option Page) : Frees st (st.freeChain o) := by
  cases o with
  | none => exact refl st
  | some q => rw [Store.freeChain_some]; rfl

theorem Frees.freeEntry (st : Store) (n : EntryNo) : Frees st (st.freeEntry n) := by
  unfold Store.freeEntry
  split
  · exact refl st
  · exact (freeChain st _).trans rfl

theorem Frees.freeRetiring (st : Store) (n : EntryNo) : Frees st (st.freeRetiring n) := by
  unfold Store.freeRetiring
  split
  · split
    · exact freeEntry st n
    · exact refl st
  · exact refl st

theorem Frees.dropSlot (st : Store) (p : Port) : Frees st (st.dropSlot p) := by
  unfold Store.dropSlot
  split
  · exact ((freeEntry st _).trans (freeChain _ _)).trans rfl
  · exact refl st

theorem Store.freeEntry_map (st : Store) (n : EntryNo) : (st.freeEntry n).map = st.map.set n none := by
  unfold Store.freeEntry
  split
  · next h => rw [← h, Tab.set_get]
  · show ((st.freeChain _).map).set n none = _
    rw [Store.freeChain_map]

theorem Store.freeChain_slots (st : Store) (o : Option Page) : (st.freeChain o).slots = st.slots := by
  cases o with
  | none => rfl
  | some q => rw [Store.freeChain_some]

theorem Store.freeEntry_slots (st : Store) (n : EntryNo) : (st.freeEntry n).slots = st.slots := by
  unfold Store.freeEntry
  split
  · rfl
  · exact st.freeChain_slots _

/-- R30 step 1: an entry, unless it is RETIRING. -/
def unretired (x : Option Entry) : Option Entry := x.filter fun e => e.state != .retiring

theorem unretired_eq_some {x : Option Entry} {e : Entry} : unretired x = some e ↔ x = some e ∧ e.state ≠ .retiring := by
  unfold unretired
  rw [Option.filter_eq_some_iff, bne_iff_ne]

theorem Store.freeRetiring_map (st : Store) (n : EntryNo) : (st.freeRetiring n).map = st.map.modify n unretired := by
  unfold Store.freeRetiring Tab.modify
  cases h : st.map.get n with
  | none =>
    show st.map = st.map.set n none
    rw [← h, Tab.set_get]
  | some e =>
    dsimp only
    split
    · next hr =>
      rw [Store.freeEntry_map, show unretired (some e) = none from Option.filter_some_neg (by rw [hr]; decide)]
    · next hr =>
      rw [show unretired (some e) = some e from Option.filter_some_pos (bne_iff_ne.2 hr), ← h, Tab.set_get]

theorem Store.freeRetiring_slots (st : Store) (n : EntryNo) : (st.freeRetiring n).slots = st.slots := by
  unfold Store.freeRetiring
  split
  · split
    · exact st.freeEntry_slots n
    · rfl
  · rfl

theorem Store.foldl_freeRetiring (l : List EntryNo) (st : Store) :
    (l.foldl Store.freeRetiring st).map = l.foldl (fun m n => m.modify n unretired) st.map ∧ (l.foldl Store.freeRetiring st).slots = st.slots := by
  induction l generalizing st with
  | nil => exact ⟨rfl, rfl⟩
  | cons n l ih =>
    obtain ⟨hm, hs⟩ := ih (st.freeRetiring n)
    rw [Store.freeRetiring_map] at hm
    exact ⟨hm, hs.trans (st.freeRetiring_slots n)⟩

/-- R30 steps 2 and 3: the LOADING entry of each slot is freed, and the slot closed. -/
structure Dropped (st t : Store) : Prop where
  map : ∀ n, t.map.get n = st.map.get n ∨ t.map.get n = none
  kept : ∀ n, (∀ q l, (st.slots.get q).load = some l → l.entry ≠ n) → t.map.get n = st.map.get n
  slots : ∀ q, t.slots.get q = st.slots.get q ∨ t.slots.get q = .closed

theorem Dropped.refl (st : Store) : Dropped st st := ⟨fun _ => .inl rfl, fun _ _ => rfl, fun _ => .inl rfl⟩

theorem Dropped.trans {a b c : Store} (h : Dropped a b) (k : Dropped b c) : Dropped a c where
  map n := (k.map n).elim (fun e => e ▸ h.map n) .inr
  kept n hn := (k.kept n fun q l hl => (h.slots q).elim (fun e => hn q l (e ▸ hl)) fun e => by rw [e] at hl; cases hl).trans (h.kept n hn)
  slots q := (k.slots q).elim (fun e => e ▸ h.slots q) .inr

theorem Store.dropSlot_slots (st : Store) (p : Port) : (st.dropSlot p).slots = st.slots.set p .closed := by
  unfold Store.dropSlot
  split
  · show ((st.freeEntry _).freeChain _).slots.set p .closed = _
    rw [Store.freeChain_slots, Store.freeEntry_slots]
  · next h =>
    have hc : st.slots.get p = .closed := by
      cases e : st.slots.get p with
      | closed => rfl
      | opened l => rw [e] at h; cases h
      | closing l => rw [e] at h; cases h
    rw [← hc, Tab.set_get]

theorem Store.dropSlot_map {l : Load} (h : (st.slots.get p).load = some l) : (st.dropSlot p).map = st.map.set l.entry none := by
  unfold Store.dropSlot
  rw [h]
  show ((st.freeEntry l.entry).freeChain _).map = _
  rw [Store.freeChain_map, Store.freeEntry_map]

theorem Dropped.dropSlot (st : Store) (p : Port) : Dropped st (st.dropSlot p) := by
  have hslots (q : Port) : (st.dropSlot p).slots.get q = st.slots.get q ∨ (st.dropSlot p).slots.get q = .closed := by
    rw [Store.dropSlot_slots, Tab.get_set]
    split
    · exact .inr rfl
    · exact .inl rfl
  cases hl : (st.slots.get p).load with
  | none =>
    have hmap : (st.dropSlot p).map = st.map := by
      unfold Store.dropSlot
      rw [hl]
    exact ⟨fun n => .inl (by rw [hmap]), fun n _ => by rw [hmap], hslots⟩
  | some l =>
    refine ⟨fun n => ?_, fun n hn => ?_, hslots⟩
    · rw [Store.dropSlot_map hl, Tab.get_set]
      split
      · exact .inr rfl
      · exact .inl rfl
    · rw [Store.dropSlot_map hl, Tab.get_set_other (hn p l hl)]

theorem Store.foldl_dropSlot (l : List Port) (st : Store) : Dropped st (l.foldl Store.dropSlot st) ∧
    (l.foldl Store.dropSlot st).slots = l.foldl (fun t p => t.modify p fun _ => .closed) st.slots := by
  induction l generalizing st with
  | nil => exact ⟨.refl st, rfl⟩
  | cons p l ih =>
    obtain ⟨hd, hs⟩ := ih (st.dropSlot p)
    rw [Store.dropSlot_slots] at hs
    exact ⟨(Dropped.dropSlot st p).trans hd, hs⟩

/-- What RESTART leaves of the Clip Store (R30). -/
structure StoreRestarted (st t : Store) : Prop where
  dram : t.dram = st.dram
  seq : t.seq = st.seq
  pinTotal : t.pinTotal = st.pinTotal
  slots : ∀ q, t.slots.get q = .closed
  filling : t.filling = []
  eligible : t.eligible = []
  scrub : t.scrub = []
  kept : ∀ n e, st.map.get n = some e → e.state = .ready ∨ e.state = .damaged →
    (∀ q l, (st.slots.get q).load = some l → l.entry ≠ n) → t.map.get n = some { e with useCount := 0 }
  retired : ∀ n e, t.map.get n = some e → e.state ≠ .retiring

theorem Store.restart_restarted (st : Store) : StoreRestarted st st.restart := by
  unfold Store.restart
  have hf : Frees st ((indices 3).foldl Store.dropSlot ((indices 192).foldl Store.freeRetiring st)) :=
    (Frees.foldl Frees.freeRetiring _ _).trans (.foldl Frees.dropSlot _ _)
  obtain ⟨hmap, hslots⟩ := Store.foldl_freeRetiring (indices 192) st
  rw [Tab.foldl_modify_indices] at hmap
  generalize (indices 192).foldl Store.freeRetiring st = a at hf hmap hslots
  obtain ⟨hd, hclosed⟩ := Store.foldl_dropSlot (indices 3) a
  rw [Tab.foldl_modify_indices] at hclosed
  generalize (indices 3).foldl Store.dropSlot a = b at hf hd hclosed
  refine ⟨(congrArg Store.dram hf :), (congrArg Store.seq hf :), (congrArg Store.pinTotal hf :), fun q => ?_, rfl, rfl, rfl,
    fun n e he hs hl => ?_, fun n e he => ?_⟩
  · show b.slots.get q = _
    rw [hclosed, Tab.get_map]
  · have hb : b.map.get n = some e := by
      rw [hd.kept n (by rw [hslots]; exact hl), hmap, Tab.get_map, he]
      refine unretired_eq_some.2 ⟨rfl, ?_⟩
      rcases hs with hs | hs <;> rw [hs] <;> decide
    show (Tab.map _ b.map).get n = _
    rw [Tab.get_map, hb]
    rfl
  · have hg : (b.map.get n).map (fun e : Entry => { e with useCount := 0 }) = some e := by
      rw [← he]
      exact (Tab.get_map _ _ _).symm
    obtain ⟨x, hx, rfl⟩ := Option.map_eq_some_iff.1 hg
    rcases hd.map n with hn | hn
    · rw [hn, hmap, Tab.get_map] at hx
      exact (unretired_eq_some.1 hx).2
    · rw [hn] at hx
      cases hx

/-! ## The ports and the Seat Link (R132, R188) -/

/-- R127: with no seat ACTIVE and no occupancy, a count changes nothing. -/
theorem State.recount_still (ho : ∀ p, s.seat.occ.get p = 0) (ha : ∀ i, (s.seat.seats.get i).state ≠ .active) : s.recount = s := by
  have hcount (p : Prog) : s.seat.count127 p = 0 := by
    unfold SeatLink.count127
    rw [List.length_eq_zero_iff, List.filter_eq_nil_iff]
    refine Tab.forall_mem.2 fun i h => ?_
    rw [Bool.and_eq_true, beq_iff_eq] at h
    exact ha i h.1
  refine List.foldl_fixed' (fun p => ?_) _
  have hset : s.onSeat (fun k => { k with occ := k.occ.set p (s.seat.count127 p) }) = s := by
    have hocc : s.seat.occ.set p (s.seat.count127 p) = s.seat.occ := by rw [hcount, ← ho p, Tab.set_get]
    exact congrArg (fun x => s.onSeat fun k => { k with occ := x }) hocc
  unfold State.recountOne
  dsimp only
  rw [hset, ho p, hcount p]
  simp only [Nat.lt_irrefl, false_and, and_false, if_false, ite_self]

/-- R184: an event at a queue with room, which holds what was posted since the queue was emptied. -/
theorem State.post_port {r : PortState} {l : List Event} {k : EventKind}
    (h : s.ports.get p = { r with queue := if maskSelects r.mask k then l else [] }) (hl : l.length < 16) (a b c : Nat) :
    (s.post k a b c).ports.get p = { r with queue := if maskSelects r.mask k then l ++ [s.event k a b c] else [] } := by
  rw [State.post_get, h]
  dsimp only
  by_cases hm : maskSelects r.mask k = true
  · rw [if_pos hm, if_pos hm, if_pos hm]
    exact if_pos hl
  · rw [if_neg hm, if_neg hm, if_neg hm]

/-- R188: a port after a RESTART's values, with its STATE-CHANGED. -/
theorem State.restarted_port (s : State) (q : Port) : s.restarted.ports.get q = { (s.ports.get q).restart with
    queue := if maskSelects (s.ports.get q).restart.mask .stateChanged then [⟨.stateChanged, 0, opStateCode s.ctl.op, 6, s.ctl.time⟩] else [] } := by
  refine State.post_port (s := s.restartValues) (l := []) ?_ (Nat.zero_lt_succ _) _ _ _
  rw [ite_self]
  exact Tab.get_map _ _ _

/-- R187, R188: the hub parked by its PARK line, but for the blocks' actions. -/
def State.lineParked (s : State) : State :=
  ((s.restarted.changeOp .parkPending .parkLine).setParkHold (some .line)).changeOp .standby .quiet

theorem State.lineParked_port (s : State) (q : Port) : s.lineParked.ports.get q = { (s.ports.get q).restart with
    queue := if maskSelects (s.ports.get q).restart.mask .stateChanged then [⟨.stateChanged, 0, opStateCode s.ctl.op, 6, s.ctl.time⟩,
      ⟨.stateChanged, 1, 0, 1, s.ctl.time⟩, ⟨.stateChanged, 2, 1, 4, s.ctl.time⟩] else [] } := by
  have h1 : (s.restarted.changeOp .parkPending .parkLine).ports.get q = _ :=
    State.post_port (s := s.restarted.onCtl fun c => { c with op := .parkPending }) (s.restarted_port q) (show 1 < 16 by decide) _ _ _
  exact State.post_port (s := ((s.restarted.changeOp .parkPending .parkLine).setParkHold (some .line)).onCtl fun c =>
    { c with op := .standby }) h1 (show 2 < 16 by decide) _ _ _

/-- What RESTART leaves, after the values that each block takes. -/
structure Restarted (s u t : State) : Prop where
  rest : { t with seat := u.seat, ports := u.ports, ctl := u.ctl } = u
  count : t.seat.count = 80
  holdoff : t.seat.holdoff = 10000
  time : t.ctl.time = s.ctl.time
  parkLine : t.ctl.parkLine = s.ctl.parkLine
  run : s.ctl.parkLine = false → t.ctl.op = .run ∧ t.ctl.hold = none
  parked : s.ctl.parkLine = true → t.ctl.op = .standby ∧ t.ctl.hold = some .line
  ports : ∀ q, ∃ l, t.ports.get q = { (s.ports.get q).restart with
    queue := if maskSelects (s.ports.get q).restart.mask .stateChanged then ⟨.stateChanged, 0, opStateCode s.ctl.op, 6, s.ctl.time⟩ :: l else [] } ∧
    (s.ctl.parkLine = false → l = [])

theorem State.lineParked_still (s : State) : ∃ f : SeatLink → SeatLink, s.lineParked.seatStandby = s.lineParked.onSeat f ∧
    (f s.lineParked.seat).count = s.lineParked.seat.count ∧ (f s.lineParked.seat).holdoff = s.lineParked.seat.holdoff := by
  have hseat : s.lineParked.seat = s.seat.restart s.ctl.time := rfl
  refine ⟨_, State.recount_still (s := s.lineParked.onSeat _) (fun p => Tab.get_fill _ p) fun i => ?_, rfl, rfl⟩
  rw [State.onSeat_seat]
  dsimp only
  rw [Tab.get_map]
  split
  · next h => rw [h]; decide
  · nofun

/-- The two changes of the operating state change it, the hold and the ports alone. -/
theorem State.parkedByLine_eq (u : State) : ∃ ps, ((u.changeOp .parkPending .parkLine).setParkHold (some .line)).changeOp .standby .quiet =
    { u with ports := ps, ctl := { u.ctl with op := .standby, hold := some .line } } := ⟨_, rfl⟩

theorem State.restart_restarted (s : State) : Restarted s s.restarted s.restart := by
  have heq := s.restart_eq
  have hcount : s.restarted.seat.count = 80 := rfl
  have hhold : s.restarted.seat.holdoff = 10000 := rfl
  have hctl : s.restarted.ctl = { s.ctl with op := .run, hold := none } := rfl
  cases hl : s.ctl.parkLine with
  | false =>
    rw [heq, hl, if_neg Bool.false_ne_true]
    have hport := s.restarted_port
    generalize s.restarted = u at hcount hhold hctl hport
    exact ⟨rfl, hcount, hhold, by rw [hctl], by rw [hctl], fun _ => by rw [hctl]; exact ⟨rfl, rfl⟩, fun h => absurd (hl.symm.trans h) nofun,
      fun q => ⟨[], hport q, fun _ => rfl⟩⟩
  | true =>
    obtain ⟨f, hf, hfcount, hfhold⟩ := s.lineParked_still
    have hport := s.lineParked_port
    have hparked : s.restart = s.lineParked.onSeat f := by
      rw [heq, hl]
      exact hf
    rw [hparked]
    have hrest := State.parkedByLine_eq s.restarted
    rw [← State.lineParked] at hrest
    generalize s.lineParked = v at hrest hfcount hfhold hport
    generalize s.restarted = u at hcount hhold hctl hrest
    obtain ⟨ps, rfl⟩ := hrest
    refine ⟨rfl, hfcount.trans hcount, hfhold.trans hhold, ?_, ?_, fun h => absurd (hl.symm.trans h) nofun, fun _ => ⟨rfl, rfl⟩,
      fun q => ⟨_, hport q, fun h => absurd (hl.symm.trans h) nofun⟩⟩
    · exact (congrArg Control.time hctl :)
    · exact (congrArg Control.parkLine hctl :)

/-- R188: a READY response stays, and every other slot is EMPTY. -/
theorem PortState.restart_slot (ps : PortState) : (∀ r, ps.slot = .ready r → ps.restart.slot = .ready r) ∧
    ((∀ r, ps.slot ≠ .ready r) → ps.restart.slot = .empty) := by
  unfold PortState.restart
  cases e : ps.slot with
  | empty => exact ⟨nofun, fun _ => rfl⟩
  | inHand x => exact ⟨nofun, fun _ => rfl⟩
  | ready r => exact ⟨fun _ h => h, fun h => absurd rfl (h r)⟩

/-- Settles O55. -/
theorem restartTakesItsValues : Obligations.RestartTakesItsValues := by
  unfold Obligations.RestartTakesItsValues
  refine fun p s h hh hg => ⟨fun hp => State.done_refusal hh rfl (noArgs_args hp _ _) hg.2.2, fun hp => ?_⟩
  have hr := (s.dropResv p).restart_restarted
  have hn := State.restart_noted (s.dropResv p)
  have hstore := s.store.restart_restarted
  have hbody : noArgs h.payload (s.dropResv p) (fun s => s.restart.answer .ok) = (s.dropResv p).restart.answer .ok := by rw [hp, noArgs_nil]
  generalize (s.dropResv p).restart = t at hr hn hbody
  have hrest := hr.rest
  have hst : t.store = s.store.restart := (congrArg State.store hrest :)
  have hport (q : Port) : (s.dropResv p).ports.get q = { s.ports.get q with resv := ((s.dropResv p).ports.get q).resv } := by
    unfold State.dropResv
    rw [State.onPort_ports, Tab.get_modify]
    split <;> rfl
  have hother {q : Port} (hq : q ≠ p) : (((t.withReply p h .ok []).ports.get q).slot = ((s.ports.get q).restart).slot) := by
    obtain ⟨l, hl, -⟩ := hr.ports q
    rw [State.withReply_other (Ne.symm hq), hl, hport q]
    rfl
  refine ⟨_, State.done_answer hh rfl hbody hn, State.withReply_slot _ _ _ _ _, fun q hq r hs => ?_, fun q hq hs => ?_, fun q => ?_,
    hr.time, hr.parkLine, hr.run, hr.parked, (congrArg (fun u : State => u.faults.banks) hrest :), (congrArg (fun u : State => u.faults.pending) hrest :),
    (congrArg State.ann hrest :), (congrArg State.com hrest :), (congrArg (fun u : State => u.mix.progs) hrest :),
    (congrArg (fun u : State => u.mix.duck) hrest :), (congrArg (fun u : State => u.mix.loud) hrest :),
    (congrArg (fun u : State => u.mix.voices) hrest :), (congrArg (fun u : State => u.light.layers) hrest :), fun k => ?_, hr.count, hr.holdoff,
    (congrArg (fun u : State => u.route.cursor.set) hrest :), (congrArg (fun u : State => u.route.cursor.distance) hrest :),
    (congrArg (fun u : State => u.route.cursor.speed) hrest :), (congrArg (fun u : State => u.route.cursor.lastMover) hrest :),
    fun i => ?_, fun i => ?_, ?_⟩
  · rw [hother hq]
    exact (PortState.restart_slot _).1 r hs
  · rw [hother hq]
    exact (PortState.restart_slot _).2 hs
  · obtain ⟨l, hl, hempty⟩ := hr.ports q
    have hq : (t.withReply p h .ok []).ports.get q =
        { t.ports.get q with slot := ((t.withReply p h .ok []).ports.get q).slot } := by
      rw [State.withReply_port]
      split <;> rfl
    rw [hq, hl, hport q]
    refine ⟨rfl, rfl, rfl, fun hm => ?_, fun hm => ?_⟩
    · have hm' : maskSelects ({ s.ports.get q with resv := ((s.dropResv p).ports.get q).resv } : PortState).restart.mask .stateChanged = true := hm
      dsimp only
      rw [if_pos hm']
      exact ⟨rfl, fun hline => by rw [hempty hline]; rfl⟩
    · exact if_neg (Bool.eq_false_iff.1 hm)
  · have hl : t.light.players = Light.reset.players := (congrArg (fun u : State => u.light.players) hrest :)
    show t.light.players.get k = none
    rw [hl]
    exact Tab.get_fill _ k
  · have hs : t.route.stops = s.route.restart.stops := (congrArg (fun u : State => u.route.stops) hrest :)
    show t.route.stops.get i = _
    rw [hs]
    exact Tab.get_map _ _ _
  · have hs : t.route.segments = s.route.restart.segments := (congrArg (fun u : State => u.route.segments) hrest :)
    show t.route.segments.get i = _
    rw [hs]
    exact Tab.get_map _ _ _
  · rw [← hst] at hstore
    exact ⟨hstore.dram, hstore.seq, hstore.pinTotal, hstore.slots, hstore.filling, hstore.eligible, hstore.scrub, hstore.kept, hstore.retired⟩

end Sys2Proof.Machine
end

section
/-! SUPPORT. Duck targets, duck gains and the arithmetic of a block (R95, R109, R110). -/

namespace Sys2Proof.Machine

variable {s : State} {p : Prog}

/-! ## Duckers (R95, R109) -/

theorem State.liveFeed_driver : s.liveFeed p = some .driver ↔ s.ann.live.driver ≠ none := by
  unfold State.liveFeed
  cases s.ann.live.driver with
  | none =>
    rw [Option.isSome_none, if_neg Bool.false_ne_true]
    split <;> simp
  | some l => simp

theorem State.liveFeed_guide : s.liveFeed p = some .guide ↔
    s.ann.live.driver = none ∧ s.ann.live.guide ≠ none ∧ (p = 0 ∨ (s.mix.progs.get p).guide = true) := by
  unfold State.liveFeed
  cases s.ann.live.driver with
  | some l => simp
  | none =>
    rw [Option.isSome_none, if_neg Bool.false_ne_true]
    cases s.ann.live.guide with
    | none => simp
    | some l => simp [or_iff_not_imp_left]

theorem State.mem_duckRows {row : DuckRow} : row ∈ s.duckRows p ↔
    s.ann.ducker = true ∧ row = s.mix.duck.announce ∨ s.ann.live.driver ≠ none ∧ row = s.mix.duck.liveDriver ∨
      s.ann.live.driver = none ∧ s.ann.live.guide ≠ none ∧ (p = 0 ∨ (s.mix.progs.get p).guide = true) ∧ row = s.mix.duck.liveGuide := by
  have hlive : row ∈ (match s.liveFeed p with
      | some .driver => [s.mix.duck.liveDriver]
      | some .guide => [s.mix.duck.liveGuide]
      | none => []) ↔ s.liveFeed p = some .driver ∧ row = s.mix.duck.liveDriver ∨ s.liveFeed p = some .guide ∧ row = s.mix.duck.liveGuide := by
    cases s.liveFeed p with
    | none => simp
    | some c => cases c <;> simp
  have hann : row ∈ (if s.ann.ducker then [s.mix.duck.announce] else []) ↔ s.ann.ducker = true ∧ row = s.mix.duck.announce := by
    cases s.ann.ducker <;> simp
  unfold State.duckRows
  rw [List.mem_append, hann]
  refine or_congr_right (hlive.trans ?_)
  rw [State.liveFeed_driver, State.liveFeed_guide, and_assoc, and_assoc]

theorem State.duckTargets_get (s : State) (p : Prog) (v : Voice) : (s.duckTargets p).get v = duckTarget (s.duckRows p) v := by cases v <;> rfl

theorem foldl_min_spec (l : List Nat) (a : Nat) : l.foldl min a ≤ a ∧ (∀ x ∈ l, l.foldl min a ≤ x) ∧ (l.foldl min a = a ∨ l.foldl min a ∈ l) := by
  induction l generalizing a with
  | nil => exact ⟨Nat.le_refl a, nofun, .inl rfl⟩
  | cons y l ih =>
    obtain ⟨hle, hall, hin⟩ := ih (min a y)
    rw [List.foldl_cons]
    refine ⟨hle.trans (Nat.min_le_left _ _), fun x hx => ?_, ?_⟩
    · rcases List.mem_cons.1 hx with rfl | hx
      · exact hle.trans (Nat.min_le_right _ _)
      · exact hall x hx
    · rcases hin with h | h
      · rcases Nat.le_total a y with hay | hay
        · exact .inl (h.trans (Nat.min_eq_left hay))
        · exact .inr (List.mem_cons.2 (.inl (h.trans (Nat.min_eq_right hay))))
      · exact .inr (List.mem_cons_of_mem _ h)

/-! ## Duck gains (R109) -/

/-- R109: `n` steps of a duck gain. -/
theorem iterate_stepDuck (r target d n : Nat) :
    (stepDuck r target)^[n] d = if d ≤ target then min target (d + n * r) else max target (d - n * r) := by
  induction n with
  | zero =>
    rw [Function.iterate_zero_apply, Nat.zero_mul]
    split <;> omega
  | succ n ih =>
    rw [Function.iterate_succ_apply', ih, Nat.succ_mul]
    generalize n * r = m
    unfold stepDuck
    by_cases h : d ≤ target
    · rw [if_pos h, if_pos h]
      split <;> split <;> omega
    · rw [if_neg h, if_neg h]
      split <;> split <;> omega

theorem Block.stepDucks_get (b : Block) (d : Quad Nat) (v : Voice) :
    (b.stepDucks d).get v = stepDuck b.r (b.target.get v) (d.get v) := by cases v <;> rfl

theorem Block.iterate_stepDucks_get (b : Block) (d : Quad Nat) (v : Voice) (n : Nat) :
    ((b.stepDucks)^[n] d).get v = (stepDuck b.r (b.target.get v))^[n] (d.get v) := by
  induction n with
  | zero => rfl
  | succ n ih => rw [Function.iterate_succ_apply', Function.iterate_succ_apply', Block.stepDucks_get, ih]

/-! ## The samples of a block (R110, R111) -/

/-- R110: the sample of the sources `x`, the `n`-th of the block, before the clamp. -/
def Block.rawAt (b : Block) (d : Quad Nat) (x : Quad Int × Nat) : Int := b.raw x.1 ((b.stepDucks)^[x.2 + 1] d)

theorem Block.mix_ducks_eq (b : Block) (l : List (Quad Int)) (d : Quad Nat) : (b.mix l d).ducks = (b.stepDucks)^[l.length] d := by
  induction l generalizing d with
  | nil => rfl
  | cons x l ih => exact ih _

theorem Block.mix_outs (b : Block) (l : List (Quad Int)) (d : Quad Nat) :
    (b.mix l d).out = l.zipIdx.map fun x => clampSample (b.rawAt d x) := by
  induction l generalizing d with
  | nil => rfl
  | cons x l ih =>
    rw [List.zipIdx_cons', List.map_cons, List.map_map]
    exact congrArg (clampSample (b.rawAt d (x, 0)) :: ·) (ih (b.stepDucks d))

theorem clampSample_ne {y : Int} : clampSample y ≠ y ↔ y < -32768 ∨ 32767 < y := by
  unfold clampSample
  omega

theorem Block.mix_clamps (b : Block) (l : List (Quad Int)) (d : Quad Nat) :
    (b.mix l d).clamped = (l.zipIdx.filter fun x => decide (b.rawAt d x < -32768 ∨ 32767 < b.rawAt d x)).length := by
  induction l generalizing d with
  | nil => rfl
  | cons x l ih =>
    have hrest : (List.filter (fun x => decide (b.rawAt d x < -32768 ∨ 32767 < b.rawAt d x)) (l.zipIdx.map (Prod.map id (· + 1)))).length =
        (b.mix l (b.stepDucks d)).clamped := by
      rw [List.filter_map, List.length_map, ih]
      rfl
    have hcons : (b.mix (x :: l) d).clamped =
        (b.mix l (b.stepDucks d)).clamped + (if clampSample (b.rawAt d (x, 0)) = b.rawAt d (x, 0) then 0 else 1) := rfl
    rw [List.zipIdx_cons', hcons, ← hrest]
    by_cases hc : clampSample (b.rawAt d (x, 0)) = b.rawAt d (x, 0)
    · rw [if_pos hc, List.filter_cons_of_neg (by rw [decide_eq_true_iff, ← clampSample_ne]; exact not_not.2 hc)]
      rfl
    · rw [if_neg hc, List.filter_cons_of_pos (by rw [decide_eq_true_iff, ← clampSample_ne]; exact hc)]
      rfl

/-- Settles O40. -/
theorem duckGainsRampAndBlocksAreMixed : Obligations.DuckGainsRampAndBlocksAreMixed := by
  unfold Obligations.DuckGainsRampAndBlocksAreMixed
  refine ⟨⟨fun s p row => State.mem_duckRows, fun s p v => ?_, iterate_stepDuck⟩, fun b l d => ?_⟩
  · rw [State.duckTargets_get]
    obtain ⟨hle, hall, hin⟩ := foldl_min_spec ((s.duckRows p).filterMap fun row => row.get v) 4096
    exact ⟨fun row hrow x hx => hall x (List.mem_filterMap.2 ⟨row, hrow, hx⟩), hle, hin.imp_right List.mem_filterMap.1⟩
  · intro gain term raw
    have hraw (x : Quad Int) (n : Nat) : raw x n = b.rawAt d (x, n) := by
      have hget (v : Voice) : gain v n = ((b.stepDucks)^[n + 1] d).get v := (b.iterate_stepDucks_get d v (n + 1)).symm
      have hterm (v : Voice) : term x n v = voiceTerm (x.get v) (b.gains.get v) (((b.stepDucks)^[n + 1] d).get v) := by
        unfold voiceTerm
        rw [← hget]
        rfl
      show (term x n .commentary + term x n .announce + term x n .live + term x n .bed) * (b.master : Int) * (b.loud : Int) / 2 ^ 24 = _
      rw [hterm, hterm, hterm, hterm]
      rfl
    refine ⟨?_, ?_, fun v => ?_⟩
    · rw [b.mix_outs]
      exact List.map_congr_left fun x _ => by rw [hraw]; rfl
    · rw [b.mix_clamps]
      exact congrArg List.length (List.filter_congr fun x _ => by rw [hraw])
    · rw [b.mix_ducks_eq, b.iterate_stepDucks_get]

end Sys2Proof.Machine
end

section
/-! SUPPORT. PROGRAMME-WRITE: the record, and what switching a programme and its mirror source brings about (R100, R101, R114). -/

namespace Sys2Proof.Machine

variable {s t : State} {p q : Prog} {x : ProgRec} {was now : Bool}

theorem programmeLegal_iff {n : Nat} {x : ProgRec} : programmeLegal n x = true ↔
    if n = 0 then x.on = true ∧ x.lang = 0 ∧ x.guide = false ∧ x.mirror ≤ 12 else n ≤ 12 ∧ 1 ≤ x.lang ∧ x.lang ≤ 63 ∧ x.mirror = 0 := by
  unfold programmeLegal
  split
  · next h =>
    subst h
    simp only [Nat.zero_le, decide_true, Bool.true_and, Bool.and_eq_true, beq_iff_eq, Bool.not_eq_true', decide_eq_true_eq, and_assoc]
  · simp only [Bool.and_eq_true, beq_iff_eq, decide_eq_true_eq, and_assoc]

/-! ## What a switch leaves (R101) -/

namespace Inner

theorem writeRecords (s : State) (p : Prog) (x : ProgRec) : s.store.Good → (s.writeRecords p x).store.Good := by
  obtain ⟨m, q, e, -⟩ := s.writeRecords_frame p x
  rw [e]
  exact id

theorem onMix (s : State) (f : Mixer → Mixer) : Inner s (s.onMix f) := same rfl rfl rfl

theorem annProgOff (s : State) (p : Prog) : Inner s (s.annProgOff p) :=
  .of (phaseTest _) (.of (onVoice _ _ _ _) (.of (onAnnVoice _ _ _) (releaseAnn s p)))

theorem annProgOn (s : State) (p : Prog) : Inner s (s.annProgOn p) := .of (onAnnVoice _ _ _) (onAnn s _)

theorem mixProgOff (s : State) (p : Prog) : Inner s (s.mixProgOff p) := .of (onMix _ _) (bedRelease s p)

theorem mixProgOn (s : State) (p : Prog) : Inner s (s.mixProgOn p) := onMix s _

theorem seatProgOff (s : State) (p : Prog) : Inner s (s.seatProgOff p) := same rfl rfl rfl

theorem setHold (s : State) (p : Prog) (h : Option Count32) : Inner s (s.setHold p h) := same rfl rfl rfl

theorem seatProgOn (s : State) (p : Prog) : Inner s (s.seatProgOn p) := by
  have h : Inner s (s.setAct p (some .awake)) := same rfl rfl rfl
  unfold State.seatProgOn
  exact ite (.of (startHold _ _) h) (.of (setHold _ _ _) h)

theorem switchProg (s : State) (p : Prog) (was now : Bool) : Inner s (s.switchProg p was now) :=
  ite (.of (seatProgOff _ _) (.of (mixProgOff _ _) (.of (annProgOff _ _) (emptyQueue s p))))
    (ite (.of (seatProgOn _ _) (.of (mixProgOn _ _) (annProgOn s p))) (refl s))

theorem switchMirror (s : State) (was now : Nat) : Inner s (s.switchMirror was now) := ite (refl s) (onMix s _)

/-- R101: what follows the writing of the records. -/
theorem writeProgramme (s : State) (p : Prog) (x : ProgRec) : Inner (s.writeRecords p x) (s.writeProgramme p x) := by
  rw [State.writeProgramme_eq]
  have h := switchProg (s.writeRecords p x) p (s.mix.progs.get p).on x.on
  exact ite (.of (switchMirror _ _ _) h) h

end Inner

theorem State.writeProgramme_noted (hg : s.store.Good) (p : Prog) (x : ProgRec) : (s.writeProgramme p x).store.noted = [] :=
  ((Inner.writeProgramme s p x).good (Inner.writeRecords s p x hg)).2.2

/-- R162, R163: no reservation on the record written stands. -/
theorem State.writeProgramme_unreserved (s : State) (p : Prog) (x : ProgRec) (q : Port) :
    ((s.writeProgramme p x).ports.get q).resv ≠ some (programmeRec p) := by
  have hwrite : PortDrift ((s.writeProg p x).ports.get q) ((s.writeRecords p x).ports.get q) := by
    unfold State.writeRecords
    split
    · obtain ⟨m, ps, e, hp⟩ := (s.writeProg p x).clearGuide_frame p langProgs
      rw [e]
      exact hp q
    · exact .refl _
  obtain ⟨u, v, hu, hv, ht⟩ := s.writeProgramme_spec p x
  have hall := hwrite.trans ((hu.ports q).trans ((hv.ports q).trans (ht.ports q)))
  exact fun e => State.touch_unreserved _ _ q (hall.resv_of e)

theorem State.switchProg_same (s : State) (p : Prog) (b : Bool) : s.switchProg p b b = s := by cases b <;> rfl

theorem State.switchMirror_same (s : State) (n : Nat) : s.switchMirror n n = s := if_pos rfl

/-- R100: a record that switches nothing changes the records alone. -/
theorem State.writeProgramme_kept (hon : (s.mix.progs.get p).on = x.on) (hm : p ≠ 0 ∨ (s.mix.progs.get 0).mirror = x.mirror) :
    s.writeProgramme p x = s.writeRecords p x := by
  rw [State.writeProgramme_eq, hon]
  dsimp only
  rw [State.switchProg_same]
  split
  · next h =>
    rw [h, hm.resolve_left (not_not.2 h), State.switchMirror_same]
  · rfl

/-! ## The mirror source (R99, R114) -/

/-- R101: switching a programme ON leaves the activity of every other. -/
theorem State.switchProg_awake (hq : q ≠ p) (s : State) (was : Bool) : (s.switchProg p was true).mix.awake.get q = s.mix.awake.get q := by
  cases was with
  | true => rw [State.switchProg_same]
  | false =>
    have hseat := (SeatMove.seatProgOn ((s.annProgOn p).mixProgOn p) p).rest
    show (((s.annProgOn p).mixProgOn p).seatProgOn p).mix.awake.get q = _
    rw [hseat]
    exact Tab.get_set_other (Ne.symm hq) _

theorem State.switchMirror_changed {a b : Nat} (h : a ≠ b) (s : State) : (s.switchMirror a b).mix.mirror = [] ∧
    (∀ q : Prog, q.val = b → (s.switchMirror a b).mix.awake.get q = true) ∧
    (∀ q : Prog, q ≠ 0 → q.val = a → (s.switchMirror a b).mix.awake.get q = s.mix.awake.get q ∧
      (s.switchMirror a b).mix.leaving.get q = true ∧ (s.switchMirror a b).storeAwake q = true) := by
  have hleave (q : Prog) (hq : q ≠ 0) (e : q.val = a) : (s.switchMirror a b).mix.leaving.get q = true := by
    unfold State.switchMirror
    rw [if_neg h, ← e, toIndex_val]
    exact (Tab.get_set_self _ _ _).trans (bne_iff_ne.2 hq)
  refine ⟨?_, fun q e => ?_, fun q hq e => ⟨?_, hleave q hq e, ?_⟩⟩
  · unfold State.switchMirror
    rw [if_neg h]
    rfl
  · unfold State.switchMirror
    rw [if_neg h, ← e, toIndex_val]
    exact Tab.get_set_self _ _ _
  · unfold State.switchMirror
    rw [if_neg h]
    show (match toIndex 13 b with
      | some r => s.mix.awake.set r true
      | none => s.mix.awake : Tab Bool 13).get q = _
    cases hb : toIndex 13 b with
    | none => rfl
    | some r =>
      refine Tab.get_set_other (fun er => h ?_) _
      rw [← e, ← er]
      exact (toIndex_eq_some.1 hb).symm
  · unfold State.storeAwake
    rw [hleave q hq e, Bool.or_true]

/-! ## A programme switched OFF or ON (R101) -/

theorem State.switchProg_off (s : State) (p : Prog) :
    s.switchProg p true false = (((s.emptyQueue p).annProgOff p).mixProgOff p).seatProgOff p := rfl

theorem State.switchProg_on (s : State) (p : Prog) : s.switchProg p false true = ((s.annProgOn p).mixProgOn p).seatProgOn p := rfl

theorem State.emptyQueue_queueOf (s : State) (p : Prog) : (s.emptyQueue p).queueOf p = [] := by
  unfold State.emptyQueue
  rw [State.removeItems_queueOf, if_pos rfl]
  exact List.filter_eq_nil_iff.2 fun _ _ => nofun

/-- R89: a programme switched OFF has no part in the announcement. -/
theorem State.annProgOff_idle (hp : p ≠ 0) (ho : s.progOn p = false) : AnnIdle p (s.annProgOff p) := by
  have hclear : AnnIdle p (((s.releaseAnn p).onAnnVoice p fun _ => AnnVoice.empty).onVoice p .announce VoiceState.unbind) := by
    refine ⟨?_, fun c hc => ?_⟩
    · rw [State.onVoice_voice, if_pos ⟨rfl, rfl⟩]
      rfl
    · obtain ⟨d, hd, rfl⟩ := Option.map_eq_some_iff.1 hc
      show ((d.voices.modify p _).get p).chime = none ∧ ((d.voices.modify p _).get p).speech = []
      rw [Tab.get_modify_self]
      exact ⟨rfl, rfl⟩
  have hon : (((s.releaseAnn p).onAnnVoice p fun _ => AnnVoice.empty).onVoice p .announce VoiceState.unbind).progOn p = false := by
    have hr : (s.releaseAnn p).progOn p = s.progOn p := Idle.progOn (p := p) (Idle.releaseAnn s p) p
    exact hr.trans ho
  exact (Idle.phaseTest _).ann hp hon hclear

/-- R101: what a programme loses when it is switched OFF. -/
theorem State.switchedOff (hp : p ≠ 0) (ho : s.progOn p = false) : (s.switchProg p true false).queueOf p = [] ∧
    ((s.switchProg p true false).voice p .bed).bind = none ∧ ((s.switchProg p true false).voice p .announce).bind = none ∧
    (s.switchProg p true false).seat.act.get p = none ∧ (s.switchProg p true false).seat.hold.get p = none := by
  rw [State.switchProg_off]
  have hempty := Idle.emptyQueue (p := p) s p
  have hann := State.annProgOff_idle hp ((hempty.progOn p).trans ho)
  have hoff := Idle.annProgOff (p := p) (s.emptyQueue p) p
  have hon : ((s.emptyQueue p).annProgOff p).progOn p = false := ((hempty.trans hoff).progOn p).trans ho
  have hq := hoff.queue (s.emptyQueue_queueOf p)
  generalize (s.emptyQueue p).annProgOff p = u at hann hon hq
  have hmix := Idle.mixProgOff (p := p) u p
  have hbed : ((u.mixProgOff p).voice p .bed).bind = none := (State.bedRelease_bed u p p).trans (if_pos rfl)
  exact ⟨hmix.queue hq, hbed, (hmix.ann hp hon hann).1, Tab.get_set_self _ _ _, Tab.get_set_self _ _ _⟩

/-- R101: how a programme that is switched ON starts. -/
theorem State.switchedOn (s : State) (p : Prog) :
    (∀ v, ((s.switchProg p false true).voice p v).bind = none ∧ ((s.switchProg p false true).voice p v).d = 4096) ∧
    ((s.switchProg p false true).seat.act.get p = some .awake ∨ s.seat.holdoff = 0 ∧ s.seat.occ.get p = 0) := by
  rw [State.switchProg_on]
  refine ⟨fun v => ?_, ?_⟩
  · have hmix : (((s.annProgOn p).mixProgOn p).seatProgOn p).mix = ((s.annProgOn p).mixProgOn p).mix :=
      (congrArg State.mix (SeatMove.seatProgOn ((s.annProgOn p).mixProgOn p) p).rest :)
    unfold State.voice
    rw [hmix]
    show (((s.mix.voices.modify p _).get p).get v).bind = none ∧ (((s.mix.voices.modify p _).get p).get v).d = 4096
    rw [Tab.get_modify_self]
    cases v <;> exact ⟨rfl, rfl⟩
  · unfold State.seatProgOn
    dsimp only
    split
    · next h0 =>
      rw [State.startHold_seat]
      split
      · next hh => exact .inr ⟨hh, h0⟩
      · exact .inl (Tab.get_set_self _ _ _)
    · exact .inl (Tab.get_set_self _ _ _)

/-- Settles O38. -/
theorem programmeWriteStoresTheRecord : Obligations.ProgrammeWriteStoresTheRecord := by
  unfold Obligations.ProgrammeWriteStoresTheRecord
  intro p s h hh hg legal
  refine ⟨fun hbad => ?_, fun k x hx hl => ?_⟩
  · refine State.done_refusal hh rfl ?_ hg.2.2
    unfold programmeWriteBody
    rw [Option.filter_eq_none_iff.2 fun y hy hleg => hbad y.1 y.2 hy (programmeLegal_iff.1 hleg)]
  · intro y
    have hy : programmeClamp x = y := rfl
    have hon : y.on = x.on := rfl
    have hmir : y.mirror = x.mirror := rfl
    have hgui : y.guide = x.guide := rfl
    have hbody : programmeWriteBody h.payload (s.dropResv p) = ((s.dropResv p).writeProgramme k y).ok (programmeBytes k y) := by
      unfold programmeWriteBody
      rw [hx, show (some (k.val, x)).filter (fun y : Nat × ProgRec => programmeLegal y.1 y.2) = some (k.val, x) from
        Option.filter_some_pos (programmeLegal_iff.2 hl)]
      dsimp only
      rw [toIndex_val]
      rfl
    clear_value y
    have hin := Inner.writeProgramme (s.dropResv p) k y
    have hprogs (q : Prog) := ((s.dropResv p).writeProgramme_progs k q y).trans ((s.dropResv p).writeRecords_progs k q y)
    have hresv := (s.dropResv p).writeProgramme_unreserved k y
    have heq := (s.dropResv p).writeProgramme_eq k y
    have hspec := (s.dropResv p).writeProgramme_spec k y
    have hkept := State.writeProgramme_kept (s := s.dropResv p) (p := k) (x := y)
    obtain ⟨m, ps, hframe, -⟩ := (s.dropResv p).writeRecords_frame k y
    have hrecon : (((s.dropResv p).writeRecords k y).progOn k) = y.on := by
      rw [State.writeRecords_on, if_pos rfl]
    have hnoted := State.writeProgramme_noted (s := s.dropResv p) hg k y
    generalize (s.dropResv p).writeProgramme k y = t at hbody hin hprogs hresv heq hspec hkept hnoted
    generalize (s.dropResv p).writeRecords k y = w at hin heq hspec hkept hframe hrecon
    subst hframe
    obtain ⟨u, v, hu, hv, ht⟩ := hspec
    refine ⟨_, State.done_ok hh rfl hbody hnoted, State.withReply_slot _ _ _ _ _, ?_, fun q hq => ?_, fun q => ?_, ?_, ?_, ?_, ?_, ?_,
      fun hsame hmirror => ?_, fun hk hmirror => ?_, fun hk hwas hnow => ?_, fun hk hwas hnow => ?_⟩
    · exact (hprogs k).trans (if_pos rfl)
    · refine ((hprogs q).trans (if_neg hq)).trans ?_
      rw [hgui]
      exact if_congr and_comm rfl rfl
    · rw [State.withReply_resv]
      exact hresv q
    · exact (congrArg Cursor.set hin.cursor :)
    · exact (congrArg Cursor.distance hin.cursor :)
    · exact hin.stops
    · refine ht.store.dram.trans ?_
      rw [hv.rest]
      exact hu.store.dram
    · refine ht.time.trans ?_
      rw [hv.rest]
      exact hu.time
    · rw [hkept (hsame.trans hon.symm) (hmirror.imp_right fun e => e.trans hmir.symm)]
      exact ⟨rfl, rfl⟩
    · subst hk
      have honly : y.on = true := hon.trans (hl.1)
      have ht' : t = (State.switchProg 0 (s.mix.progs.get 0).on true { s.dropResv p with
          mix := { (s.dropResv p).mix with progs := m }, ports := ps }).switchMirror (s.mix.progs.get 0).mirror x.mirror := by
        rw [heq, ← hmir, ← honly]
        rfl
      have hawake (q : Prog) (hq : q ≠ 0) := State.switchProg_awake (p := 0) hq { s.dropResv p with
          mix := { (s.dropResv p).mix with progs := m }, ports := ps } (s.mix.progs.get 0).on
      rw [ht']
      generalize State.switchProg 0 (s.mix.progs.get 0).on true { s.dropResv p with
          mix := { (s.dropResv p).mix with progs := m }, ports := ps } = a at hawake
      obtain ⟨h1, h2, h3⟩ := State.switchMirror_changed hmirror a
      exact ⟨h1, h2, fun q hq e => ⟨(h3 q hq e).1.trans (hawake q hq), (h3 q hq e).2.1, (h3 q hq e).2.2⟩⟩
    · have ht' : t = State.switchProg k true false { s.dropResv p with mix := { (s.dropResv p).mix with progs := m }, ports := ps } := by
        have hwas' : ((s.dropResv p).mix.progs.get k).on = true := hwas
        rw [heq, hwas', hon.trans hnow]
        exact if_neg hk
      have hoff := State.switchedOff hk (hrecon.trans (hon.trans hnow))
      rw [← ht'] at hoff
      exact hoff
    · have ht' : t = State.switchProg k false true { s.dropResv p with mix := { (s.dropResv p).mix with progs := m }, ports := ps } := by
        have hwas' : ((s.dropResv p).mix.progs.get k).on = false := hwas
        rw [heq, hwas', hon.trans hnow]
        exact if_neg hk
      have hwon := State.switchedOn
        { s.dropResv p with mix := { (s.dropResv p).mix with progs := m }, ports := ps } k
      rw [← ht'] at hwon
      exact hwon

end Sys2Proof.Machine
end

section
/-! SUPPORT. The block start (R106): what settles before the block, and what the block takes. -/

namespace Sys2Proof.Machine

variable {s t u : State} {p q : Prog} {b : Block}

/-! ## What settles before the block -/

/-- A change that a block start of programme `p` makes before the block is fixed: the Clip Store, the ports, the marks of segments, the
clips of the current announcement, and the programme's own queue and voices. -/
structure Settles (p : Prog) (s t : State) : Prop where
  rest : { t with com := { t.com with queues := s.com.queues, marks := s.com.marks }, ann := { t.ann with current := s.ann.current },
                  mix := { t.mix with voices := s.mix.voices }, store := s.store, ports := s.ports } = s
  voices : ∀ q, q ≠ p → t.mix.voices.get q = s.mix.voices.get q
  queues : ∀ q, q ≠ p → t.queueOf q = s.queueOf q
  good : s.store.Good → t.store.Good

namespace Settles

theorem refl (s : State) : Settles p s s := ⟨rfl, fun _ _ => rfl, fun _ _ => rfl, id⟩

theorem trans (h : Settles p s t) (k : Settles p t u) : Settles p s u where
  rest := by
    have hk := congrArg (fun v : State => { v with
      com := { v.com with queues := s.com.queues, marks := s.com.marks }, ann := { v.ann with current := s.ann.current }
      mix := { v.mix with voices := s.mix.voices }, store := s.store, ports := s.ports }) k.rest
    exact hk.trans h.rest
  voices q hq := (k.voices q hq).trans (h.voices q hq)
  queues q hq := (k.queues q hq).trans (h.queues q hq)
  good := k.good ∘ h.good

theorem of (k : Settles p t u) (h : Settles p s t) : Settles p s u := h.trans k

/-- What settles, as an equation. -/
theorem frame (h : Settles p s t) : ∃ q m c v st ps, t = { s with
    com := { s.com with queues := q, marks := m }, ann := { s.ann with current := c }, mix := { s.mix with voices := v }
    store := st, ports := ps } :=
  ⟨t.com.queues, t.com.marks, t.ann.current, t.mix.voices, t.store, t.ports,
    congrArg (fun x : State => { x with
      com := { x.com with queues := t.com.queues, marks := t.com.marks }, ann := { x.ann with current := t.ann.current }
      mix := { x.mix with voices := t.mix.voices }, store := t.store, ports := t.ports }) h.rest⟩

theorem onStore (s : State) {f : Store → Store} (h : ∀ st, Store.Good st → (f st).Good) : Settles p s (s.onStore f) :=
  ⟨rfl, fun _ _ => rfl, fun _ _ => rfl, h s.store⟩

theorem post (s : State) (k : EventKind) (a b c : Nat) : Settles p s (s.post k a b c) := ⟨rfl, fun _ _ => rfl, fun _ _ => rfl, id⟩

theorem onVoice (s : State) (v : Voice) (f : VoiceState → VoiceState) : Settles p s (s.onVoice p v f) :=
  ⟨rfl, fun _ hq => Tab.get_modify_other (Ne.symm hq) _, fun _ _ => rfl, id⟩

theorem onAnnVoice (s : State) (q : Prog) (f : AnnVoice → AnnVoice) : Settles p s (s.onAnnVoice q f) :=
  ⟨rfl, fun _ _ => rfl, fun _ _ => rfl, id⟩

theorem setQueue (s : State) (l : List Item) : Settles p s (s.setQueue p l) :=
  ⟨rfl, fun _ _ => rfl, fun _ hq => Tab.get_set_other (Ne.symm hq) _, id⟩

theorem releaseUses (l : List Binding) (s : State) : Settles p s (l.foldl (fun s b => s.onStore fun st => st.release b.entry) s) := by
  induction l generalizing s with
  | nil => exact refl s
  | cons b l ih => exact (onStore s fun _ h => h.release b.entry).trans (ih _)

theorem releaseAnn (s : State) : Settles p s (s.releaseAnn p) := by
  unfold State.releaseAnn
  split
  · exact refl s
  · exact .of (onAnnVoice _ _ _) (.of (onVoice _ _ _) (releaseUses _ s))

theorem stopAtBlock (s : State) : Settles p s (s.stopAtBlock p) := by
  unfold State.stopAtBlock
  split
  · exact refl s
  · split
    · exact releaseAnn s
    · exact refl s

theorem setMarks (s : State) (m : Tab Bool 256) : Settles p s (s.onCom fun c => { c with marks := m }) :=
  ⟨rfl, fun _ _ => rfl, fun _ _ => rfl, id⟩

theorem startItem (s : State) (x : Item) (rest : List Item) : Settles p s (s.startItem p x rest) := by
  have h : Settles p s ((s.setQueue p ({ x with playing := true, paused := false, pos := 0 } :: rest)).onVoice p .commentary
      (VoiceState.bindTo x.bind true)) := .of (onVoice _ _ _) (setQueue s _)
  unfold State.startItem
  dsimp only
  split
  · exact h
  · exact .of (post _ _ _ _ _) (.of (setMarks _ _) h)

theorem settleCommentary (s : State) : Settles p s (s.settleCommentary p) := by
  unfold State.settleCommentary
  split
  · exact refl s
  · split
    · exact .of (onVoice _ _ _) (setQueue s _)
    · split
      · exact refl s
      · exact startItem s _ _

theorem bedRelease (s : State) : Settles p s (s.bedRelease p) := by
  unfold State.bedRelease
  split
  · exact refl s
  · exact .of (onStore _ fun _ h => h.release _) (onVoice s _ _)

theorem bedLookup (s : State) : Settles p s (s.bedLookup p) := by
  unfold State.bedLookup
  split
  · split
    · exact refl s
    · next c _ =>
      have h : Settles p s (s.onStore fun _ => (s.store.lookup c audioKind).1) :=
        ⟨rfl, fun _ _ => rfl, fun _ _ => rfl, fun h => h.lookup c audioKind⟩
      dsimp only
      split
      · exact h
      · exact .of (onVoice _ _ _) h
  · exact refl s

theorem bedSettle (s : State) : Settles p s (s.bedSettle p) := by
  unfold State.bedSettle
  refine .of (bedLookup _) ?_
  split
  · split
    · exact refl s
    · exact bedRelease s
  · exact refl s

theorem startVoices (s : State) : Settles p s (s.startVoices p) :=
  ⟨rfl, fun _ hq => Tab.get_modify_other (Ne.symm hq) _, fun _ _ => rfl, id⟩

end Settles

/-- The voices settled, with the commentary, the bed and the clips of the announcement as they start. -/
def State.settledVoices (p : Prog) (s : State) : State := ((s.settleCommentary p).bedSettle p).startVoices p

theorem Settles.settledVoices (s : State) : Settles p s (s.settledVoices p) :=
  .of (startVoices _) (.of (bedSettle _) (settleCommentary s))

/-! ## The commentary's start (R63) -/

theorem VoicesMove.bedSettle (s : State) (p : Prog) : VoicesMove s (s.bedSettle p) := by
  have hlook (u : State) : VoicesMove u (u.bedLookup p) := by
    unfold State.bedLookup
    split
    · split
      · exact refl u
      · dsimp only
        split <;> exact ⟨_, _, rfl⟩
    · exact refl u
  unfold State.bedSettle
  refine trans ?_ (hlook _)
  split
  · split
    · exact refl s
    · exact bedRelease s p
  · exact refl s

theorem VoicesMove.queueOf (h : VoicesMove s t) (q : Prog) : t.queueOf q = s.queueOf q := by
  obtain ⟨_, _, rfl⟩ := h
  rfl

/-- R113: what settles the bed leaves the other voices. -/
theorem State.bedSettle_voice (s : State) {v : Voice} (hv : v ≠ .bed) : (s.bedSettle p).voice q v = s.voice q v := by
  have hbed (u : State) (f : VoiceState → VoiceState) : (u.onVoice p .bed f).voice q v = u.voice q v :=
    (State.onVoice_voice _ _ _ _ _ _).trans (if_neg fun k => hv k.2)
  have hrel (u : State) : (u.bedRelease p).voice q v = u.voice q v := by
    unfold State.bedRelease
    split
    · rfl
    · exact hbed u _
  have hlook (u : State) : (u.bedLookup p).voice q v = u.voice q v := by
    unfold State.bedLookup
    split
    · split
      · rfl
      · dsimp only
        split
        · rfl
        · exact hbed _ _
    · rfl
  unfold State.bedSettle
  refine (hlook _).trans ?_
  split
  · split
    · rfl
    · exact hrel s
  · rfl

theorem State.startItem_started (s : State) (x : Item) (rest : List Item) :
    (s.startItem p x rest).queueOf p = { x with playing := true, paused := false, pos := 0 } :: rest ∧
    (s.startItem p x rest).voice p .commentary = (s.voice p .commentary).bindTo x.bind true := by
  have hv (u : State) : (u.onVoice p .commentary (VoiceState.bindTo x.bind true)).voice p .commentary =
      (u.voice p .commentary).bindTo x.bind true := (State.onVoice_voice _ _ _ _ _ _).trans (if_pos ⟨rfl, rfl⟩)
  unfold State.startItem
  dsimp only
  split <;> exact ⟨Tab.get_set_self _ _ _, hv _⟩

/-- R63: the head item, WAITING and not held back, starts. -/
theorem State.settledVoices_head {x : Item} {rest : List Item} (hq : s.queueOf p = x :: rest) (hx : x.playing = false)
    (hh : x.hold = false ∨ s.com.window = false) :
    (s.settledVoices p).queueOf p = { x with playing := true, paused := false, pos := 0 } :: rest ∧
    ((s.settledVoices p).voice p .commentary).bind = some x.bind ∧ ((s.settledVoices p).voice p .commentary).pos = 0 ∧
    ((s.settledVoices p).voice p .commentary).paused = false := by
  have hc : s.settleCommentary p = s.startItem p x rest := by
    unfold State.settleCommentary
    rw [hq]
    dsimp only
    rw [if_neg (by rw [hx]; nofun), if_neg fun k => by rcases hh with e | e <;> rw [e] at k <;> exact absurd k (by simp)]
  obtain ⟨hqueue, hvoice⟩ := s.startItem_started (p := p) x rest
  have hbq := (VoicesMove.bedSettle (s.startItem p x rest) p).queueOf p
  have hbv := (s.startItem p x rest).bedSettle_voice (p := p) (q := p) (v := .commentary) nofun
  unfold State.settledVoices
  rw [hc]
  generalize (s.startItem p x rest).bedSettle p = u at hbq hbv
  have hstart : (u.startVoices p).voice p .commentary =
      { u.voice p .commentary with started := (u.voice p .commentary).bind.isSome, target := (u.duckTargets p).commentary } := by
    show ((u.mix.voices.modify p _).get p).get .commentary = _
    rw [Tab.get_modify_self]
    rfl
  rw [hstart, hbv, hvoice]
  exact ⟨hbq.trans hqueue, rfl, rfl, rfl⟩

/-! ## The block -/

/-- R114: what the taking of the mirror block changes. -/
theorem State.takeMirror_spec (s : State) (p : Prog) (b : Block) :
    ∃ l m, s.takeMirror p b = (s.onMix fun x => { x with mirror := l }, { b with mirror := m }) := by
  unfold State.takeMirror
  split
  · exact ⟨_, _, rfl⟩
  · exact ⟨s.mix.mirror, b.mirror, rfl⟩

/-- R115: what the request of the fetch changes: the block is set, and a complete fetch ends the streak. -/
theorem State.requestFetch_spec (s : State) (p : Prog) (b : Block) :
    ∃ st k w, s.requestFetch p b = { s with store := st, mix := { s.mix with block := s.mix.block.set p (some { b with want := w }), streak := k } } ∧
      (s.store.Good → st.Good) ∧ (b.sounds = false → w = []) := by
  have hreads (l : List Voice) (u : State) : ∃ st, l.foldl (fun s v => s.onStore fun st => st.fetchReads (b.src.get v)) u = u.onStore (fun _ => st) ∧
      (u.store.Good → st.Good) := by
    induction l generalizing u with
    | nil => exact ⟨_, rfl, id⟩
    | cons v l ih =>
      obtain ⟨st, e, h⟩ := ih (u.onStore fun st => st.fetchReads (b.src.get v))
      refine ⟨st, e, fun hu => h ?_⟩
      show (u.store.fetchReads (b.src.get v)).Good
      unfold Store.fetchReads
      split
      · exact hu
      · split
        · exact hu
        · exact hu.readLinks _
  obtain ⟨st, e, h⟩ := hreads clipVoices s
  unfold State.requestFetch
  rw [e]
  dsimp only
  cases b.sounds with
  | true =>
    simp only [if_true]
    split
    · exact ⟨_, _, _, rfl, h, nofun⟩
    · exact ⟨_, _, _, rfl, h, nofun⟩
  | false => exact ⟨s.store, _, [], rfl, id, fun _ => rfl⟩

/-- R106, R117: the blocks that do not sound. -/
theorem Block.not_sounds (h : b.on = false ∨ b.awake = false ∨ b.mode = .zero) : b.sounds = false := by
  unfold Block.sounds
  rcases h with h | h | h <;> rw [h] <;> simp

theorem State.outMode_standby (h : s.ctl.op = .standby) : s.outMode = .zero := by
  unfold State.outMode
  rw [h]

/-! ## The block start -/

/-- R106: the state whose programme starts its block. -/
def State.atBlock (p : Prog) (s : State) : State := (s.stopAtBlock p).onAnn fun a => { a with fresh := a.fresh.set p true }

/-- R106: the state that the block of a programme that is ON is fixed from. -/
def State.settled (p : Prog) (s : State) : State :=
  (s.settledVoices p).onMix fun m => { m with awake := m.awake.set p ((s.settledVoices p).awakeNow p), leaving := m.leaving.set p false }

theorem State.startOn_spec (s : State) (p : Prog) : ∃ st k l m w,
    s.startOn p = { s.settled p with store := st, mix := { (s.settled p).mix with
      mirror := l, streak := k, block := (s.settled p).mix.block.set p (some { (s.settled p).newBlock p with mirror := m, want := w }) } } ∧
      ((s.settled p).store.Good → st.Good) ∧ (((s.settled p).newBlock p).sounds = false → w = []) := by
  obtain ⟨l, m, hm⟩ := (s.settled p).takeMirror_spec p ((s.settled p).newBlock p)
  have he : s.startOn p = ((s.settled p).takeMirror p ((s.settled p).newBlock p)).1.requestFetch p
      ((s.settled p).takeMirror p ((s.settled p).newBlock p)).2 := rfl
  rw [hm] at he
  generalize s.settled p = u at he hm ⊢
  obtain ⟨st, k, w, hr, hg, hw⟩ := (u.onMix fun x => { x with mirror := l }).requestFetch_spec p { u.newBlock p with mirror := m }
  exact ⟨st, k, l, m, w, he.trans hr, hg, hw⟩

theorem State.stopAtBlock_com (s : State) (p : Prog) : (s.stopAtBlock p).com = s.com := by
  have huses (l : List Binding) (u : State) : (l.foldl (fun s b => s.onStore fun st => st.release b.entry) u).com = u.com := by
    induction l generalizing u with
    | nil => rfl
    | cons b l ih => exact ih _
  have hann : (s.releaseAnn p).com = s.com := by
    unfold State.releaseAnn
    split
    · rfl
    · exact huses _ s
  unfold State.stopAtBlock
  split
  · rfl
  · split
    · exact hann
    · rfl

/-- R106: the block of a programme that is OFF. -/
theorem State.startBlock_off (ho : s.progOn p = false) : s.startBlock p = ((s.atBlock p).setBlock p (some Block.silent)).setStreak p 0 := by
  have hon : (s.atBlock p).progOn p = false := by
    obtain ⟨_, _, _, _, _, _, e⟩ := (Settles.stopAtBlock (p := p) s).frame
    unfold State.atBlock
    rw [e]
    exact ho
  exact if_neg (c := (s.atBlock p).progOn p = true) (by rw [hon]; nofun)

/-- R106: the block of a programme that is ON. -/
theorem State.startBlock_on (ho : s.progOn p = true) : s.startBlock p = (s.atBlock p).startOn p := by
  have hon : (s.atBlock p).progOn p = true := by
    obtain ⟨_, _, _, _, _, _, e⟩ := (Settles.stopAtBlock (p := p) s).frame
    unfold State.atBlock
    rw [e]
    exact ho
  exact if_pos hon

/-- Settles O41, by the two cases of the programme. -/
theorem blockStartSettlesTheBlock : Obligations.BlockStartSettlesTheBlock := by
  unfold Obligations.BlockStartSettlesTheBlock
  intro p s hg
  have hgood : s.store.Good := hg
  have hexec : exec (.blockStart p) s = (s.blockStart p).done := rfl
  refine ⟨fun hb => ?_, fun hb => ?_⟩
  · obtain ⟨b, hb⟩ := Option.ne_none_iff_exists'.1 hb
    have he : s.blockStart p = s := by
      unfold State.blockStart
      rw [hb]
    rw [hexec, he]
    exact State.done_of_noted hg.2.2
  · have he : s.blockStart p = s.startBlock p := by
      unfold State.blockStart
      rw [hb]
    rw [hexec, he]
    have hstop := Settles.stopAtBlock (p := p) s
    have hcom := s.stopAtBlock_com p
    cases ho : s.progOn p with
    | false =>
      rw [State.startBlock_off ho]
      unfold State.atBlock
      generalize s.stopAtBlock p = a at hstop hcom
      have hvoices := hstop.voices
      have hag := hstop.good hgood
      obtain ⟨q, m, c, v, st, ps, rfl⟩ := hstop.frame
      refine ⟨_, Block.silent, State.done_of_noted hag.2.2, Tab.get_set_self _ _ _, Tab.get_set_self _ _ _, fun q hq =>
        ⟨Tab.get_set_other (Ne.symm hq) _, hvoices q hq, congrArg (fun c : Commentary => c.queues.get q) hcom⟩, rfl, rfl, rfl, rfl, rfl,
        fun _ => ⟨rfl, rfl, Tab.get_set_self _ _ _⟩, nofun⟩
    | true =>
      rw [State.startBlock_on ho]
      obtain ⟨st, k, l, m, w, hon, hstore, hw⟩ := (s.atBlock p).startOn_spec p
      have hset := Settles.settledVoices (p := p) (s.atBlock p)
      have hhead := fun x rest => State.settledVoices_head (s := s.atBlock p) (p := p) (x := x) (rest := rest)
      rw [hon]
      unfold State.settled at hstore hw ⊢
      generalize (s.atBlock p).settledVoices p = d at hset hhead hstore hw ⊢
      unfold State.atBlock at hset hhead
      generalize s.stopAtBlock p = a at hset hhead hstop hcom
      have hdv := hset.voices
      have hdq := hset.queues
      have hav := hstop.voices
      have hdg := hstore (hset.good (hstop.good hgood))
      obtain ⟨q1, m1, c1, v1, st1, ps1, rfl⟩ := hstop.frame
      obtain ⟨q2, m2, c2, v2, st2, ps2, rfl⟩ := hset.frame
      refine ⟨_, _, State.done_of_noted hdg.2.2, Tab.get_set_self _ _ _, Tab.get_set_self _ _ _, fun q hq =>
        ⟨Tab.get_set_other (Ne.symm hq) _, (hdv q hq).trans (hav q hq),
          (hdq q hq).trans (congrArg (fun c : Commentary => c.queues.get q) hcom)⟩, rfl, rfl, rfl, rfl, rfl,
        nofun, fun _ => ⟨rfl, rfl, Tab.get_set_self _ _ _, Tab.get_set_self _ _ _, rfl, rfl, rfl, rfl, rfl, rfl, fun h => hw ?_, fun x rest hq hx hh => ?_⟩⟩
      · exact Block.not_sounds (.inr (h.imp_right fun hop => State.outMode_standby hop))
      · exact hhead x rest ((congrArg (fun c : Commentary => c.queues.get p) hcom).trans hq) hx
          (hh.imp_right fun e => (congrArg Commentary.window hcom).trans e)

end Sys2Proof.Machine
end

section
/-! SUPPORT. The deadline (R106 to R115): the samples put out, the faults filed, and the reports of the voices. -/

namespace Sys2Proof.Machine

variable {s t u : State} {p q : Prog} {b : Block} {v w : Voice}

/-! ## What is left of the mixer -/

/-- Of the mixer, a change of the voices alone. -/
def MixMove (s t : State) : Prop := { t.mix with voices := s.mix.voices } = s.mix

namespace MixMove

theorem refl (s : State) : MixMove s s := rfl

theorem trans (h : MixMove s t) (k : MixMove t u) : MixMove s u := by
  unfold MixMove at h k ⊢
  exact (congrArg (fun m : Mixer => { m with voices := s.mix.voices }) k :).trans h

theorem of (k : MixMove t u) (h : MixMove s t) : MixMove s u := h.trans k

theorem same (h : t.mix = s.mix) : MixMove s t := by
  unfold MixMove
  rw [h]

theorem speech (h : SpeechMove s t) : MixMove s t := (congrArg State.mix h.rest :)

theorem items (h : ItemsMove s t) : MixMove s t := by
  obtain ⟨_, _, _, _, _, rfl⟩ := h
  rfl

theorem voices (h : VoicesMove s t) : MixMove s t := by
  obtain ⟨_, _, rfl⟩ := h
  rfl

theorem players (h : PlayersMove s t) : MixMove s t := by
  obtain ⟨_, _, rfl⟩ := h
  rfl

theorem changeOp (s : State) (new : OpState) (cause : StateCause) : MixMove s (s.changeOp new cause) := same rfl

theorem setParkHold (s : State) (h : Option ParkHold) : MixMove s (s.setParkHold h) := same rfl

theorem releaseBeds (s : State) : MixMove s s.releaseBeds := voices (.foldl_bedRelease _ s)

theorem seatStandby (s : State) : MixMove s s.seatStandby := same (congrArg State.mix s.seatStandby_rest :)

theorem seatRestartPolling (s : State) : MixMove s s.seatRestartPolling := same rfl

theorem stopPlayers (s : State) : MixMove s s.stopPlayers := players (.stopPlayers s)

theorem emptyQueues (s : State) : MixMove s s.emptyQueues := items (.emptyQueues s)

theorem enterStandby (s : State) : MixMove s s.enterStandby :=
  .of (stopPlayers _) (.of (seatStandby _) (.of (releaseBeds _) (.of (emptyQueues _) (changeOp s _ _))))

theorem quietCheck (s : State) : MixMove s s.quietCheck := by
  unfold State.quietCheck
  split
  · exact enterStandby s
  · exact refl s

theorem annFallback (s : State) : MixMove s s.annFallback := by
  obtain ⟨a, ports, h, -⟩ := s.annFallback_fallen
  rw [h]
  exact refl s

theorem enterFallback (s : State) : MixMove s s.enterFallback := by
  have h : MixMove s ((((s.changeOp .fallback .fault).setParkHold none).emptyQueues.annFallback).releaseBeds) :=
    .of (releaseBeds _) (.of (annFallback _) (.of (emptyQueues _) (.of (setParkHold _ _) (changeOp s _ _))))
  unfold State.enterFallback
  dsimp only
  split
  · exact refl s
  · split
    · exact .of (stopPlayers _) (.of (seatRestartPolling _) h)
    · exact .of (stopPlayers _) h

theorem filed (s : State) (k : FaultKind) (d1 d2 : Nat) : MixMove s (s.filed k d1 d2) := by
  unfold State.filed
  dsimp only
  split <;> exact refl s

theorem critical (s : State) (k : FaultKind) (d1 : Nat) : MixMove s (s.critical k d1) := by
  unfold State.critical
  split
  · exact enterFallback s
  · exact same rfl

theorem fileFault (s : State) (k : FaultKind) (d1 d2 : Nat) : MixMove s (s.fileFault k d1 d2) := by
  rw [State.fileFault_eq]
  split
  · exact .of (critical _ _ _) (filed s _ _ _)
  · exact filed s _ _ _

end MixMove

/-! ## The samples put out (R110, R111) -/

theorem length_zeroBlock : zeroBlock.length = 192 := List.length_replicate

theorem length_padBlock (l : List Int) : (padBlock l).length = 192 := by
  unfold padBlock
  rw [List.length_map, List.length_range]
  rfl

theorem length_clipSamples (got : List GotLine) (v : Voice) (x : BlockSource) (n i : Nat) (held : Int) :
    (clipSamples got v x n i held).1.length = n := by
  induction n generalizing i held with
  | zero => rfl
  | succ n ih => exact congrArg (· + 1) (ih _ _)

theorem Block.length_voiceSource (b : Block) (lost : List Voice) (v : Voice) (held : Int) : (b.voiceSource lost v held).1.length = 192 := by
  unfold Block.voiceSource
  split
  · exact length_zeroBlock
  · split
    · exact length_zeroBlock
    · exact length_clipSamples _ _ _ _ _ _

theorem Block.length_commentarySource (b : Block) (lost : List Voice) (held : Int) : (b.commentarySource lost held).1.length = 192 := by
  unfold Block.commentarySource
  split
  · dsimp only
    split
    · exact length_padBlock _
    · exact length_zeroBlock
  · exact b.length_voiceSource _ _ _

theorem length_zipSources {n : Nat} {a c e f : List Int} (ha : a.length = n) (hc : c.length = n) (he : e.length = n) (hf : f.length = n) :
    (zipSources a c e f).length = n := by
  induction a generalizing c e f n with
  | nil => exact ha
  | cons x a ih =>
    subst ha
    obtain ⟨y, c, rfl⟩ := List.exists_cons_of_length_eq_add_one hc
    obtain ⟨z, e, rfl⟩ := List.exists_cons_of_length_eq_add_one he
    obtain ⟨w, f, rfl⟩ := List.exists_cons_of_length_eq_add_one hf
    exact congrArg (· + 1) (ih rfl (Nat.succ.inj hc) (Nat.succ.inj he) (Nat.succ.inj hf))

/-- The quadruples of a block's source samples. -/
def Block.quads (b : Block) (lost : List Voice) (held : Quad Int) : List (Quad Int) :=
  let x := (b.sources lost held).src
  zipSources x.commentary x.announce x.live x.bed

theorem Block.length_quads (b : Block) (lost : List Voice) (held : Quad Int) : (b.quads lost held).length = 192 := by
  unfold Block.quads Block.sources
  cases b.sounds with
  | true => exact length_zipSources (b.length_commentarySource _ _) (b.length_voiceSource _ _ _) (length_padBlock _) (b.length_voiceSource _ _ _)
  | false => exact length_zipSources length_zeroBlock length_zeroBlock length_zeroBlock length_zeroBlock

/-- R106: the source samples of a block that does not sound. -/
theorem Block.quads_silent (h : b.sounds = false) (lost : List Voice) (held : Quad Int) : b.quads lost held = List.replicate 192 ⟨0, 0, 0, 0⟩ := by
  have hzip (n : Nat) : zipSources (List.replicate n 0) (List.replicate n 0) (List.replicate n 0) (List.replicate n 0) =
      List.replicate n ⟨0, 0, 0, 0⟩ := by
    induction n with
    | zero => rfl
    | succ n ih => exact congrArg (⟨0, 0, 0, 0⟩ :: ·) ih
  unfold Block.quads Block.sources
  rw [h]
  exact hzip 192

theorem Block.raw_zero (b : Block) (d : Quad Nat) : b.raw ⟨0, 0, 0, 0⟩ d = 0 := by
  have hterm (g e : Nat) : voiceTerm 0 g e = 0 := by
    unfold voiceTerm
    rw [Int.zero_mul, Int.zero_mul, Int.zero_ediv]
  unfold Block.raw Block.sum
  rw [hterm, hterm, hterm, hterm, Int.add_zero, Int.add_zero, Int.add_zero, Int.zero_mul, Int.zero_mul, Int.zero_ediv]

/-- R110: the samples of a block with nothing to play. -/
theorem Block.mix_silent (b : Block) (n : Nat) (d : Quad Nat) : (b.mix (List.replicate n ⟨0, 0, 0, 0⟩) d).out = List.replicate n 0 := by
  induction n generalizing d with
  | zero => rfl
  | succ n ih =>
    have hout : (b.mix (List.replicate (n + 1) ⟨0, 0, 0, 0⟩) d).out =
        clampSample (b.raw ⟨0, 0, 0, 0⟩ (b.stepDucks d)) :: (b.mix (List.replicate n ⟨0, 0, 0, 0⟩) (b.stepDucks d)).out := rfl
    rw [hout, Block.raw_zero, ih]
    rfl

/-- R106, R110: the samples of a programme's block. -/
def State.blockOut (s : State) (p : Prog) (b : Block) (lost : List Voice) : List Int :=
  (b.mix (b.quads lost ((s.mix.voices.get p).map (·.held))) ((s.mix.voices.get p).map (·.d))).out

theorem State.length_blockOut (s : State) (p : Prog) (b : Block) (lost : List Voice) : (s.blockOut p b lost).length = 192 := by
  unfold State.blockOut
  rw [Block.mix_outs, List.length_map, List.length_zipIdx, Block.length_quads]

theorem State.blockOut_range {x : Int} {lost : List Voice} (h : x ∈ s.blockOut p b lost) : -32768 ≤ x ∧ x ≤ 32767 := by
  unfold State.blockOut at h
  rw [Block.mix_outs] at h
  obtain ⟨y, -, rfl⟩ := List.mem_map.1 h
  exact clampSample_range _

theorem State.blockOut_silent (h : b.sounds = false) (s : State) (p : Prog) (lost : List Voice) : s.blockOut p b lost = List.replicate 192 0 := by
  unfold State.blockOut
  rw [Block.quads_silent h]
  exact b.mix_silent 192 _

/-! ## Fault records (R169) -/

/-- A record that is uncorrected, or enabled where the fault filed is corrected, stands but for its overrun. -/
theorem FaultBank.file_holds {k : FaultBank} {x : FaultRecord} {f : FaultKind} (h : k.record = some x)
    (hx : x.uncorrected = true ∨ x.enabled = true ∧ faultUncorrected f = false) (en : Bool) (d1 d2 : Nat) (time : Count32) :
    ∃ y, (k.file f en d1 d2 time).record = some y ∧ { y with overrun := x.overrun } = x := by
  have hc : captures k.record (faultUncorrected f) en = false := by
    rw [h]
    show (!x.uncorrected && (faultUncorrected f || (!x.enabled && en))) = false
    rcases hx with hx | ⟨hx, hf⟩
    · rw [hx]
      rfl
    · rw [hx, hf]
      simp
  rw [FaultBank.file_eq, hc, h]
  exact ⟨_, rfl, rfl⟩

/-- An uncorrected fault takes the place of a record that is not. -/
theorem FaultBank.file_uncorrected {k : FaultBank} {f : FaultKind} (h : ∀ x, k.record = some x → x.uncorrected = false)
    (hf : faultUncorrected f = true) (en : Bool) (d1 d2 : Nat) (time : Count32) :
    (k.file f en d1 d2 time).record = some ⟨k.record.isSome, true, en, faultCritical f, f, d1, d2, time⟩ := by
  have hc : captures k.record (faultUncorrected f) en = true := by
    cases hr : k.record with
    | none => rfl
    | some x =>
      rw [hf]
      show (!x.uncorrected && _) = true
      rw [h x hr]
      rfl
  rw [FaultBank.file_eq, hc, hf]
  rfl

/-- A corrected fault leaves no uncorrected record where there was none. -/
theorem FaultBank.file_corrected {k : FaultBank} {f : FaultKind} (h : ∀ x, k.record = some x → x.uncorrected = false)
    (hf : faultUncorrected f = false) (en : Bool) (d1 d2 : Nat) (time : Count32) :
    ∀ x, (k.file f en d1 d2 time).record = some x → x.uncorrected = false := by
  intro x hx
  rw [FaultBank.file_eq] at hx
  split at hx
  · cases hx
    exact hf
  · obtain ⟨y, hy, rfl⟩ := Option.map_eq_some_iff.1 hx
    exact h y hy

theorem FaultBank.file_mask (k : FaultBank) (f : FaultKind) (en : Bool) (d1 d2 : Nat) (time : Count32) : (k.file f en d1 d2 time).mask = k.mask := by
  rw [FaultBank.file_eq]

theorem State.filed_bank (k : FaultKind) (d1 d2 : Nat) (s : State) : (s.filed k d1 d2).faults.banks.get (bankIndex (faultBank k)) =
    (s.faults.banks.get (bankIndex (faultBank k))).file k (s.faultEnabled k) d1 d2 s.ctl.time := by
  unfold State.filed
  dsimp only
  split <;> exact Tab.get_set_self _ _ _

end Sys2Proof.Machine
end

section
/-! SUPPORT. The reports of a block's end, the underrun, and the deadline as a whole (R85, R86, R111 to R115). -/

namespace Sys2Proof.Machine

variable {s t u : State} {p q : Prog} {b : Block} {v w : Voice}

/-! ## Reports (R85, R86, R112) -/

theorem State.reportItem_mix (s : State) (i : SegNo) (o : ItemOutcome) : (s.reportItem i o).mix = s.mix := by
  have hset (u : State) (x : Option Segment) : (u.setSegment i x).mix = u.mix := by
    unfold State.setSegment
    split <;> rfl
  have hsettle (u : State) : (u.settleSegment i).mix = u.mix := by
    unfold State.settleSegment
    split
    · split
      · exact hset u _
      · rfl
    · rfl
  unfold State.reportItem
  split
  · split
    · exact (hsettle _).trans (hset s _)
    · rfl
  · rfl

theorem SpeechMove.onCurrent (s : State) (f : Current → Current) : SpeechMove s (s.onCurrent f) := .onAnn s _

theorem Inner.onCurrent (s : State) (f : Current → Current) : Inner s (s.onCurrent f) := .onAnn s _

/-- What a report of voice `w` leaves: the mixer but for the voices, the faults and, outside PARK-PENDING, the operating state and the
other voices. -/
structure Reports (w : Voice) (s t : State) : Prop where
  mix : MixMove s t
  faults : t.faults = s.faults
  ctl : s.ctl.op ≠ .parkPending → t.ctl = s.ctl
  voice : s.ctl.op ≠ .parkPending → ∀ q v, v ≠ w → t.voice q v = s.voice q v

namespace Reports

theorem refl (s : State) : Reports w s s := ⟨.refl s, rfl, fun _ => rfl, fun _ _ _ _ => rfl⟩

theorem trans (h : Reports w s t) (k : Reports w t u) : Reports w s u := by
  have hop (hs : s.ctl.op ≠ .parkPending) : t.ctl.op ≠ .parkPending := by
    rw [h.ctl hs]
    exact hs
  exact ⟨h.mix.trans k.mix, k.faults.trans h.faults, fun hs => (k.ctl (hop hs)).trans (h.ctl hs),
    fun hs q v hv => (k.voice (hop hs) q v hv).trans (h.voice hs q v hv)⟩

theorem of (k : Reports w t u) (h : Reports w s t) : Reports w s u := h.trans k

theorem speech (h : SpeechMove s t) : Reports .announce s t :=
  ⟨.speech h, (congrArg State.faults h.rest :), fun _ => (congrArg State.ctl h.rest :), fun _ q v hv => h.voices q v hv⟩

theorem quietCheck (s : State) : Reports w s s.quietCheck := by
  refine ⟨.quietCheck s, ?_, fun hop => ?_, fun hop q v _ => ?_⟩
  · unfold State.quietCheck
    split
    · exact s.enterStandby_rested.faults
    · rfl
  · rw [State.quietCheck_elsewhere hop]
  · rw [State.quietCheck_elsewhere hop]

theorem phaseTest (s : State) : Reports .announce s s.phaseTest := by
  unfold State.phaseTest
  split
  · exact refl s
  · split
    · split
      · exact speech (.speakingStart s)
      · exact refl s
    · split
      · exact speech (.speakingEnd s)
      · exact refl s
    · split
      · exact .of (quietCheck _) (speech (.of (.tryStart _) (.closeCurrent s _)))
      · exact refl s

theorem markReported (s : State) (q : Prog) : Reports .announce s (s.markReported q) := speech (.of (.onCurrent _ _) (.onAnn s _))

theorem annReport (s : State) (q : Prog) (settled : Bool) : Reports .announce s (s.annReport q settled) :=
  .of (phaseTest _) (.of (markReported _ _) (speech (.onAnn s _)))

theorem annClipEnd (s : State) (q : Prog) : Reports .announce s (s.annClipEnd q) := by
  unfold State.annClipEnd
  split
  · exact refl s
  · have hbind := SpeechMove.onAnnounce s q VoiceState.unbind
    dsimp only
    refine .of (phaseTest _) (.of (markReported _ _) (speech ?_))
    split
    · exact .of (.onAnnVoice _ _ _) (.of (.onStore _ _) hbind)
    · split
      · exact .of (.onCurrent _ _) (.of (.bindAnn _ _ _) (.of (.onAnnVoice _ _ _) (.of (.onStore _ _) hbind)))
      · exact .of (.onAnnVoice _ _ _) (.of (.onStore _ _) hbind)
    · exact hbind

theorem onVoice (s : State) (q : Prog) (w : Voice) (f : VoiceState → VoiceState) : Reports w s (s.onVoice q w f) :=
  ⟨rfl, rfl, fun _ => rfl, fun _ _ _ hv => (State.onVoice_voice _ _ _ _ _ _).trans (if_neg fun k => hv k.2)⟩

theorem onStore (s : State) (f : Store → Store) : Reports w s (s.onStore f) := ⟨rfl, rfl, fun _ => rfl, fun _ _ _ _ => rfl⟩

theorem setQueue (s : State) (q : Prog) (l : List Item) : Reports w s (s.setQueue q l) := ⟨rfl, rfl, fun _ => rfl, fun _ _ _ _ => rfl⟩

theorem reportItem (s : State) (i : SegNo) (o : ItemOutcome) : Reports w s (s.reportItem i o) := by
  have hmix := s.reportItem_mix i o
  have hvoice (q : Prog) (v : Voice) : (s.reportItem i o).voice q v = s.voice q v := by
    unfold State.voice
    rw [hmix]
  obtain ⟨_, _, _, _, _, h⟩ := ItemsMove.reportItem s i o
  exact ⟨.same hmix, by rw [h], fun _ => by rw [h], fun _ q v _ => hvoice q v⟩

theorem itemLeft (s : State) (q : Prog) (o : ItemOutcome) (x : Item) : Reports .commentary s (s.itemLeft q o x) := by
  have h : Reports .commentary s ((if x.playing then s.onVoice q .commentary VoiceState.unbind else s).onStore fun st => st.release x.bind.entry) := by
    refine .of (onStore _ _) ?_
    split
    · exact onVoice s q _ _
    · exact refl s
  unfold State.itemLeft
  dsimp only
  split
  · exact h
  · exact .of (reportItem _ _ _) h

theorem itemDone (s : State) (q : Prog) : Reports .commentary s (s.itemDone q) := by
  unfold State.itemDone
  split
  · split
    · exact .of (itemLeft _ _ _ _) (setQueue s _ _)
    · exact refl s
  · exact refl s

theorem bedRelease (s : State) (q : Prog) : Reports .bed s (s.bedRelease q) := by
  unfold State.bedRelease
  split
  · exact refl s
  · exact .of (onStore _ _) (onVoice s q _ _)

theorem endReport (s : State) (p : Prog) (v : Voice) : Reports v s (s.endReport p v) := by
  unfold State.endReport
  dsimp only
  split
  · exact refl s
  · split
    · cases v with
      | commentary => exact itemDone s p
      | announce => exact annClipEnd s p
      | bed => exact bedRelease s p
      | live => exact refl s
    · exact refl s

end Reports

/-- R112: a voice that has not come to its clip's end makes no report. -/
theorem State.endReport_running {x : Binding} (hb : (s.voice p v).bind = some x) (hp : (s.voice p v).pos < x.len) : s.endReport p v = s := by
  unfold State.endReport
  dsimp only
  rw [hb]
  refine if_neg fun k => ?_
  rw [Bool.and_eq_true, decide_eq_true_iff] at k
  omega

/-- What the reports of a block leave: the mixer but for the voices, the faults and, outside PARK-PENDING, the operating state and a
voice that plays on. -/
theorem State.blockReports_spec (s : State) (p : Prog) (settled : Bool) :
    MixMove s (s.blockReports p settled) ∧ (s.blockReports p settled).faults = s.faults ∧
    (s.ctl.op ≠ .parkPending → (s.blockReports p settled).ctl = s.ctl ∧ ∀ v x, v ≠ .announce → (s.voice p v).bind = some x →
      (s.voice p v).pos < x.len → (s.blockReports p settled).voice p v = s.voice p v) := by
  have hfold (l : List Voice) (u : State) : MixMove u (l.foldl (State.endReport p) u) ∧ (l.foldl (State.endReport p) u).faults = u.faults ∧
      (u.ctl.op ≠ .parkPending → (l.foldl (State.endReport p) u).ctl = u.ctl ∧ ∀ v x, (u.voice p v).bind = some x →
        (u.voice p v).pos < x.len → (l.foldl (State.endReport p) u).voice p v = u.voice p v) := by
    induction l generalizing u with
    | nil => exact ⟨.refl u, rfl, fun _ => ⟨rfl, fun _ _ _ _ => rfl⟩⟩
    | cons w l ih =>
      have h := Reports.endReport u p w
      obtain ⟨hmix, hfaults, hrest⟩ := ih (u.endReport p w)
      refine ⟨h.mix.trans hmix, hfaults.trans h.faults, fun hop => ?_⟩
      obtain ⟨hctl, hvoice⟩ := hrest (by rw [h.ctl hop]; exact hop)
      refine ⟨hctl.trans (h.ctl hop), fun v x hb hp => ?_⟩
      have hv : (u.endReport p w).voice p v = u.voice p v := by
        by_cases e : v = w
        · subst e
          rw [State.endReport_running hb hp]
        · exact h.voice hop p v e
      exact (hvoice v x (by rw [hv]; exact hb) (by rw [hv]; exact hp)).trans hv
  obtain ⟨hmix, hfaults, hrest⟩ := hfold clipVoices s
  unfold State.blockReports
  generalize clipVoices.foldl (State.endReport p) s = u at hmix hfaults hrest
  have h := Reports.annReport u p settled
  refine ⟨hmix.trans h.mix, h.faults.trans hfaults, fun hop => ?_⟩
  obtain ⟨hctl, hvoice⟩ := hrest hop
  have hu : u.ctl.op ≠ .parkPending := by
    rw [hctl]
    exact hop
  exact ⟨(h.ctl hu).trans hctl, fun v x hv hb hp => (h.voice hu p v hv).trans (hvoice v x hb hp)⟩

namespace Inner

theorem itemDone (s : State) (q : Prog) : Inner s (s.itemDone q) := by
  unfold State.itemDone
  split
  · split
    · exact .of (itemLeft _ _ _ _) (setQueue s _ _)
    · exact refl s
  · exact refl s

theorem markReported (s : State) (q : Prog) : Inner s (s.markReported q) := .of (onCurrent _ _) (onAnn s _)

theorem annReport (s : State) (q : Prog) (settled : Bool) : Inner s (s.annReport q settled) :=
  .of (phaseTest _) (.of (markReported _ _) (onAnn s _))

theorem annClipEnd (s : State) (q : Prog) : Inner s (s.annClipEnd q) := by
  unfold State.annClipEnd
  split
  · exact refl s
  · have hbind := onVoice s q .announce VoiceState.unbind
    dsimp only
    refine .of (phaseTest _) (.of (markReported _ _) ?_)
    split
    · exact .of (onAnnVoice _ _ _) (.of (release _ _) hbind)
    · split
      · exact .of (onCurrent _ _) (.of (bindAnn _ _ _) (.of (onAnnVoice _ _ _) (.of (release _ _) hbind)))
      · exact .of (onAnnVoice _ _ _) (.of (release _ _) hbind)
    · exact hbind

theorem endReport (s : State) (p : Prog) (v : Voice) : Inner s (s.endReport p v) := by
  unfold State.endReport
  dsimp only
  split
  · exact refl s
  · split
    · cases v with
      | commentary => exact itemDone s p
      | announce => exact annClipEnd s p
      | bed => exact bedRelease s p
      | live => exact refl s
    · exact refl s

theorem blockReports (s : State) (p : Prog) (settled : Bool) : Inner s (s.blockReports p settled) :=
  .of (annReport _ _ _) (foldl (fun s v => endReport s p v) _ s)

theorem advanceVoices (s : State) (p : Prog) (b : Block) (ducks : Quad Nat) (held : Quad Int) : Inner s (s.advanceVoices p b ducks held) :=
  onMix s _

theorem dropFetch (s : State) (p : Prog) : Inner s (s.onStore fun st => st.dropFetch p) :=
  onStore s fun st h => by
    unfold Store.dropFetch
    split
    · exact h
    · exact h

theorem setBlock (s : State) (p : Prog) (b : Option Block) : Inner s (s.setBlock p b) := onMix s _

theorem setStreak (s : State) (p : Prog) (n : Nat) : Inner s (s.setStreak p n) := onMix s _

theorem countClamped (s : State) (p : Prog) (n : Nat) : Inner s (s.countClamped p n) := by
  unfold State.countClamped
  exact ite (refl s) (ite (.of (fileFault _ _ _ _) (onMix s _)) (onMix s _))

theorem joinMirror (s : State) (p : Prog) (l : List Int) : Inner s (s.joinMirror p l) := ite (onMix s _) (refl s)

theorem computeBlock (s : State) (p : Prog) (b : Block) (lost : List Voice) : Inner s (s.computeBlock p b lost).1 :=
  .of (joinMirror _ _ _) (.of (countClamped _ _ _) (onMix s _))

end Inner

end Sys2Proof.Machine
end

section
/-! SUPPORT. The deadline as a whole: the block put out, its voices moved, and the underruns filed (R106, R107, R111, R115). -/

namespace Sys2Proof.Machine

variable {s t u : State} {p q : Prog} {b : Block} {v w : Voice} {lost : List Voice}

/-! ## Critical faults (R171, R172) -/

theorem State.enterFallback_faults (s : State) : s.enterFallback.faults = s.faults := by
  by_cases hop : s.ctl.op = .fallback
  · unfold State.enterFallback
    rw [if_pos hop]
  · exact (State.enterFallback_fallen hop).faults

theorem State.critical_banks (s : State) (k : FaultKind) (d1 : Nat) : (s.critical k d1).faults.banks = s.faults.banks := by
  unfold State.critical
  split
  · rw [State.enterFallback_faults]
  · rfl

theorem State.critical_pending (s : State) (k : FaultKind) (d1 : Nat) : (s.critical k d1).faults.pending = true := by
  unfold State.critical
  split
  · next h => rw [State.enterFallback_faults, h]
  · rfl

theorem State.critical_fallback (h : s.faults.pending = true) (k : FaultKind) (d1 : Nat) : (s.critical k d1).ctl.op = .fallback := by
  unfold State.critical
  rw [if_pos h]
  exact State.enterFallback_op s

theorem State.fileFault_banks (s : State) (k : FaultKind) (d1 d2 : Nat) : (s.fileFault k d1 d2).faults.banks = (s.filed k d1 d2).faults.banks := by
  rw [State.fileFault_eq]
  split
  · exact State.critical_banks _ _ _
  · rfl

theorem State.fileFault_filed {k : FaultKind} (hk : faultCritical k = false) (s : State) (d1 d2 : Nat) : s.fileFault k d1 d2 = s.filed k d1 d2 := by
  rw [State.fileFault_eq, hk, Bool.and_false]
  exact if_neg Bool.false_ne_true

/-- R168: an enabled fault's FAULT event joins the tail of a queue that selects it and has room. -/
theorem State.filed_queue {k : FaultKind} {r : Port} (hk : s.faultEnabled k = true)
    (hm : (s.ports.get r).mask.getLsbD (eventKindCode .fault) = true) (hl : (s.ports.get r).queue.length < 16) (d1 d2 : Nat) :
    ∃ c, ((s.filed k d1 d2).ports.get r).queue =
      (s.ports.get r).queue ++ [⟨.fault, (bankIndex (faultBank k)).val, faultNumber k, c, s.ctl.time⟩] := by
  refine ⟨flagCode (captures (s.faults.banks.get (bankIndex (faultBank k))).record (faultUncorrected k) (s.faultEnabled k)), ?_⟩
  unfold State.filed
  dsimp only
  rw [if_pos hk]
  exact State.post_queue (s := s.onFaults _) (p := r) (k := .fault) hm hl _ _ _

/-! ## The block put out (R106, R111, R114) -/

/-- What a filing or two leave of the MIX bank's record: one that is uncorrected or enabled stands, but for its overrun. -/
def RecordStands (f g : FaultRecorder) : Prop :=
  ∀ x, (f.banks.get 1).record = some x → x.uncorrected = true ∨ x.enabled = true →
    ∃ y, (g.banks.get 1).record = some y ∧ { y with overrun := x.overrun } = x

theorem RecordStands.refl (f : FaultRecorder) : RecordStands f f := fun x hx _ => ⟨x, hx, rfl⟩

theorem State.countClamped_spec (s : State) (p : Prog) (n : Nat) : ∃ c f ps,
    s.countClamped p n = { s with mix := { s.mix with clamped := c }, faults := f, ports := ps } ∧
    f.pending = s.faults.pending ∧ RecordStands s.faults f := by
  unfold State.countClamped
  split
  · exact ⟨_, _, _, rfl, rfl, .refl _⟩
  · dsimp only
    split
    · have hframe := State.fileFault_noncritical (s := s.onMix fun m => { m with clamped := m.clamped.set p (min 65535 (m.clamped.get p + 1)) })
        (k := .overload) rfl p.val n
      refine ⟨_, _, _, hframe, ?_, fun x hx hs => ?_⟩
      · rw [State.fileFault_filed rfl]
        exact State.filed_pending _ _ _ _
      · have hbank := State.fileFault_bank (k := .overload) rfl
          (s.onMix fun m => { m with clamped := m.clamped.set p (min 65535 (m.clamped.get p + 1)) }) p.val n
        obtain ⟨y, hy, hyx⟩ := FaultBank.file_holds (f := .overload) hx (hs.imp_right fun e => ⟨e, rfl⟩)
          ((s.faults.banks.get 1).enabled .overload) p.val n s.ctl.time
        exact ⟨y, (congrArg FaultBank.record hbank).trans hy, hyx⟩
    · exact ⟨_, _, _, rfl, rfl, .refl _⟩

theorem State.computeBlock_spec (s : State) (p : Prog) (b : Block) (lost : List Voice) : ∃ c m f ps,
    (s.computeBlock p b lost).1 = { s with
      mix := { s.mix with out := s.mix.out.set p (s.blockOut p b lost), clamped := c, mirror := m }, faults := f, ports := ps } ∧
    f.pending = s.faults.pending ∧ RecordStands s.faults f := by
  have hjoin (u : State) (l : List Int) : ∃ m, u.joinMirror p l = u.onMix fun x => { x with mirror := m } := by
    unfold State.joinMirror
    split
    · exact ⟨_, rfl⟩
    · exact ⟨u.mix.mirror, rfl⟩
  unfold State.computeBlock
  dsimp only
  obtain ⟨c, f, ps, hc, hp, hr⟩ := State.countClamped_spec (s.onMix fun m => { m with out := m.out.set p (s.blockOut p b lost) }) p
    (b.mix (b.quads lost ((s.mix.voices.get p).map (·.held))) ((s.mix.voices.get p).map (·.d))).clamped
  obtain ⟨m, hm⟩ := hjoin { s with mix := { s.mix with out := s.mix.out.set p (s.blockOut p b lost), clamped := c }, faults := f, ports := ps }
    (b.sources lost ((s.mix.voices.get p).map (·.held))).src.commentary
  exact ⟨c, m, f, ps, (congrArg (State.joinMirror p _) hc).trans hm, hp, hr⟩

/-! ## The end of a block -/

/-- What the end of a block makes of the state `u` whose underrun is filed. -/
structure Ended (p : Prog) (b : Block) (lost : List Voice) (u t : State) : Prop where
  mix : ∃ c m, { t.mix with voices := u.mix.voices } = { u.mix with out := u.mix.out.set p (u.blockOut p b lost), clamped := c, mirror := m }
  pending : t.faults.pending = u.faults.pending
  record : RecordStands u.faults t.faults
  ctl : u.ctl.op ≠ .parkPending → t.ctl = u.ctl
  voice : u.ctl.op ≠ .parkPending → b.on = true → b.cut = false → ∀ v y, v ≠ .announce → b.src.get v = some y →
    (u.voice p v).started = true → (u.voice p v).bind = some y.bind → y.pos + perBlock y.bind.kind < y.bind.len →
    (t.voice p v).bind = some y.bind ∧ (t.voice p v).pos = y.pos + perBlock y.bind.kind
  inner : Inner u t

/-- R115: what stands when the underrun, if there is one, has been filed. -/
def State.underrunFiled (p : Prog) (b : Block) (s : State) : State :=
  if (s.lostVoices p b).isEmpty then s.setBlock p none else (s.setBlock p none).underrun p

/-- R106, R107: a voice that the block played and that plays on has moved. -/
theorem VoiceState.advance_moved {x : VoiceState} {y : BlockSource} (hs : x.started = true) (hb : x.bind = some y.bind)
    (hl : y.pos + perBlock y.bind.kind < y.bind.len) (d : Nat) (held : Int) :
    (x.advance (some y) d held).bind = some y.bind ∧ (x.advance (some y) d held).pos = y.pos + perBlock y.bind.kind := by
  have he : (x.started && x.bind == some y.bind) = true := by
    rw [hs, hb, Bool.true_and, beq_self_eq_true]
  unfold VoiceState.advance
  dsimp only
  rw [if_pos he]
  exact ⟨hb, Nat.min_eq_right (Nat.le_of_lt hl)⟩

theorem State.deadline_ended (s : State) (p : Prog) (b : Block) : Ended p b (s.lostVoices p b) (s.underrunFiled p b) (s.deadline p b) := by
  have he : s.deadline p b = if b.on && !b.cut then
      (((s.underrunFiled p b).computeBlock p b (s.lostVoices p b)).1.advanceVoices p b ((s.underrunFiled p b).computeBlock p b (s.lostVoices p b)).2.1
        ((s.underrunFiled p b).computeBlock p b (s.lostVoices p b)).2.2).blockReports p
        (((s.underrunFiled p b).computeBlock p b (s.lostVoices p b)).2.1.settled b.target)
      else ((s.underrunFiled p b).computeBlock p b (s.lostVoices p b)).1 := rfl
  rw [he]
  generalize s.underrunFiled p b = u
  generalize s.lostVoices p b = lost
  obtain ⟨c, m, f, ps, hc, hp, hr⟩ := u.computeBlock_spec p b lost
  have hin := Inner.computeBlock u p b lost
  generalize (u.computeBlock p b lost).2.1 = ducks
  generalize (u.computeBlock p b lost).2.2 = held
  rw [hc] at hin ⊢
  by_cases hb : (b.on && !b.cut) = true
  · rw [if_pos hb]
    obtain ⟨hmix, hfaults, hrest⟩ := State.blockReports_spec (State.advanceVoices p b ducks held { u with
      mix := { u.mix with out := u.mix.out.set p (u.blockOut p b lost), clamped := c, mirror := m }, faults := f, ports := ps }) p
      (ducks.settled b.target)
    have hin' := Inner.blockReports (State.advanceVoices p b ducks held { u with
      mix := { u.mix with out := u.mix.out.set p (u.blockOut p b lost), clamped := c, mirror := m }, faults := f, ports := ps }) p
      (ducks.settled b.target)
    have hvoice (v : Voice) : (State.advanceVoices p b ducks held { u with
        mix := { u.mix with out := u.mix.out.set p (u.blockOut p b lost), clamped := c, mirror := m }, faults := f, ports := ps }).voice p v =
        (u.voice p v).advance (b.src.get v) (ducks.get v) (held.get v) := by
      show ((u.mix.voices.modify p _).get p).get v = _
      rw [Tab.get_modify_self]
      cases v <;> rfl
    generalize State.blockReports p _ _ = t at hmix hfaults hrest hin' ⊢
    refine ⟨⟨c, m, ?_⟩, (congrArg FaultRecorder.pending hfaults).trans hp, ?_, fun hop => (hrest hop).1, fun hop _ _ v y hv hy hst hbi hl => ?_, ?_⟩
    · exact (congrArg (fun m : Mixer => { m with voices := u.mix.voices }) hmix :)
    · rw [hfaults]
      exact hr
    · obtain ⟨h1, h2⟩ := VoiceState.advance_moved hst hbi hl (ducks.get v) (held.get v)
      have hadv := hvoice v
      rw [hy] at hadv
      rw [← hadv] at h1 h2
      rw [(hrest hop).2 v y.bind hv h1 (by rw [h2]; exact hl)]
      exact ⟨h1, h2⟩
    · exact .of hin' (.of (.advanceVoices _ _ _ _ _) hin)
  · rw [if_neg hb]
    refine ⟨⟨c, m, rfl⟩, hp, hr, fun _ => rfl, fun _ hon hcut => absurd ?_ hb, hin⟩
    rw [hon, hcut]
    rfl

/-! ## Underruns (R115) -/

/-- R115: the programme's block taken, its fetch abandoned, and its streak set. -/
def State.abandoned (p : Prog) (n : Nat) (s : State) : State := ((s.setBlock p none).onStore fun st => st.dropFetch p).setStreak p n

theorem Inner.abandoned (s : State) (p : Prog) (n : Nat) : Inner s (s.abandoned p n) := .of (setStreak _ _ _) (.of (dropFetch _ _) (setBlock s _ _))

theorem State.underrun_early (h : s.mix.streak.get p < 15) : (s.setBlock p none).underrun p =
    (s.abandoned p (s.mix.streak.get p + 1)).fileFault .underrun p.val (s.mix.streak.get p + 1) :=
  if_pos (show s.mix.streak.get p + 1 < 16 by omega)

theorem State.underrun_sixteenth (h : s.mix.streak.get p = 15) : (s.setBlock p none).underrun p =
    ((s.abandoned p 0).fileFault .underrun p.val 0).fileFault .underrunStreak p.val 0 :=
  if_neg (show ¬ s.mix.streak.get p + 1 < 16 by omega)

/-- R115: whatever the streak, UNDERRUN is the first fault filed, and the mixer changes by the block and the streak. -/
theorem State.underrun_first (s : State) (p : Prog) : ∃ n m,
    Inner ((s.abandoned p n).filed .underrun p.val m) ((s.setBlock p none).underrun p) ∧
    MixMove (s.abandoned p n) ((s.setBlock p none).underrun p) := by
  by_cases h : s.mix.streak.get p + 1 < 16
  · rw [State.underrun_early (by omega)]
    refine ⟨s.mix.streak.get p + 1, s.mix.streak.get p + 1, ?_, .fileFault _ _ _ _⟩
    rw [State.fileFault_filed rfl]
    exact .refl _
  · have he : (s.setBlock p none).underrun p = ((s.abandoned p 0).fileFault .underrun p.val 0).fileFault .underrunStreak p.val 0 := if_neg h
    rw [he]
    refine ⟨0, 0, ?_, .of (.fileFault _ _ _ _) (.fileFault _ _ _ _)⟩
    rw [State.fileFault_filed (k := .underrun) rfl]
    exact .fileFault _ _ _ _

theorem State.underrunFiled_kept (s : State) (p : Prog) (b : Block) :
    Inner s (s.underrunFiled p b) ∧ ∃ k, MixMove (s.abandoned p k) (s.underrunFiled p b) := by
  unfold State.underrunFiled
  split
  · refine ⟨.setBlock s _ _, s.mix.streak.get p, ?_⟩
    show { s.mix with block := s.mix.block.set p none } = { s.mix with
      block := s.mix.block.set p none, streak := s.mix.streak.set p (s.mix.streak.get p) }
    rw [Tab.set_get]
  · obtain ⟨n, m, hin, hmix⟩ := s.underrun_first p
    have hfile : Inner (s.abandoned p n) ((s.abandoned p n).filed .underrun p.val m) := .filed _ _ _ _
    exact ⟨.of hin (.of hfile (.abandoned s p n)), n, hmix⟩

theorem State.lostVoices_nil (hw : b.want = []) (hb : s.store.burst = none) : s.lostVoices p b = [] := by
  unfold State.lostVoices Store.fetchInFlight
  rw [hw, hb]
  rfl

theorem State.lostVoices_cons {r : LineReq} {rest : List (Voice × LineReq)} (hw : b.want = (v, r) :: rest) (hv : v ≠ .live) :
    (s.lostVoices p b).isEmpty = false := by
  have hmem : v ∈ s.lostVoices p b := by
    refine List.mem_filter.2 ⟨?_, ?_⟩
    · cases v with
      | commentary => decide
      | announce => decide
      | bed => decide
      | live => exact absurd rfl hv
    · rw [hw, List.any_cons, beq_self_eq_true]
      rfl
  cases hl : s.lostVoices p b with
  | nil => rw [hl] at hmem; cases hmem
  | cons => rfl

/-- The streak of the sixteenth underrun: its record, and what it brings about. -/
theorem State.underrun_streak (h : s.mix.streak.get p = 15) : ((s.setBlock p none).underrun p).mix.streak.get p = 0 ∧
    ((∀ x, (s.faults.banks.get 1).record = some x → x.uncorrected = false) →
      ∃ o e, (((s.setBlock p none).underrun p).faults.banks.get 1).record = some ⟨o, true, e, true, .underrunStreak, p.val, 0, s.ctl.time⟩) ∧
    (s.faultEnabled .underrunStreak = true → ((s.setBlock p none).underrun p).faults.pending = true ∧
      (s.faults.pending = true → ((s.setBlock p none).underrun p).ctl.op = .fallback)) := by
  rw [State.underrun_sixteenth h]
  have hfirst : (s.abandoned p 0).fileFault .underrun p.val 0 = (s.abandoned p 0).filed .underrun p.val 0 := State.fileFault_filed rfl _ _ _
  have hbank := (s.abandoned p 0).filed_bank .underrun p.val 0
  have hpending := (s.abandoned p 0).filed_pending .underrun p.val 0
  have hctl := (s.abandoned p 0).filed_ctl .underrun p.val 0
  have hmix := MixMove.filed (s.abandoned p 0) .underrun p.val 0
  rw [hfirst]
  generalize (s.abandoned p 0).filed .underrun p.val 0 = f at hbank hpending hctl hmix
  refine ⟨?_, fun hrec => ?_, fun hen => ?_⟩
  · have hk := (congrArg Mixer.streak (hmix.trans (.fileFault f .underrunStreak p.val 0)) :)
    exact (congrArg (fun k : Tab Nat 13 => k.get p) hk).trans (Tab.get_set_self _ _ _)
  · rw [State.fileFault_banks]
    have hb := f.filed_bank .underrunStreak p.val 0
    have hlast : ∀ x, (f.faults.banks.get 1).record = some x → x.uncorrected = false := by
      intro x hx
      rw [show f.faults.banks.get 1 = _ from hbank] at hx
      exact FaultBank.file_corrected (f := .underrun) (k := s.faults.banks.get 1) hrec rfl _ _ _ _ x hx
    refine ⟨(f.faults.banks.get 1).record.isSome, f.faultEnabled .underrunStreak, (congrArg FaultBank.record hb).trans ?_⟩
    rw [← show f.ctl.time = s.ctl.time from congrArg Control.time hctl]
    exact FaultBank.file_uncorrected hlast rfl _ _ _ _
  · have hen' : f.faultEnabled .underrunStreak = true := by
      unfold State.faultEnabled FaultBank.enabled
      rw [show f.faults.banks.get (bankIndex (faultBank .underrunStreak)) = _ from hbank, FaultBank.file_mask]
      exact hen
    have hfile : f.fileFault .underrunStreak p.val 0 = (f.filed .underrunStreak p.val 0).critical .underrunStreak p.val := by
      rw [State.fileFault_eq, hen']
      rfl
    rw [hfile]
    exact ⟨State.critical_pending _ _ _, fun hp => State.critical_fallback ((f.filed_pending _ _ _).trans (hpending.trans hp)) _ _⟩

/-- Settles O42. -/
theorem deadlinesPutTheBlockOut : Obligations.DeadlinesPutTheBlockOut := by
  unfold Obligations.DeadlinesPutTheBlockOut
  intro p s hg
  have hexec : exec (.blockDeadline p) s = (s.blockDeadline p).done := rfl
  refine ⟨fun hb => ?_, fun b hb => ?_⟩
  · have he : s.blockDeadline p = s := by
      unfold State.blockDeadline
      rw [hb]
    rw [hexec, he]
    exact State.done_of_noted hg.2.2
  have he : s.blockDeadline p = s.deadline p b := by
    unfold State.blockDeadline
    rw [hb]
  rw [hexec, he]
  have hend := s.deadline_ended p b
  obtain ⟨hin, k, hmix⟩ := s.underrunFiled_kept p b
  have hfiled : s.underrunFiled p b = if (s.lostVoices p b).isEmpty then s.setBlock p none else (s.setBlock p none).underrun p := rfl
  generalize s.underrunFiled p b = u at hend hin hmix hfiled
  generalize s.deadline p b = t at hend
  obtain ⟨c, m, hout⟩ := hend.mix
  have hinner := hin.trans hend.inner
  have hblock : t.mix.block = s.mix.block.set p none := (congrArg Mixer.block hout :).trans (congrArg Mixer.block hmix :)
  have houts : t.mix.out = s.mix.out.set p (u.blockOut p b (s.lostVoices p b)) :=
    (congrArg Mixer.out hout :).trans (congrArg (fun o : Tab (List Int) 13 => o.set p _) (congrArg Mixer.out hmix :))
  have hgot : t.mix.out.get p = u.blockOut p b (s.lostVoices p b) := by rw [houts, Tab.get_set_self]
  have hstreak : t.mix.streak = u.mix.streak := (congrArg Mixer.streak hout :)
  refine ⟨t, State.done_of_noted (hinner.good hg).2.2, ?_, ?_, fun x hx => ?_, fun q hq => ⟨?_, ?_⟩, hinner.stops,
    (congrArg Mixer.progs hout :).trans (congrArg Mixer.progs hmix :), fun h => ?_, fun hw hburst => ?_, fun v r rest hw hv => ?_⟩
  · rw [hblock, Tab.get_set_self]
  · rw [hgot]
    exact State.length_blockOut _ _ _ _
  · rw [hgot] at hx
    exact State.blockOut_range hx
  · rw [houts, Tab.get_set_other (Ne.symm hq)]
  · rw [hblock, Tab.get_set_other (Ne.symm hq)]
  · rw [hgot]
    exact State.blockOut_silent (Block.not_sounds h) _ _ _
  · have hu : u = s.setBlock p none := by
      rw [hfiled, State.lostVoices_nil hw hburst]
      rfl
    subst hu
    refine ⟨congrArg (fun k : Tab Nat 13 => k.get p) hstreak, fun hop hon hcut v y hv hy hst hbi => ?_⟩
    have hmoved := hend.voice hop hon hcut v y (by rcases hv with rfl | rfl <;> nofun) hy hst hbi
    revert hmoved
    generalize y.bind.kind = k
    cases k <;> exact id
  · have hu : u = (s.setBlock p none).underrun p := by
      rw [hfiled, State.lostVoices_cons hw hv]
      rfl
    subst hu
    intro bank events
    refine ⟨fun hlow => ⟨?_, fun hen hempty => ?_⟩, fun hen q hm hl => ?_, fun hfull => ?_⟩
    · rw [hstreak, State.underrun_early hlow]
      have hk := (congrArg Mixer.streak (MixMove.fileFault (s.abandoned p (s.mix.streak.get p + 1)) .underrun p.val (s.mix.streak.get p + 1)) :)
      exact (congrArg (fun k : Tab Nat 13 => k.get p) hk).trans (Tab.get_set_self _ _ _)
    · have hrec := congrArg FaultBank.record (State.fileFault_bank (k := .underrun) rfl (s.abandoned p (s.mix.streak.get p + 1)) p.val
        (s.mix.streak.get p + 1))
      rw [← State.underrun_early hlow] at hrec
      obtain ⟨y, hy, hyx⟩ := hend.record _ (hrec.trans (FaultBank.file_empty hempty _ _ _ _ _)) (.inr hen)
      exact ⟨y, hy, (congrArg FaultRecord.kind hyx :), (congrArg FaultRecord.detail1 hyx :), (congrArg FaultRecord.detail2 hyx :),
        (congrArg FaultRecord.stamp hyx :)⟩
    · obtain ⟨n, d, hfirst, -⟩ := s.underrun_first p
      obtain ⟨e, hq⟩ := State.filed_queue (s := s.abandoned p n) (k := .underrun) (r := q) hen hm hl p.val d
      obtain ⟨l, hl'⟩ := (hfirst.trans hend.inner).queues q
      refine ⟨e, ?_⟩
      rw [← hl', hq, List.append_assoc]
      exact (List.getElem?_append_right (Nat.le_refl _)).trans (by rw [Nat.sub_self]; rfl)
    · obtain ⟨h0, hrec, hcrit⟩ := State.underrun_streak hfull
      refine ⟨by rw [hstreak, h0], fun hu => ?_, fun hen => ?_⟩
      · obtain ⟨o, e, hr⟩ := hrec hu
        obtain ⟨y, hy, hyx⟩ := hend.record _ hr (.inl rfl)
        exact ⟨y, hy, (congrArg FaultRecord.kind hyx :), (congrArg FaultRecord.uncorrected hyx :), (congrArg FaultRecord.detail1 hyx :),
          (congrArg FaultRecord.detail2 hyx :), (congrArg FaultRecord.stamp hyx :)⟩
      · obtain ⟨hp, hfall⟩ := hcrit hen
        refine ⟨hend.pending.trans hp, fun hpend => ?_⟩
        have hop := hfall hpend
        exact (congrArg Control.op (hend.ctl (by rw [hop]; nofun))).trans hop

end Sys2Proof.Machine
end
